-- ==== Sys2Proof/Word.lean ====
section
/-! DEFINITION. The word types of the Dorhale 460: what the manual treats as bits. -/

namespace Sys2Proof

/-- One byte of memory, of a chute stream or of a record. -/
abbrev Byte := BitVec 8

/-- One host bus beat or one word of stacked DRAM: 8 bytes (00_scope.md section 6, R149, R155).
Byte `k` of the beat, at address + `k`, is bits `8k` to `8k + 7`. -/
abbrev Beat := BitVec 64

/-- The byte enables of a beat: bit `k` enables byte `k` (R149). -/
abbrev Enables := BitVec 8

/-- A host bus byte address. R175 reports bits 0 to 34 of it. -/
abbrev Addr := BitVec 35

/-- A plant clock value: a count of 100 µs ticks, modulo 2³² (R169). -/
abbrev Tick := BitVec 32

/-- A 32-bit count, version or generation (R2, R83, R170). -/
abbrev Count := BitVec 32

/-- The 16-bit number by which the host names a plate (R114). -/
abbrev Tag := BitVec 16

/-- A lane number, 0 to 3. -/
abbrev LaneId := Fin 4

end Sys2Proof
end

