-- ==== Sys2Proof/Syntax.lean ====
section
/-! DEFINITION. The commands of the block: one constructor for each row of spec/opcode_table.json. -/

namespace Sys2Proof

/-- One host request on the host bus: one 8-byte beat (R149). -/
inductive Access
  /-- A read of the beat at an address. -/
  | read (a : Addr)
  /-- A write of the beat at an address, with its byte enables and data. -/
  | write (a : Addr) (be : Enables) (d : Beat)
deriving DecidableEq, Repr

/-- The two chutes (R28, R152). -/
inductive Chute
  | inflow
  | order
deriving DecidableEq, Repr

/-- How far the Unpacker goes with its segment in one command (notes/assumptions/7.md): to the page table's
decision of its claim (step 2 of R43), or to the end of the segment. -/
inductive SegPart
  | claim
  | whole
deriving DecidableEq, Repr

/-- The cause a setter's FAULT carries (R129); `other` is a cause the rule does not name. -/
inductive FaultCause
  | jam
  | noPlate
  | punch
  | optics
  | other
deriving DecidableEq, Repr

/-- A command: one whole and indivisible step of the part. -/
inductive Instr
  /-- INFLOW_CHUTE_WRITE (R28): a host write at an offset of the inflow chute. -/
  | inflowChuteWrite (off : BitVec 12) (be : Enables) (d : Beat)
  /-- ADMISSION (R33). -/
  | admission
  /-- RING_WRITE_DONE (R34). -/
  | ringWriteDone
  /-- INFLOW_HOLD_TIMEOUT (R36). -/
  | inflowHoldTimeout
  /-- FILLER (R45). -/
  | filler
  /-- UNKNOWN_KIND (R45). -/
  | unknownKind
  /-- PAGE_OPEN (R48). -/
  | pageOpen (upTo : SegPart)
  /-- FRAMES_STALL_END (R49). -/
  | framesStallEnd
  /-- STRIP (R52). -/
  | strip (upTo : SegPart)
  /-- PHOTO_HEAD (R53). -/
  | photoHead (upTo : SegPart)
  /-- PHOTO_PART (R56). -/
  | photoPart (upTo : SegPart)
  /-- PAGE_CLOSE (R58, R59). -/
  | pageClose (upTo : SegPart)
  /-- REMAKE_TILE (R60, R61). -/
  | remakeTile (upTo : SegPart)
  /-- PATCHES_STALL_END (R60). -/
  | patchesStallEnd
  /-- DEFERRAL_STALL_END (R47). -/
  | deferralStallEnd
  /-- ORDER_CHUTE_WRITE (R152): a host write at an offset of the order chute. -/
  | orderChuteWrite (off : BitVec 12) (be : Enables) (d : Beat)
  /-- ORDER_RECORD_QUEUED (R152). -/
  | orderRecordQueued
  /-- ORDER_HOLD_TIMEOUT (R152). -/
  | orderHoldTimeout
  /-- QUEUE_PLATE (R116). -/
  | queuePlate
  /-- WITHDRAW_PLATE (R125). -/
  | withdrawPlate
  /-- PURGE_PAGE (R18). -/
  | purgePage
  /-- PURGE_COMPLETE (R19). -/
  | purgeComplete
  /-- OPEN_LOCAL_PAGE (R20). -/
  | openLocalPage
  /-- CLOSE_LOCAL_PAGE (R21). -/
  | closeLocalPage
  /-- SET_PROOF (R110). -/
  | setProof
  /-- RUN_LANE (R145). -/
  | runLane
  /-- STOP_LANE (R145). -/
  | stopLane
  /-- RELOAD_PROFILE (R165). -/
  | reloadProfile
  /-- UNKNOWN_ORDER (R153). -/
  | unknownOrder
  /-- PROFILE_LOAD_JUDGED (R162). -/
  | profileLoadJudged
  /-- PROFILE_COMMIT_WRITE (R164): a host write of the beat that ends with the commit word. -/
  | profileCommitWrite (be : Enables) (d : Beat)
  /-- PLATE_LATE (R121): the test of the plate with this tag. -/
  | plateLate (tag : Tag)
  /-- LANE_ROW_COMPOSED (R107). -/
  | laneRowComposed (l : LaneId)
  /-- READY (R135). -/
  | ready (l : LaneId)
  /-- PULL n (R136). -/
  | pull (l : LaneId) (n : BitVec 16)
  /-- EXPOSED tag (R139). -/
  | exposed (l : LaneId) (tag : Tag)
  /-- EJECTED tag (R140). -/
  | ejected (l : LaneId) (tag : Tag)
  /-- FAULT (R141): the setter's media fault. -/
  | setterFault (l : LaneId) (cause : FaultCause)
  /-- SETTER_IDLE (R129). -/
  | setterIdle (l : LaneId)
  /-- LINK_LOSS (R143). -/
  | linkLoss (l : LaneId)
  /-- LANE_IDLE_SEND (R130). -/
  | laneIdleSend (l : LaneId)
  /-- PROOF_READ (R111): a host read at an offset of the proof window. -/
  | proofRead (off : BitVec 26)
  /-- PASSING_ACCESS (R150). -/
  | passingAccess (r : Access)
  /-- CHUTE_READ (R150): a host read at an offset of a chute. -/
  | chuteRead (c : Chute) (off : BitVec 12)
  /-- UNMAPPED_ACCESS (R149). -/
  | unmappedAccess (r : Access)
  /-- DROPPED_WRITE (R151). -/
  | droppedWrite (a : Addr) (be : Enables) (d : Beat)
  /-- CONSUMED_COUNT_WRITE (R172): a host write of the consumed count word. -/
  | consumedCountWrite (be : Enables) (d : Beat)
  /-- OVERFLOW_WORD_WRITE (R173): a host write of the overflow word. -/
  | overflowWordWrite (be : Enables) (d : Beat)
  /-- REPORT_WRITE (R171). -/
  | reportWrite
  /-- POWER_ON_RESET (R167). -/
  | powerOnReset
  /-- WARM_RESET (R168). -/
  | warmReset
deriving DecidableEq, Repr

end Sys2Proof
end

