-- ==== Sys2Proof/Decode.lean ====
section
/-! DEFINITION. The command a word spells by the bits of spec/opcode_table.json. No row of this table gives bits
(98_reader.md: n_rows_with_fixed is 0 and n_rows_with_fields is 0), so no word spells a command. -/

namespace Sys2Proof

/-- The command that the `nbits`-bit word `w` spells: none, since no row of the table has bits. -/
def decodeTableWord (_nbits _w : Nat) : Option Instr := none

end Sys2Proof
end

