-- ==== Sys2Proof/Config.lean ====
section
/-! DEFINITION. The requesters of memory, what happens at its port, and what the specification leaves open: free values,
constants without a body. Each is applied to the model's counter `State.free`, which every use advances, so that no two
uses are tied together and nothing can be proved about the value. -/

namespace Sys2Proof.Machine

/-- A requester of stacked DRAM (R156). -/
inductive Requester
  | composer (l : LaneId)
  | systemPort
  | proofComposer
  | lander
  | unpacker
  | profileLoader
  | reportWriter
deriving DecidableEq, Repr

/-- What happens at the memory port within a tick (R156): a request arrives, for a number of words, or the arbiter grants
one. -/
inductive PortEvent
  | arrives (r : Requester) (words : Nat)
  | grant
deriving DecidableEq, Repr

end Sys2Proof.Machine

namespace Sys2Proof.Config

/-- R15: when one step lets both the Unpacker and a lane claim the same page, whether the Unpacker's claim reaches
the page table first. Free, see notes/assumptions/9.md. -/
opaque unpackerFirst : Nat → Bool

/-- R35, R156: whether the Lander's outstanding ring-word request had been granted, and so reaches memory, when its
segment is cut or a reset comes. Free, see notes/assumptions/10.md. -/
opaque ringWriteReached : Nat → Bool

/-- R162, R164: how many of its 512 words the profile loader has read, during a load, when a host write to the profile
record is taken or the Lander makes a request. Free, see notes/assumptions/11.md. -/
opaque profileWordsRead : Nat → Nat

/-- R155: the word, if any, in which an uncorrectable error arises during a tick. Free, see notes/assumptions/5.md. -/
opaque freshError : Nat → Option Nat

/-- R61, R155: the bytes with which the Unpacker's decoder goes on after the last payload byte it can read, when a
word of a remake's payload has an uncorrectable error and so gives no data; none, if the decoder stops there. Free, see
notes/assumptions/34.md. -/
opaque afterError : Nat → List Byte

/-- R156, R168: whether a word of a write under way at a warm reset had reached memory, by the word's number. Free, see
notes/assumptions/39.md. -/
opaque wordReached : Nat → Nat → Bool

/-- R156: what happens at the memory port within a tick, in order: when requests arrive, how many words each asks for, and
how many are granted. Free, see notes/assumptions/13.md. -/
opaque portEvents : Nat → List Machine.PortEvent

end Sys2Proof.Config
end

