-- ==== Sys2Proof/Machine/State.lean ====
section
/-! DEFINITION. The state of the Dorhale 460: everything the manual gives the part, as plain data, and the state right
after power-on reset. INVENTORY.md lists every field with its rule and reset value. -/

namespace Sys2Proof.Machine

/-- Why a step stops with a fault. There is none: every refusal of the manual is an answer, a notice, an error
response or a dropped write, and so an effect on the state (INVENTORY.md, Faults). Nothing raises one; safe. -/
inductive Fault
deriving DecidableEq, Repr

/-- Why a step has no meaning. -/
inductive Refusal
  /-- Raised by an arm of `exec` whose command has no meaning yet; safe. No arm raises it. -/
  | notModelled (mnemonic : String)
deriving DecidableEq, Repr

/-- Stacked DRAM as the list of its bytes that differ from what an unlisted address reads as, by rising address. -/
abbrev Memory := List Host.Cell

/-- Four like things, one for each lane or each screen slot. -/
structure Quad (α : Type) where
  q0 : α
  q1 : α
  q2 : α
  q3 : α
deriving DecidableEq, Repr

/-- A page key: edition, page and separation as received (R1, R37). -/
structure Key where
  edition : Byte
  page : Byte
  separation : Byte
deriving DecidableEq, Repr

/-! ## Pages (chapter 1) -/

/-- The state of a page record that is not FREE (R3). -/
inductive PageState
  | opened
  | localPage
  | closed
deriving DecidableEq, Repr

/-- A strip state (R2, R7). -/
inductive StripState
  | absent
  | good
  | bad
deriving DecidableEq, Repr

/-- The two flags of a tile (R71, R72). -/
structure TileFlags where
  photo : Bool
  store : Bool
deriving DecidableEq, Repr

/-- Whether a photo still expects sample rows (R8). -/
inductive PhotoState
  | receiving
  | complete
deriving DecidableEq, Repr

/-- A photo record (R8). The rectangle is in tiles, `scale` is 4 or 8. -/
structure PhotoRecord where
  index : Nat
  tx0 : Nat
  ty0 : Nat
  w : Nat
  h : Nat
  scale : Nat
  base : Nat
  nextRow : Nat
  state : PhotoState
deriving DecidableEq, Repr

/-- A page record that is not FREE (R2). Its frame is its place among the 160 records. `strips` is by strip index,
`tiles` by `ty * tw + tx`, `photos` by rising index; `deferred` refers to landed entries by ring offset, in ring order.
`purgePending` holds the tag of the waiting PURGE PAGE order (R18, R153). -/
structure Page where
  key : Key
  state : PageState
  localFlag : Bool
  tw : Nat
  th : Nat
  screenSlot : Nat
  version : Count
  lockCount : Nat
  strips : List StripState
  tiles : List TileFlags
  damaged : Nat
  photos : List PhotoRecord
  photoFill : Nat
  deferred : List Nat
  purgePending : Option Tag
  openStamp : Tick
  closeStamp : Option Tick
deriving DecidableEq, Repr

/-- A patch entry (R66). -/
structure PatchEntry where
  frame : Nat
  tx : Nat
  ty : Nat
  slot : Nat
  spoilt : Bool
deriving DecidableEq, Repr

/-! ## The Lander and the landed list (chapter 2) -/

/-- The header fields the part keeps of a segment (R25): those copied into the landed entry (R37). -/
structure SegHeader where
  kind : Byte
  key : Key
  length : Nat
  locator : Nat
  arg : Nat
deriving DecidableEq, Repr

/-- The fixed fields of a landed entry (R37). Its total length follows from the payload length (R24). -/
structure Segment where
  offset : Nat
  header : SegHeader
  stamp : Tick
deriving DecidableEq, Repr

/-- The state of a landed entry (R38). -/
inductive EntryState
  | landed
  | deferred
  | done
deriving DecidableEq, Repr

/-- A landed entry (R37). -/
structure LandedEntry where
  seg : Segment
  state : EntryState
deriving DecidableEq, Repr

/-- A ring-word request of the Lander outstanding at the memory port (R34): the ring offset of its first byte, its
bytes, and how many of them, the last ones, are bytes of the chute write being taken. -/
structure RingRequest where
  offset : Nat
  bytes : List Byte
  stream : Nat
deriving DecidableEq, Repr

/-- The segment in BODY: the 16 header bytes collected, their fields, the arrival stamp (R30), the start offset once
admitted (R33), the count of bytes landed and the outstanding ring-word request (R34). -/
structure Body where
  raw : List Byte
  header : SegHeader
  stamp : Tick
  start : Option Nat
  landed : Nat
  request : Option RingRequest
deriving DecidableEq, Repr

/-- The Lander's state (section 2.3). -/
inductive Lander
  /-- SEEK, with the bytes of the group in examination, at most 3 between steps (R29). -/
  | seek (group : List Byte)
  /-- HEADER, with the 4 to 15 bytes collected (R30). -/
  | header (got : List Byte)
  /-- BODY (R34). -/
  | body (b : Body)
deriving DecidableEq, Repr

/-! ## The Unpacker (chapter 3) -/

/-- The payload fields of a PAGE OPEN (R48). -/
structure OpenFields where
  tw : Nat
  th : Nat
  slot : Nat
deriving DecidableEq, Repr

/-- How far the Unpacker is with the entry in hand (R43). -/
inductive UnpackPhase
  /-- Taken, nothing tested yet. -/
  | taken
  /-- A PAGE OPEN that is no duplicate when its first case is tested, and whose payload is to be read (R48). -/
  | opening
  /-- The header test is passed and the claim is granted (R46). -/
  | claimed
  /-- A REMAKE TILE whose slot is taken and counted in use, and whose payload is to be read and decoded (R60, R61). -/
  | decoding (slot : Nat)
  /-- A PAGE OPEN whose payload is judged and whose creation request is not yet sent (R48). -/
  | judged (o : OpenFields)
  /-- The segment is applied and its end waits to be taken with the pending purge (R14, R19). -/
  | applied
deriving DecidableEq, Repr

/-- The cause of a stall (R63). -/
inductive StallCause
  | frames
  | patches
  | deferral
deriving DecidableEq, Repr

/-- The Unpacker's state (R42). A FRAMES stall holds the fields already checked (R49). -/
inductive Unpacker
  | idle
  | working (seg : Segment) (phase : UnpackPhase)
  | stalled (seg : Segment) (cause : StallCause) (fields : Option OpenFields) (noticeGiven : Bool)
deriving DecidableEq, Repr

/-! ## The plant profile (chapters 5, 6 and 10) -/

/-- The contents of a screen slot (R83): cell vector, 17 knots, and 256 thresholds by 16 × row + column. -/
structure ScreenSlot where
  a : Nat
  b : Nat
  knots : List Byte
  thr : List Byte
deriving DecidableEq, Repr

/-- What a mark draws (R102). -/
inductive MarkKind
  | off
  | solid
  | cross
  | slug
deriving DecidableEq, Repr

/-- A mark (R102). -/
structure Mark where
  kind : MarkKind
  x : Nat
  y : Nat
  w : Nat
  h : Nat
  stroke : Nat
  dot : Nat
deriving DecidableEq, Repr

/-- A lane's polarity (R105). -/
inductive Polarity
  | positive
  | negative
deriving DecidableEq, Repr

/-- A lane's entry in the profile (R161). -/
structure LaneLevels where
  polarity : Polarity
  preload : Nat
  highWater : Nat
deriving DecidableEq, Repr

/-- The latched profile (R161). -/
structure Profile where
  holdLimit : Nat
  generation : Count
  levels : Quad LaneLevels
  slots : Quad ScreenSlot
  marks : List Mark
deriving DecidableEq, Repr

/-- The engine state (R163). -/
inductive Engine
  | passThrough
  | active
deriving DecidableEq, Repr

/-- The cause of a profile load (R161). -/
inductive LoadCause
  | commit
  | reload
  | warmReset
deriving DecidableEq, Repr

/-- A profile load in progress (R161, R162): its cause and the words read so far, in ascending address order; `none`
is a word read with an uncorrectable error. -/
structure Load where
  cause : LoadCause
  got : List (Option (List Byte))
deriving DecidableEq, Repr

/-! ## Reading through the memory port (R99, R156) -/

/-- How far a requester is with words that it reads one access after another (R156): how many it has read, the first of
them, by its number, that had an uncorrectable error (R155), and how many the request that waits for it asks for, 0 where
none waits. -/
structure Reading where
  words : Nat
  failed : Option Nat
  asked : Nat
deriving DecidableEq, Repr

/-- A reading of which nothing is read and nothing asked for. -/
def Reading.start : Reading := ⟨0, none, 0⟩

/-- What the composer makes a span from (R98 steps 1 to 3, R99). -/
inductive SpanSource
  | patch (slot : Nat)
  | hatch
  | page (photo : Option PhotoRecord)
deriving DecidableEq, Repr

/-- A span in composition (R99): the answer of its lookup, and how far the reading of its words is. -/
structure SpanWork where
  source : SpanSource
  read : Reading
deriving DecidableEq, Repr

/-! ## Plates and lanes (chapters 6, 7 and 8) -/

/-- The state of a live plate (R115). -/
inductive PlateState
  | queued
  | loading
  | exposing
  | finishing
  | cancelling
deriving DecidableEq, Repr

/-- Why the page table refused a load request (R120). -/
inductive HeldReason
  | pageOpen
  | revising
  | deferred
  | damaged
  | lockLimit
deriving DecidableEq, Repr

/-- The cause of a spoil (R122). -/
inductive SpoilCause
  | underrun
  | media
  | link
  | store
deriving DecidableEq, Repr

/-- A plate record (R114). `returned` says that the plate keeps the place at the front it took on its last return to
QUEUED, until a START (R118). -/
structure Plate where
  tag : Tag
  key : Key
  lane : LaneId
  allowance : Nat
  attempt : Nat
  rush : Bool
  release : Bool
  latestStart : Tick
  lateReported : Bool
  returned : Bool
  state : PlateState
  held : Option HeldReason
  spoil : Option SpoilCause
  withdrawPending : Bool
  version : Option Count
  generation : Option Count
deriving DecidableEq, Repr

/-- A composition context (R97, R106). -/
structure Context where
  key : Key
  frame : Nat
  tw : Nat
  th : Nat
  version : Count
  generation : Count
  slot : ScreenSlot
  marks : List Mark
  polarity : Polarity
  attempt : Nat
deriving DecidableEq, Repr

/-- A latched context and the count of plate rows composed under it (R107), with the row in composition: its spans
looked up so far, from tile column 0 on (R99, R108). -/
structure Latched where
  ctx : Context
  composed : Nat
  row : List SpanWork
deriving DecidableEq, Repr

/-- Whether a buffered row is the front plate's or the back plate's (R133). -/
inductive RowMark
  | front
  | back
deriving DecidableEq, Repr

/-- A row in a lane buffer (R133). -/
structure BufferedRow where
  mark : RowMark
  bytes : List Byte
deriving DecidableEq, Repr

/-- A message from the part to a setter (R130). -/
inductive SetterMsg
  | start (tag : Tag) (rows : Nat) (rowBytes : Nat)
  | row (bytes : List Byte)
  | finish (tag : Tag)
  | cancel (tag : Tag)
  | idle
deriving DecidableEq, Repr

/-- A lane's mode (R132). -/
inductive LaneMode
  | run
  | stop
  | fault
deriving DecidableEq, Repr

/-- A lane: its controller, composer, buffer, queue and link (R114, R107, R131, R133). The front plate and the back
plate are the plates of `queue` whose states say so (R115). `sent` is the model's record of the messages put on the
link, oldest first. -/
structure Lane where
  mode : LaneMode
  drumReady : Bool
  owed : Nat
  queue : List Plate
  frontCtx : Option Latched
  backCtx : Option Latched
  buffer : List BufferedRow
  lastMessage : Option Tick
  lastHeld : Option (Tag × HeldReason)
  lastSent : Tick
  sent : List SetterMsg
deriving DecidableEq, Repr

/-! ## Host traffic, orders and reports (chapters 9 and 11) -/

/-- A chute write being held (R35, R152): its address, its bytes not yet taken and when its hold timer started. -/
structure HeldWrite where
  chute : Chute
  addr : Addr
  rest : List Byte
  since : Tick
deriving DecidableEq, Repr

/-- A response on the host bus (00_scope.md section 6). -/
inductive HostResponse
  | data (d : Beat)
  | ok
  | error
deriving DecidableEq, Repr

/-- An order record, its fields as R158 lays them out. -/
structure Order where
  kind : Byte
  rush : Bool
  release : Bool
  tag : Tag
  key : Key
  lane : Byte
  allowance : Byte
  tw : Byte
  th : Byte
  latestStart : Tick
deriving DecidableEq, Repr

/-- The kinds of report (R159). -/
inductive ReportKind
  | orderDone
  | plateOutcome
  | pageClosed
  | pageRevised
  | pagePurged
  | segmentNotice
  | laneNotice
  | late
  | access
  | profileLoaded
  | profileRejected
deriving DecidableEq, Repr

/-- A report: the fields of R159. -/
structure Report where
  kind : ReportKind
  code : Byte
  tag : Tag
  stamp : Tick
  key : Key
  lane : Byte
  detailA : Count
  detailB : Count
  detailC : Count
  detailD : Count
deriving DecidableEq, Repr

/-! ## The whole state -/

/-- The state of the part, the commands waiting for it, and the model's own fields (INVENTORY.md, State). -/
structure State where
  /-- The commands waiting, first in first out. -/
  pending : List Instr
  /-- Stacked DRAM (R5). -/
  mem : Memory
  /-- The words, by word number, that hold an uncorrectable error, rising (R155). -/
  badWords : List Nat
  /-- The lane last granted in class 1 of the arbiter (R156). -/
  arbLast1 : LaneId
  /-- The lane last granted in class 4 of the arbiter (R156). -/
  arbLast4 : LaneId
  /-- The requests waiting at the memory port, in arrival order, but for the Lander's, which `lander` holds (R156). -/
  waiting : List Requester
  /-- The plant clock (R169). -/
  clock : Tick
  /-- The engine state (R161). -/
  engine : Engine
  /-- The profile loader: IDLE (`none`) or LOADING (R161). -/
  loader : Option Load
  /-- The latched profile, and with it the generation (R161). -/
  profile : Option Profile
  /-- The chute write the system port holds (R35, R152). -/
  held : Option HeldWrite
  /-- The model's record of the responses given on the host bus, oldest first. -/
  responses : List HostResponse
  /-- The Lander (section 2.3). -/
  lander : Lander
  /-- The discard count (R31). -/
  discarded : Nat
  /-- The ring's head (R32). -/
  ringHead : Nat
  /-- The ring's tail (R32). -/
  ringTail : Nat
  /-- The ring's occupancy (R32). -/
  ringUsed : Nat
  /-- The landed list, oldest first (R37, R40). -/
  landed : List LandedEntry
  /-- The Unpacker (R42). -/
  unpacker : Unpacker
  /-- How far the Unpacker's reading of the payload and trailer of the segment last taken up is (R44, R156). -/
  payloadRead : Reading
  /-- The page records, by frame number; `none` is FREE (R1). -/
  pages : List (Option Page)
  /-- The Unpacker's page (R14). -/
  unpackerPage : Option Nat
  /-- The patch table (R66). -/
  patches : List PatchEntry
  /-- The pool's in-use map, as the rising list of slots in use (R64). -/
  slotsInUse : List Nat
  /-- The slot pointer (R65). -/
  slotPointer : Nat
  /-- The proof binding: a page's key and frame (R110). -/
  proof : Option (Key × Nat)
  /-- The four lanes (R131). -/
  lanes : Quad Lane
  /-- The order assembly buffer (R152). -/
  assembly : List Byte
  /-- The order queue, oldest first (R153). -/
  orderQueue : List Order
  /-- The executor's order in hand (R153). -/
  inHand : Option Order
  /-- The write count (R170). -/
  writeCount : Count
  /-- The consumed copy (R170). -/
  consumed : Count
  /-- The overflow flag (R170). -/
  overflowFlag : Bool
  /-- How many writes of 1 to the overflow word the report writer has waiting at the memory port (R156, R173). -/
  overflowOwed : Nat
  /-- The pending list of reports, oldest first (R170). -/
  reports : List Report
  /-- The ATTN line (R174). -/
  attn : Bool
  /-- The model's counter of free values used (Config). -/
  free : Nat
deriving DecidableEq, Repr

/-- A lane after reset (R131, R128, R108, R148). -/
def Lane.reset : Lane where
  mode := .fault
  drumReady := false
  owed := 0
  queue := []
  frontCtx := none
  backCtx := none
  buffer := []
  lastMessage := none
  lastHeld := none
  lastSent := 0
  sent := []

/-- The part right after power-on reset (R167): R23 pages, R41 Lander, R63 Unpacker, R69 patches, R108 and R110
composers, R128 queues, R148 lanes, R152 and R153 orders, R156 arbiter, R161 engine and profile, R169 clock, R176
reports. The count words written at the release are 0, which an unlisted byte reads as. -/
def State.reset : State where
  pending := []
  mem := []
  badWords := []
  arbLast1 := 3
  arbLast4 := 3
  waiting := []
  clock := 0
  engine := .passThrough
  loader := none
  profile := none
  held := none
  responses := []
  lander := .seek []
  discarded := 0
  ringHead := 0
  ringTail := 0
  ringUsed := 0
  landed := []
  unpacker := .idle
  payloadRead := Reading.start
  pages := List.replicate 160 none
  unpackerPage := none
  patches := []
  slotsInUse := []
  slotPointer := 0
  proof := none
  lanes := ⟨Lane.reset, Lane.reset, Lane.reset, Lane.reset⟩
  assembly := []
  orderQueue := []
  inHand := none
  writeCount := 0
  consumed := 0
  overflowFlag := false
  overflowOwed := 0
  reports := []
  attn := false
  free := 0

end Sys2Proof.Machine
end

