-- ==== Sys2Proof/Machine/Ops.lean ====
section
/-! DEFINITION. The named operations over memory, the page records, the lanes, the report list and the host bus, which
every command uses. -/

namespace Sys2Proof.Machine

/-! ## Bytes and words -/

/-- Byte `k` of a beat, at the beat's address + `k` (notes/assumptions/14.md). -/
def beatByte (d : Beat) (k : Nat) : Byte := d.extractLsb' (8 * k) 8

/-- The beat made of 8 bytes, the first at the lowest address. -/
def beatOf (bs : List Byte) : Beat :=
  bs.foldr (fun b acc => (acc <<< 8) ||| b.setWidth 64) 0

/-- A little-endian number of any number of bytes (00_scope.md section 5). -/
def leNat (bs : List Byte) : Nat := bs.foldr (fun b acc => b.toNat + 256 * acc) 0

/-- The first `n` bytes, least significant first, of a number. -/
def leBytes : Nat → Nat → List Byte
  | 0, _ => []
  | n + 1, v => BitVec.ofNat 8 v :: leBytes n (v / 256)

/-- The byte whose most significant bit is `f 0` and whose least significant bit is `f 7`: the leftmost pixel is the
most significant bit (00_scope.md section 5). -/
def packByte (f : Nat → Bool) : Byte := BitVec.ofFnLE fun i : Fin 8 => f (7 - i.val)

/-! ## Memory -/

/-- What a byte of memory that nothing has written reads as: 00h, DESIGN CHOICE (notes/assumptions/4.md). -/
def unwrittenByte : Byte := 0

/-- The byte at an address. -/
def memRead : Memory → Nat → Byte
  | [], _ => unwrittenByte
  | (a, b) :: m, x => if a = x then b else memRead m x

/-- Memory after one byte is written; the canonical form is kept. -/
def memWrite : Memory → Nat → Byte → Memory
  | [], x, v => if v = unwrittenByte then [] else [(x, v)]
  | (a, b) :: m, x, v =>
    if x < a then (if v = unwrittenByte then (a, b) :: m else (x, v) :: (a, b) :: m)
    else if x = a then (if v = unwrittenByte then m else (x, v) :: m)
    else (a, b) :: memWrite m x v

/-- The canonical form: addresses strictly rising and no entry equal to what an unlisted address reads as. -/
def Memory.wf : Memory → Bool
  | [] => true
  | [(_, b)] => b != unwrittenByte
  | (a, b) :: (a', b') :: m => b != unwrittenByte && decide (a < a') && Memory.wf ((a', b') :: m)

/-- The `n` bytes from an address on. -/
def memReadBytes (m : Memory) (a n : Nat) : List Byte := (List.range n).map fun i => memRead m (a + i)

/-- Memory after bytes are written from an address on. -/
def memWriteBytes : Memory → Nat → List Byte → Memory
  | m, _, [] => m
  | m, a, b :: bs => memWriteBytes (memWrite m a b) (a + 1) bs

/-- A number put into a rising list without repeats. -/
def insertSorted : Nat → List Nat → List Nat
  | x, [] => [x]
  | x, y :: ys => if x < y then x :: y :: ys else if x = y then y :: ys else y :: insertSorted x ys

/-- The word number of a byte address. -/
def wordOf (a : Nat) : Nat := a / 8

/-- Whether the word that holds a byte address has an uncorrectable error (R155). -/
def State.bad (s : State) (a : Nat) : Bool := s.badWords.contains (wordOf a)

/-- Whether any of the words that hold `n` bytes from an address on has an uncorrectable error (R155). -/
def State.anyBad (s : State) (a n : Nat) : Bool := (List.range n).any fun i => s.bad (a + i)

/-- Whole words written from a word-aligned address on, with fresh ECC: an error in a word replaced is gone (R155). -/
def writeWords (a : Nat) (bs : List Byte) (s : State) : State :=
  { s with
    mem := memWriteBytes s.mem a bs
    badWords := s.badWords.filter fun w => !(decide (a ≤ 8 * w) && decide (8 * w < a + bs.length)) }

/-- A little-endian number written as one whole word (R170, R173, R176). -/
def writeCountWord (a : Nat) (v : Count) (s : State) : State := writeWords a (leBytes 8 v.toNat) s

/-! ## Four lanes, four slots -/

/-- The entry of a number. -/
def Quad.get {α : Type} (q : Quad α) (i : Fin 4) : α :=
  match i with
  | 0 => q.q0
  | 1 => q.q1
  | 2 => q.q2
  | 3 => q.q3

/-- The four with the entry of one number replaced. -/
def Quad.set {α : Type} (q : Quad α) (i : Fin 4) (v : α) : Quad α :=
  match i with
  | 0 => { q with q0 := v }
  | 1 => { q with q1 := v }
  | 2 => { q with q2 := v }
  | 3 => { q with q3 := v }

/-- The lanes from 0 to 3. -/
def allLanes : List LaneId := [0, 1, 2, 3]

/-- A lane of the part. -/
def State.lane (s : State) (l : LaneId) : Lane := s.lanes.get l

/-- One lane changed. -/
def modLane (l : LaneId) (g : Lane → Lane) (s : State) : State :=
  { s with lanes := s.lanes.set l (g (s.lanes.get l)) }

/-! ## Page records -/

/-- The page in a frame, or none when its record is FREE (R1). -/
def State.page (s : State) (f : Nat) : Option Page := s.pages.getD f none

/-- The record of a frame replaced. -/
def setPage (f : Nat) (r : Option Page) (s : State) : State := { s with pages := s.pages.set f r }

/-- The page of a frame changed; a FREE record stays. -/
def modPage (f : Nat) (g : Page → Page) (s : State) : State :=
  match s.page f with
  | some p => setPage f (some (g p)) s
  | none => s

/-- Whether a record holds the page of a key (R1). -/
def holdsKey (k : Key) (r : Option Page) : Bool :=
  match r with
  | some p => p.key == k
  | none => false

/-- Lookup by page key: the frame of the page, or none when the key is not present (R1). -/
def State.findPage (s : State) (k : Key) : Option Nat := s.pages.findIdx? (holdsKey k)

/-- The lowest-numbered frame whose record is FREE (R4). -/
def State.freeFrame (s : State) : Option Nat := s.pages.findIdx? Option.isNone

/-- The page with a key, with its frame. -/
def State.present (s : State) (k : Key) : Option (Nat × Page) :=
  match s.findPage k with
  | some f =>
    match s.page f with
    | some p => some (f, p)
    | none => none
  | none => none

/-! ## The host bus -/

/-- A response given on the host bus. -/
def respond (r : HostResponse) (s : State) : State := { s with responses := s.responses ++ [r] }

/-! ## Links -/

/-- A message sent on a lane's link; the lane's sending timer restarts (R130). -/
def sendMsg (l : LaneId) (m : SetterMsg) (s : State) : State :=
  modLane l (fun L => { L with sent := L.sent ++ [m], lastSent := s.clock }) s

/-! ## The plant clock and errors in memory -/

/-- The number of 8-byte words of stacked DRAM (R5, R155). -/
def dramWords : Nat := 2147483648

/-- The words with an uncorrectable error after a tick: whether and where one arises meanwhile is free (R155,
notes/assumptions/5.md). -/
def errorsArisen (s : State) : List Nat :=
  match Config.freshError s.free with
  | some w => if w < dramWords then insertSorted w s.badWords else s.badWords
  | none => s.badWords

/-! ## Free values -/

/-- One free value used: the counter moves on. -/
def useFree (s : State) : State := { s with free := s.free + 1 }

end Sys2Proof.Machine
end

