-- ==== Sys2Proof/Machine/Map.lean ====
section
/-! DEFINITION. The address map (R149), the places of rings, pool and frames (R5, R32, R64, R170), and the geometry of
pages (R6, R7, R8, R9). -/

namespace Sys2Proof.Machine

/-! ## Places -/

/-- The commit word's beat, the last of the profile record (R160, R164). -/
def commitBeat : Nat := 0xFF8
/-- The report ring (chapter 11). -/
def reportRingBase : Nat := 0x100000
/-- The write count word (chapter 11). -/
def writeCountAddr : Nat := 0x102000
/-- The consumed count word (chapter 11). -/
def consumedAddr : Nat := 0x102008
/-- The overflow word (chapter 11). -/
def overflowAddr : Nat := 0x102010
/-- The inflow chute (R28). -/
def inflowChuteBase : Nat := 0x200000
/-- The order chute (R149). -/
def orderChuteBase : Nat := 0x300000
/-- The inflow ring (R32). -/
def ringBase : Nat := 0x1000000
/-- The size of the inflow ring: 32 MiB (R32). -/
def ringSize : Nat := 33554432
/-- The patch pool (R64). -/
def poolBase : Nat := 0x4000000
/-- The number of pool slots (R64). -/
def poolSlots : Nat := 4096
/-- The size of a tile or a pool slot in bytes (R6, R64). -/
def tileBytes : Nat := 8192
/-- The frames (R5). -/
def framesBase : Nat := 0x8000000
/-- The size of a frame (R5). -/
def frameSize : Nat := 0x6000000
/-- The size of a frame's line-art area (R5). -/
def lineArtSize : Nat := 0x4000000
/-- The size of a frame's photo area (R5, R8). -/
def photoAreaSize : Nat := 33554432
/-- The end of the frames (R5). -/
def framesEnd : Nat := 0x3C8000000
/-- The proof window, and the end of plain memory (R149). -/
def proofBase : Nat := 0x400000000
/-- The end of the proof window (R149). -/
def proofEnd : Nat := 0x404000000

/-- The base of a frame (R5). -/
def frameBase (f : Nat) : Nat := framesBase + f * frameSize
/-- The base of a frame's photo area (R5). -/
def photoBase (f : Nat) : Nat := frameBase f + lineArtSize
/-- The base of a pool slot (R64). -/
def slotBase (n : Nat) : Nat := poolBase + n * tileBytes
/-- The address of a ring offset (R32). -/
def ringAddr (o : Nat) : Nat := ringBase + o % ringSize

/-! ## Regions -/

/-- The regions of the address map (R149). A frame region carries its frame and the offset in the frame. -/
inductive Region
  | profileRecord
  | reportRing
  | writeCount
  | consumedCount
  | overflowWord
  | inflowChute
  | orderChute
  | inflowRing
  | patchPool
  | frame (f : Nat) (off : Nat)
  | proofWindow
  | unmapped
  | plain
deriving DecidableEq, Repr

/-- The region of a byte address (R149). -/
def regionOf (a : Nat) : Region :=
  if a < 0x1000 then .profileRecord
  else if reportRingBase ≤ a ∧ a < writeCountAddr then .reportRing
  else if writeCountAddr ≤ a ∧ a < consumedAddr then .writeCount
  else if consumedAddr ≤ a ∧ a < overflowAddr then .consumedCount
  else if overflowAddr ≤ a ∧ a < overflowAddr + 8 then .overflowWord
  else if inflowChuteBase ≤ a ∧ a < inflowChuteBase + 0x1000 then .inflowChute
  else if orderChuteBase ≤ a ∧ a < orderChuteBase + 0x1000 then .orderChute
  else if ringBase ≤ a ∧ a < ringBase + ringSize then .inflowRing
  else if poolBase ≤ a ∧ a < poolBase + poolSlots * tileBytes then .patchPool
  else if framesBase ≤ a ∧ a < framesEnd then .frame ((a - framesBase) / frameSize) ((a - framesBase) % frameSize)
  else if proofBase ≤ a ∧ a < proofEnd then .proofWindow
  else if proofEnd ≤ a then .unmapped
  else .plain

/-- The beat a byte address lies in: requests are aligned on 8-byte boundaries (R149). -/
def beatAddr (a : Nat) : Nat := 8 * (a / 8)

/-! ## Geometry -/

/-- The offset of a tile in the line-art area (R6). -/
def tileOffset (tw tx ty : Nat) : Nat := (ty * tw + tx) * tileBytes

/-- The offset in the line-art area of the 32-byte row of tile column `tx` that page row `y` crosses (R6). -/
def spanOffset (tw tx y : Nat) : Nat := tileOffset tw tx (y / 256) + (y % 256) * 32

/-- The offset in the line-art area of the byte that holds pixel (x, y) (R6). -/
def pixelOffset (tw x y : Nat) : Nat := spanOffset tw (x / 256) y + (x % 256) / 8

/-- The bit of a raster byte for pixel column `x`, the most significant bit leftmost (R6). -/
def pixelBit (b : Byte) (x : Nat) : Bool := b.getLsbD (7 - x % 8)

/-- A photo's sample width (R8). -/
def photoWidth (w scale : Nat) : Nat := w * 256 / scale
/-- A photo's height in sample rows (R8). -/
def photoHeight (h scale : Nat) : Nat := h * 256 / scale
/-- A photo's size in bytes (R8). -/
def photoSize (w h scale : Nat) : Nat := photoWidth w scale * photoHeight h scale

/-- Whether a photo's rectangle holds a tile (R85). -/
def PhotoRecord.covers (r : PhotoRecord) (tx ty : Nat) : Bool :=
  decide (r.tx0 ≤ tx ∧ tx < r.tx0 + r.w ∧ r.ty0 ≤ ty ∧ ty < r.ty0 + r.h)

/-- The tiles of a rectangle of tiles, row by row. -/
def rectTiles (tx0 ty0 w h : Nat) : List (Nat × Nat) :=
  (List.range h).flatMap fun j => (List.range w).map fun i => (tx0 + i, ty0 + j)

/-- The tiles of one tile row of a page (R70). -/
def rowTiles (tw ty : Nat) : List (Nat × Nat) := rectTiles 0 ty tw 1

/-- Every tile of a page. -/
def allTiles (tw th : Nat) : List (Nat × Nat) := rectTiles 0 0 tw th

end Sys2Proof.Machine
end

