-- ==== Sys2Proof/Machine/Arbiter.lean ====
section
/-! DEFINITION. The memory port's arbiter (R156): classes of requesters, rotation, the requests waiting, and its
choice among them. -/

namespace Sys2Proof.Machine

/-- A plate on the drum: the lane's front plate (R115). -/
def PlateState.onDrum : PlateState → Bool
  | .exposing => true
  | .finishing => true
  | .cancelling => true
  | .queued => false
  | .loading => false

/-- A plate in flight, which locks its page (R12, R115). -/
def PlateState.inFlight : PlateState → Bool
  | .loading => true
  | .exposing => true
  | .finishing => true
  | .cancelling => true
  | .queued => false

/-- The lane's front plate (R115, R131). -/
def Lane.front (L : Lane) : Option Plate := L.queue.find? fun p => p.state.onDrum

/-- The lane's back plate (R115, R131). -/
def Lane.back (L : Lane) : Option Plate := L.queue.find? fun p => p.state == .loading

/-- Whether a lane's front plate is EXPOSING. -/
def Lane.exposing (L : Lane) : Bool :=
  match L.front with
  | some p => p.state == .exposing
  | none => false

/-- A lane's preload in the profile applied (R131, R147). -/
def State.preload (s : State) (l : LaneId) : Nat :=
  match s.profile with
  | some p => (p.levels.get l).preload
  | none => 0

/-- A lane's high-water level in the profile applied (R131, R147); none without a profile. -/
def State.highWater (s : State) (l : LaneId) : Nat :=
  match s.profile with
  | some p => (p.levels.get l).highWater
  | none => 0

/-- The class of a lane composer at a grant (R156). -/
def composerClass (s : State) (l : LaneId) : Nat :=
  if (s.lane l).exposing ∧ (s.lane l).buffer.length < s.preload l then 1 else 4

/-- The class of a requester at a grant (R156). -/
def requestClass (s : State) : Requester → Nat
  | .composer l => composerClass s l
  | .systemPort => 2
  | .proofComposer => 2
  | .lander => 3
  | .unpacker => 5
  | .profileLoader => 5
  | .reportWriter => 6

/-- The lanes counted upward from the one after the lane last granted (R156). -/
def rotation (last : LaneId) : List LaneId := [last + 1, last + 2, last + 3, last]

/-- The first waiting lane after the lane last granted. -/
def rotate (last : LaneId) (waiting : List LaneId) : Option LaneId :=
  (rotation last).find? fun l => waiting.contains l

/-- The lanes of a class among the waiting requesters. -/
def lanesOfClass (s : State) (c : Nat) (waiting : List Requester) : List LaneId :=
  waiting.filterMap fun r =>
    match r with
    | .composer l => if composerClass s l = c then some l else none
    | _ => none

/-- The grant among the requesters of one class, the waiting list being in arrival order (R156). -/
def grantInClass (s : State) (c : Nat) (waiting : List Requester) : Option Requester :=
  if c = 1 then (rotate s.arbLast1 (lanesOfClass s 1 waiting)).map .composer
  else if c = 4 then (rotate s.arbLast4 (lanesOfClass s 4 waiting)).map .composer
  else waiting.find? fun r => requestClass s r == c

/-- The arbiter's grant when memory becomes free: the waiting request of the highest class (R156). -/
def arbiterGrant (s : State) (waiting : List Requester) : Option Requester :=
  [1, 2, 3, 4, 5, 6].findSome? fun c => grantInClass s c waiting

/-- The lane last granted in a rotating class, after a grant to a lane composer (R156). -/
def noteGrant (l : LaneId) (s : State) : State :=
  if composerClass s l = 1 then { s with arbLast1 := l } else { s with arbLast4 := l }

/-- The Lander's request, if it is outstanding (R34). -/
def landerRequest (s : State) : List Requester :=
  match s.lander with
  | .body b => if b.request.isSome then [.lander] else []
  | .header _ => []
  | .seek _ => []

/-- Every request that waits at the memory port (R156). -/
def State.requests (s : State) : List Requester := landerRequest s ++ s.waiting

/-- Whether the arbiter grants a requester's request, which waits already or arrives now, before every other that waits
(R156). -/
def State.grants (s : State) (r : Requester) : Bool :=
  arbiterGrant s (if s.requests.contains r then s.requests else s.requests ++ [r]) == some r

/-- A requester's request taken from those waiting, once it is granted (R156). -/
def State.served (s : State) (r : Requester) : State := { s with waiting := s.waiting.filter (· != r) }

/-- The lanes whose requests of class 1 wait, in the order of their grants (R156). -/
def lanesFirst (s : State) : List LaneId :=
  (rotation s.arbLast1).filter fun l => (lanesOfClass s 1 s.requests).contains l

/-- The system port takes a host request that asks nothing of memory: it has one at a time (R149), so no request of class
2 waits then (notes/assumptions/13.md). -/
def portTaken (s : State) : State := { s with waiting := s.waiting.filter fun r => requestClass s r != 2 }

end Sys2Proof.Machine
end

