-- ==== Sys2Proof/Machine/Loader.lean ====
section
/-! DEFINITION. The profile loader's reads: the words a load has read and reads on (R162, R164). -/

namespace Sys2Proof.Machine

/-- The number of words of the profile record (R162). -/
def profileWords : Nat := 512

/-- A word of the profile record as the loader reads it: none with an uncorrectable error (R162). -/
def readWord (s : State) (i : Nat) : Option (List Byte) :=
  if s.bad (8 * i) then none else some (memReadBytes s.mem (8 * i) 8)

/-- The load with its first `n` words read, as memory holds those not read before. -/
def Load.readTo (ld : Load) (n : Nat) (s : State) : Load :=
  { ld with got := ld.got ++ ((List.range n).drop ld.got.length).map (readWord s) }

/-- The load with its words read up to the `n`th at most, short of the next word with an uncorrectable error, which
would end it at once (R162). -/
def Load.readOn (ld : Load) (n : Nat) (s : State) : Load :=
  { ld with got := ld.got ++ (((List.range n).drop ld.got.length).map (readWord s)).takeWhile Option.isSome }

/-- Whether a load has more to read before it is judged (R162): not all its words are read, and none of those read had
an uncorrectable error, which ends the judging at once. -/
def Load.unfinished (ld : Load) : Bool := decide (ld.got.length < profileWords) && ld.got.all Option.isSome

/-- How many of its words a load can have read before another request of its class has its turn (R156): all, but while
the Unpacker's request waits only the next, as the loader's request for the word after it then comes behind. -/
def loaderReach (s : State) (ld : Load) : Nat :=
  if s.waiting.contains .unpacker then min profileWords (ld.got.length + 1) else profileWords

/-- The loader's reading since the last tick up to a moment at which a word of the profile record may change, as a host
write to the record reaches memory, or at which a request of a higher class begins to wait. A word is read as
memory holds it at its grant, so each word granted by then keeps what it gave. How many are granted by then is free, but
none while a request that goes before the loader's waits (R156), and none with an uncorrectable error is among them, as
the load would have been judged before (R162, R164, notes/assumptions/11.md). Where a word is read the loader's request
that waited was granted, and waits no more. -/
def loaderReadsOn (s : State) : State :=
  if s.loader.isSome && s.grants .profileLoader then
    let read := s.loader.map fun ld => ld.readOn (min (Config.profileWordsRead s.free) (loaderReach s ld)) s
    { s with
      loader := read
      waiting := if read = s.loader then s.waiting else s.waiting.filter (· != .profileLoader)
      free := s.free + 1 }
  else s

/-- A request of the loader's granted (R156, R162): the next word of a load is read, unless it has an uncorrectable error;
the grant of such a word ends the load, and is PROFILE_LOAD_JUDGED (notes/assumptions/11.md). -/
def loaderGranted (s : State) : State :=
  match s.loader with
  | none => s.served .profileLoader
  | some ld =>
    if ld.unfinished then
      if s.bad (8 * ld.got.length) then s
      else { s.served .profileLoader with loader := some (ld.readTo (ld.got.length + 1) s) }
    else s.served .profileLoader

end Sys2Proof.Machine
end

