-- ==== Sys2Proof/Machine/Operands.lean ====
section
/-! DEFINITION. The operands of host requests and chute streams: enabled bytes, partial and whole writes through the
memory port's ECC (R28, R150, R155), and the record layouts software builds (R157, R158). -/

namespace Sys2Proof.Machine

/-! ## Beats -/

/-- Whether byte `k` of a beat is enabled. -/
def enabled (be : Enables) (k : Nat) : Bool := be.getLsbD k

/-- The enabled bytes of a beat in ascending address order (R28, R152). -/
def enabledBytes (be : Enables) (d : Beat) : List Byte :=
  ((List.range 8).filter (enabled be)).map (beatByte d)

/-- Memory after the enabled bytes of a beat are merged into the word at `a` (R155). -/
def mergeBeat (m : Memory) (a : Nat) (be : Enables) (d : Beat) : Memory :=
  (List.range 8).foldl (fun m k => if enabled be k then memWrite m (a + k) (beatByte d k) else m) m

/-- Whether the memory port performs a write of these bytes of the word at `a`: a whole word always, a part of one
unless the word has an uncorrectable error (R155). -/
def writePerformed (a : Nat) (be : Enables) (s : State) : Bool := be == BitVec.allOnes 8 || !s.bad a

/-- A host write that the memory port performs: a whole word replaces the word and its ECC, a part of one is merged
(R150, R155). -/
def storeBeat (a : Nat) (be : Enables) (d : Beat) (s : State) : State :=
  { s with
    mem := mergeBeat s.mem a be d
    badWords := if be = BitVec.allOnes 8 then s.badWords.filter (fun w => w != wordOf a) else s.badWords }

/-- The beat at an address. -/
def loadBeat (s : State) (a : Nat) : Beat := beatOf (memReadBytes s.mem a 8)

/-! ## The Lander's ring writes -/

/-- The memory port's part in a Lander ring-word request (R34, R155): a whole word is written with fresh ECC; a part
of one is merged, but not into a word with an uncorrectable error, and counts as made all the same. -/
def storeRing (o : Nat) (bs : List Byte) (s : State) : State :=
  if bs.length = 8 then writeWords (ringAddr o) bs s
  else if s.bad (ringAddr o) then s
  else { s with mem := memWriteBytes s.mem (ringAddr o) bs }

/-- `n` bytes of the inflow ring from an offset on, wrapping at its end (R37). -/
def ringBytes (s : State) (o n : Nat) : List Byte :=
  (List.range n).map fun i => memRead s.mem (ringAddr (o + i))

/-- Whether a word of these bytes of the ring has an uncorrectable error (R44). -/
def ringBad (s : State) (o n : Nat) : Bool := (List.range n).any fun i => s.bad (ringAddr (o + i))

/-! ## Record layouts -/

/-- A byte of a record. -/
def byteAt (bs : List Byte) (i : Nat) : Byte := bs.getD i 0

/-- A little-endian field of a record. -/
def fieldAt (bs : List Byte) (i n : Nat) : Nat := leNat ((bs.drop i).take n)

/-- The kept fields of a segment header (R157). -/
def headerOf (bs : List Byte) : SegHeader where
  kind := byteAt bs 2
  key := ⟨byteAt bs 4, byteAt bs 5, byteAt bs 3⟩
  length := fieldAt bs 6 2
  locator := fieldAt bs 8 2
  arg := fieldAt bs 10 2

/-- The header sum: the sum, modulo 65,536, of the header's first twelve bytes (R26). -/
def headerSum (bs : List Byte) : Nat := ((bs.take 12).map BitVec.toNat).sum % 65536

/-- The three tests of a collected header (R30, R157). -/
def headerAccepted (bs : List Byte) : Bool :=
  decide (fieldAt bs 12 2 = headerSum bs) && decide (fieldAt bs 6 2 ≤ 65520) && decide (fieldAt bs 14 2 = 0)

/-- Whether a group begins with the marker D2h, 5Ah (R29). -/
def beginsMarker (bs : List Byte) : Bool := byteAt bs 0 == 0xD2 && byteAt bs 1 == 0x5A

/-- A segment's padding (R24). -/
def paddingOf (length : Nat) : Nat := (4 - length % 4) % 4

/-- A segment's total length (R24). -/
def totalOf (length : Nat) : Nat := 16 + length + 4 + paddingOf length

/-- The total length of a landed entry's segment. -/
def Segment.total (g : Segment) : Nat := totalOf g.header.length

/-- The executor's reading of a 32-byte order record (R158). -/
def orderOf (bs : List Byte) : Order where
  kind := byteAt bs 0
  rush := (byteAt bs 1).getLsbD 0
  release := (byteAt bs 1).getLsbD 1
  tag := BitVec.ofNat 16 (fieldAt bs 2 2)
  key := ⟨byteAt bs 4, byteAt bs 5, byteAt bs 6⟩
  lane := byteAt bs 7
  allowance := byteAt bs 8
  tw := byteAt bs 9
  th := byteAt bs 10
  latestStart := BitVec.ofNat 32 (fieldAt bs 12 4)

/-! ## CRC-32 (R27) -/

/-- One shift of the CRC register. -/
def crcShift (r : BitVec 32) : BitVec 32 :=
  if r.getLsbD 0 then (r >>> 1) ^^^ 0xEDB88320#32 else r >>> 1

/-- One byte taken into the CRC register: exclusive-or into the low 8 bits, then eight shifts. -/
def crcByte (r : BitVec 32) (b : Byte) : BitVec 32 :=
  crcShift (crcShift (crcShift (crcShift (crcShift (crcShift (crcShift (crcShift (r ^^^ b.setWidth 32))))))))

/-- The CRC of a sequence of bytes. -/
def crc32 (bs : List Byte) : BitVec 32 := bs.foldl crcByte 0xFFFFFFFF#32 ^^^ 0xFFFFFFFF#32

end Sys2Proof.Machine
end

