-- ==== Sys2Proof/Machine/Reports.lean ====
section
/-! DEFINITION. Reports: their fields by kind (R159, R175), their submission (R170), the report writer (R171, R173) and
ATTN (R174). -/

namespace Sys2Proof.Machine

/-! ## Codes (R159, R175) -/

/-- The report kind's code in the record (R159). -/
def ReportKind.code : ReportKind → Byte
  | .orderDone => 1
  | .plateOutcome => 2
  | .pageClosed => 3
  | .pageRevised => 4
  | .pagePurged => 5
  | .segmentNotice => 6
  | .laneNotice => 7
  | .late => 8
  | .access => 9
  | .profileLoaded => 10
  | .profileRejected => 11

/-- The outcomes of an order (R154). -/
inductive OrderOutcome
  | accepted
  | done
  | noPage
  | noPlate
  | queueFull
  | duplicateTag
  | duplicatePage
  | noFrame
  | busy
  | tooLate
  | withdrawn
  | badField
  | linkDown
  | unknownOrder
  | rejected
deriving DecidableEq, Repr

/-- An outcome's code (R154). -/
def OrderOutcome.code : OrderOutcome → Byte
  | .accepted => 1
  | .done => 2
  | .noPage => 3
  | .noPlate => 4
  | .queueFull => 5
  | .duplicateTag => 6
  | .duplicatePage => 7
  | .noFrame => 8
  | .busy => 9
  | .tooLate => 10
  | .withdrawn => 11
  | .badField => 12
  | .linkDown => 13
  | .unknownOrder => 14
  | .rejected => 15

/-- The kinds of SEGMENT NOTICE (R175). -/
inductive NoticeKind
  | crc
  | decode
  | outOfPlace
  | duplicatePage
  | unknownKind
  | cut
  | resync
  | photoSpace
  | stall
deriving DecidableEq, Repr

/-- A notice kind's code (R175). -/
def NoticeKind.code : NoticeKind → Byte
  | .crc => 1
  | .decode => 2
  | .outOfPlace => 3
  | .duplicatePage => 4
  | .unknownKind => 5
  | .cut => 6
  | .resync => 7
  | .photoSpace => 8
  | .stall => 9

/-- A stall cause's code (R175). -/
def StallCause.code : StallCause → Nat
  | .frames => 1
  | .patches => 2
  | .deferral => 3

/-- A held reason's code (R175). -/
def HeldReason.code : HeldReason → Nat
  | .pageOpen => 1
  | .revising => 2
  | .deferred => 3
  | .damaged => 4
  | .lockLimit => 5

/-- A lane mode's code (R175). -/
def LaneMode.code : LaneMode → Nat
  | .run => 0
  | .stop => 1
  | .fault => 2

/-- A fault cause's code; 0 for any other cause (R129, R175). -/
def faultCauseCode : FaultCause → Nat
  | .jam => 1
  | .noPlate => 2
  | .punch => 3
  | .optics => 4
  | .other => 0

/-- A spoil cause's code in a PLATE OUTCOME (R175). -/
def SpoilCause.code : SpoilCause → Nat
  | .underrun => 1
  | .media => 2
  | .link => 3
  | .store => 4

/-- A load cause's code (R175). -/
def LoadCause.code : LoadCause → Byte
  | .commit => 1
  | .reload => 2
  | .warmReset => 3

/-- The front plate's state in a STRAY notice (R175). -/
def frontStateCode : Option Plate → Nat
  | none => 0
  | some p =>
    match p.state with
    | .exposing => 1
    | .finishing => 2
    | .cancelling => 3
    | .queued => 0
    | .loading => 0

/-- The key of all zeros: a report without a key, and SET PROOF's unbinding key (R110, R159). -/
def Key.zero : Key := ⟨0, 0, 0⟩

/-- A number as a 32-bit detail value. -/
def det (n : Nat) : Count := BitVec.ofNat 32 n

/-! ## The report writer's memory of drops (R173) -/

/-- A report is dropped (R173): unless the overflow flag was set, it is set, and the report writer asks the memory port
for a write of 1 to the overflow word, which waits for its grant in class 6 (R156, R170). -/
def noteDrop (s : State) : State :=
  if s.overflowFlag then s else { s with overflowFlag := true, overflowOwed := s.overflowOwed + 1 }

/-- A report submitted: stamped with the plant clock and placed at the tail of the pending list, or dropped when the
list holds 64 (R159, R170). -/
def submit (r : Report) (s : State) : State :=
  if s.reports.length < 64 then { s with reports := s.reports ++ [{ r with stamp := s.clock }] } else noteDrop s

/-- A report with every field zero but its kind; submission stamps it. -/
def blankReport (k : ReportKind) : Report := ⟨k, 0, 0, 0, Key.zero, 0, 0, 0, 0, 0⟩

/-! ## Report kinds (R175) -/

/-- Whether an order of a kind code has a key among the fields it reads (R153). -/
def orderHasKey (kind : Byte) : Bool := kind == 1 || kind == 3 || kind == 4 || kind == 5 || kind == 6

/-- Whether an order of a kind code has a lane among the fields it reads (R153). -/
def orderHasLane (kind : Byte) : Bool := kind == 1 || kind == 7 || kind == 8

/-- ORDER DONE for an order: tag, and key and lane where the order has them (R154, R175). -/
def orderDone (o : Order) (oc : OrderOutcome) (detailB detailC : Nat) : Report :=
  { blankReport .orderDone with
    code := oc.code
    tag := o.tag
    key := if orderHasKey o.kind then o.key else Key.zero
    lane := if orderHasLane o.kind then o.lane else 0
    detailA := det o.kind.toNat
    detailB := det detailB
    detailC := det detailC }

/-- ORDER DONE of a waiting WITHDRAW PLATE, which names its plate by the plate's tag (R125, R126). -/
def withdrawDone (tag : Tag) (oc : OrderOutcome) : Report :=
  { blankReport .orderDone with code := oc.code, tag := tag, detailA := 2 }

/-- ORDER DONE of a PURGE PAGE (R19). -/
def purgeDone (tag : Tag) (k : Key) : Report :=
  { blankReport .orderDone with code := OrderOutcome.done.code, tag := tag, key := k, detailA := 3 }

/-- PLATE OUTCOME with its code and cause (R124, R175). -/
def plateOutcome (p : Plate) (code : Byte) (cause : Nat) : Report :=
  { blankReport .plateOutcome with
    code := code
    tag := p.tag
    key := p.key
    lane := BitVec.ofNat 8 p.lane.val
    detailA := det cause
    detailB := det (p.attempt + 256 * p.allowance + 65536 * (if p.version.isSome then 1 else 0))
    detailC := p.version.getD 0
    detailD := p.generation.getD 0 }

/-- The fields common to the three page reports (R175). -/
def pageReport (kind : ReportKind) (code : Byte) (f : Nat) (p : Page) (stampDetail : Tick) : Report :=
  { blankReport kind with
    code := code
    key := p.key
    detailA := det p.damaged
    detailB := stampDetail
    detailC := p.version
    detailD := det f }

/-- PAGE CLOSED: code 0 from PAGE CLOSE and 1 from CLOSE LOCAL PAGE (R175). -/
def pageClosedReport (code : Byte) (f : Nat) (p : Page) : Report := pageReport .pageClosed code f p p.openStamp

/-- PAGE REVISED (R59, R175). -/
def pageRevisedReport (f : Nat) (p : Page) : Report := pageReport .pageRevised 0 f p (p.closeStamp.getD 0)

/-- PAGE PURGED: code 1 when the close stamp is absent (R19, R175). -/
def pagePurgedReport (f : Nat) (p : Page) : Report :=
  pageReport .pagePurged (if p.closeStamp.isSome then 0 else 1) f p (p.closeStamp.getD 0)

/-- SEGMENT NOTICE about a segment header with its arrival stamp and a detail value (R43, R175). -/
def segmentNotice (k : NoticeKind) (h : SegHeader) (stamp : Tick) (detail : Nat) : Report :=
  { blankReport .segmentNotice with
    code := k.code
    key := h.key
    detailA := det h.kind.toNat
    detailB := det (h.locator + 65536 * h.arg)
    detailC := stamp
    detailD := det detail }

/-- A LANE NOTICE with its code and details (R175). -/
def laneNotice (l : LaneId) (code : Byte) (a b c d : Count) : Report :=
  { blankReport .laneNotice with
    code := code, lane := BitVec.ofNat 8 l.val, detailA := a, detailB := b, detailC := c, detailD := d }

/-- LANE NOTICE of kind MODE with cause ORDER (R132, R175). -/
def modeByOrder (l : LaneId) (m : LaneMode) : Report := laneNotice l 1 (det m.code) 1 0 0

/-- LANE NOTICE of kind MODE with cause MEDIA (R132, R141, R175). -/
def modeByMedia (l : LaneId) (m : LaneMode) (c : FaultCause) : Report :=
  laneNotice l 1 (det m.code) 2 (det (faultCauseCode c)) 0

/-- LANE NOTICE of kind LINK LOST (R143, R175). -/
def linkLostNotice (l : LaneId) : Report := laneNotice l 2 (det LaneMode.fault.code) 0 0 0

/-- LANE NOTICE of kind LINK UP (R144, R175). -/
def linkUpNotice (l : LaneId) : Report := laneNotice l 3 (det LaneMode.stop.code) 0 0 0

/-- LANE NOTICE of kind STRAY: the message's code, its tag or n, and the front plate's tag and state (R142, R175). -/
def strayNotice (l : LaneId) (msg : Nat) (value : Nat) (front : Option Plate) : Report :=
  laneNotice l 4 (det msg) (det value)
    (match front with
     | some p => p.tag.setWidth 32
     | none => 0)
    (det (frontStateCode front))

/-- LANE NOTICE of kind HELD (R120, R175). -/
def heldNotice (l : LaneId) (p : Plate) (r : HeldReason) : Report :=
  { laneNotice l 5 (det r.code) 0 0 0 with tag := p.tag, key := p.key }

/-- LATE (R121, R175). -/
def lateReport (p : Plate) : Report :=
  { blankReport .late with
    tag := p.tag, key := p.key, lane := BitVec.ofNat 8 p.lane.val, detailA := p.latestStart, detailB := det p.attempt }

/-- ACCESS: region code, address, byte enables or bytes discarded, frame number (R151, R152, R175). -/
def accessReport (code : Byte) (a : Nat) (c d : Nat) : Report :=
  { blankReport .access with
    code := code, detailA := det a, detailB := det (a / 4294967296), detailC := det c, detailD := det d }

/-- PROFILE LOADED (R175). -/
def profileLoadedReport (c : LoadCause) (generation : Count) : Report :=
  { blankReport .profileLoaded with code := c.code, detailA := generation }

/-- PROFILE REJECTED: reason code and byte offset (R175). -/
def profileRejectedReport (c : LoadCause) (reason offset : Nat) : Report :=
  { blankReport .profileRejected with code := c.code, detailA := det reason, detailB := det offset }

/-! ## Writing reports -/

/-- A report as its 32-byte record (R159). -/
def recordBytes (r : Report) : List Byte :=
  [r.kind.code, r.code] ++ leBytes 2 r.tag.toNat ++ leBytes 4 r.stamp.toNat
    ++ [r.key.edition, r.key.page, r.key.separation, r.lane]
    ++ leBytes 4 r.detailA.toNat ++ leBytes 4 r.detailB.toNat ++ leBytes 4 r.detailC.toNat
    ++ leBytes 4 r.detailD.toNat ++ leBytes 4 0

/-- The number of written records not consumed (R171). -/
def State.unconsumed (s : State) : Count := s.writeCount - s.consumed

/-- ATTN judged again: asserted while unconsumed records wait (R174). -/
def judgeAttn (s : State) : State := { s with attn := s.unconsumed != 0 }

/-- The address of the ring entry a count names (R171). -/
def entryAddr (n : Count) : Nat := reportRingBase + 32 * (n.toNat % 256)

/-- A record written at the next entry, then the write count raised and written, then ATTN judged (R171). -/
def writeRecord (r : Report) (s : State) : State :=
  let s1 := writeWords (entryAddr s.writeCount) (recordBytes r) s
  let s2 := { s1 with writeCount := s1.writeCount + 1 }
  judgeAttn (writeCountWord writeCountAddr s2.writeCount s2)

/-- The report writer handles the head of the pending list (R171): written with fewer than 256 unconsumed, once the
memory port grants its request (R156), and dropped with 256; it is judged when its request is granted, and a request that
waits for a report so dropped keeps its place (notes/assumptions/43.md). With an empty list nothing happens
(notes/assumptions/2.md). -/
def handleHead (s : State) : State :=
  match s.reports with
  | [] => s
  | r :: rs =>
    let s0 := { s with reports := rs }
    if s.unconsumed.toNat < 256 then
      if s.grants .reportWriter then writeRecord r (s0.served .reportWriter) else s
    else noteDrop s0

/-- The first of the report writer's waiting writes of the overflow word, if one waits (R173), once the memory port
grants it (R156). -/
def writeOwed (s : State) : State :=
  if 0 < s.overflowOwed ∧ s.grants .reportWriter = true then
    { writeCountWord overflowAddr 1 (s.served .reportWriter) with overflowOwed := s.overflowOwed - 1 }
  else s

/-- The report writer's turn, which stands for the grant of its request (R156): a write of the overflow word that waits
goes before the head of the pending list, as it takes its work one at a time (R170, R171, notes/assumptions/13.md);
a drop of the head makes its own. -/
def reportWrite (s : State) : State := writeOwed (if s.overflowOwed = 0 then handleHead s else s)

/-- REPORT_WRITE (R171). -/
def execReportWrite (s : State) : Host.Outcome State Fault Refusal := .next (reportWrite s)

/-- The value of the consumed count word's low 4 bytes in a beat (R170). -/
def consumedValue (d : Beat) : Count := d.extractLsb' 0 32

/-- The report writer watches a write of the consumed count word (R172): with bytes 0 to 3 all enabled, a value at
most 256 behind the write count is accepted. -/
def watchConsumed (be : Enables) (d : Beat) (s : State) : State :=
  if be &&& 0x0F = 0x0F ∧ (s.writeCount - consumedValue d).toNat ≤ 256 then
    judgeAttn { s with consumed := consumedValue d }
  else s

end Sys2Proof.Machine
end

