-- ==== Sys2Proof/Machine/Flags.lean ====
section
/-! DEFINITION. Strip states, tile flags, patch lookups, the damage definition and the damaged-tile count
(R66, R70 to R77). -/

namespace Sys2Proof.Machine

/-! ## The damage definition -/

/-- The patch entry of a tile, looked up by (frame, tile column, tile row) (R66). -/
def findPatch (patches : List PatchEntry) (f tx ty : Nat) : Option PatchEntry :=
  patches.find? fun e => e.frame == f && e.tx == tx && e.ty == ty

/-- Whether a tile lies within a page. -/
def Page.holds (p : Page) (tx ty : Nat) : Bool := decide (tx < p.tw ∧ ty < p.th)

/-- The flags of a tile; a tile the record does not hold has none. -/
def Page.flags (p : Page) (tx ty : Nat) : TileFlags := p.tiles.getD (ty * p.tw + tx) ⟨false, false⟩

/-- The strip condition of tile row `ty`: at least one of its 16 strips is BAD (R70). -/
def Page.stripCondition (p : Page) (ty : Nat) : Bool :=
  (List.range 16).any fun i => p.strips.getD (16 * ty + i) .absent == .bad

/-- Whether a tile of a page is damaged (R76). -/
def tileDamaged (patches : List PatchEntry) (f : Nat) (p : Page) (tx ty : Nat) : Bool :=
  p.holds tx ty &&
    match findPatch patches f tx ty with
    | some e => e.spoilt
    | none => p.stripCondition ty || (p.flags tx ty).photo || (p.flags tx ty).store

/-! ## The count -/

/-- How many of the given tiles of the page in a frame are damaged. -/
def damagedAmong (s : State) (f : Nat) (tiles : List (Nat × Nat)) : Nat :=
  match s.page f with
  | some p => tiles.countP fun t => tileDamaged s.patches f p t.1 t.2
  | none => 0

/-- The damaged-tile count of a page moved, for the tiles concerned, by what they are after a change less what they
were before it (R77). -/
def recount (f : Nat) (tiles : List (Nat × Nat)) (before after : State) : State :=
  modPage f (fun p => { p with damaged := p.damaged + damagedAmong after f tiles - damagedAmong before f tiles }) after

/-- Whether a recount of the tiles concerned lowers the count (R77, R17). -/
def countFell (f : Nat) (tiles : List (Nat × Nat)) (before after : State) : Bool :=
  decide (damagedAmong after f tiles < damagedAmong before f tiles)

/-! ## Changing flags and strip states -/

/-- A tile's flags changed; a tile the record does not hold has none to change. -/
def Page.modFlags (p : Page) (g : TileFlags → TileFlags) (t : Nat × Nat) : Page :=
  { p with tiles := if p.holds t.1 t.2 then p.tiles.modify (t.2 * p.tw + t.1) g else p.tiles }

/-- The flags of several tiles changed. -/
def Page.modFlagsOf (p : Page) (g : TileFlags → TileFlags) (tiles : List (Nat × Nat)) : Page :=
  tiles.foldl (fun q t => q.modFlags g t) p

/-- The PHOTO flags of tiles set or cleared (R71). -/
def setPhotoFlags (f : Nat) (v : Bool) (tiles : List (Nat × Nat)) (s : State) : State :=
  modPage f (fun p => p.modFlagsOf (fun x => { x with photo := v }) tiles) s

/-- A strip's state set (R7). -/
def setStrip (f k : Nat) (v : StripState) (s : State) : State :=
  modPage f (fun p => { p with strips := p.strips.set k v }) s

/-! ## Flag requests of composers -/

/-- What a composer was reading when it met an uncorrectable error (R74). -/
inductive ReadSource
  | lineArt
  | tone
  | patchSlot (slot : Nat)
deriving DecidableEq, Repr

/-- A composer's flag request (R74). -/
structure FlagRequest where
  key : Key
  frame : Nat
  tx : Nat
  ty : Nat
  source : ReadSource
deriving DecidableEq, Repr

/-- The STORE flag of a tile set, and the tile recounted (R72). -/
def raiseStore (f tx ty : Nat) (s : State) : State :=
  recount f [(tx, ty)] s (modPage f (fun p => p.modFlags (fun x => { x with store := true }) (tx, ty)) s)

/-- SPOILT of a tile's entry set if the entry still names the slot read, and the tile recounted (R73). -/
def raiseSpoilt (f tx ty slot : Nat) (s : State) : State :=
  recount f [(tx, ty)] s
    { s with patches := s.patches.map fun e =>
        if e.frame = f ∧ e.tx = tx ∧ e.ty = ty ∧ e.slot = slot then { e with spoilt := true } else e }

/-- The page table decides a flag request (R74): discarded when the frame no longer holds the page named. -/
def raiseFlag (r : FlagRequest) (s : State) : State :=
  match s.page r.frame with
  | some p =>
    if p.key = r.key then
      match r.source with
      | .lineArt => raiseStore r.frame r.tx r.ty s
      | .tone => raiseStore r.frame r.tx r.ty s
      | .patchSlot n => raiseSpoilt r.frame r.tx r.ty n s
    else s
  | none => s

/-- A flag request, if there is one. -/
def raiseFlag? (r : Option FlagRequest) (s : State) : State :=
  match r with
  | some q => raiseFlag q s
  | none => s

end Sys2Proof.Machine
end

