-- ==== Sys2Proof/Machine/Queues.lean ====
section
/-! DEFINITION. Plates: the lock claim (R12, R13, R79), the choice of plate (R119, R120), START (R134), lateness (R121),
returns and outcomes (R122, R123, R124), and the announcements of the page table to the lanes (R17). -/

namespace Sys2Proof.Machine

/-! ## Locks -/

/-- The page table's answer to a load request (R79): granted for a frame, or refused, with a held reason unless the
key is not present. -/
inductive LoadAnswer
  | granted (f : Nat)
  | refused (r : Option HeldReason)
deriving DecidableEq, Repr

/-- The first of R13's conditions that a page fails, as the held reason R13 gives. -/
def ineligible (s : State) (f : Nat) (p : Page) : Option HeldReason :=
  if p.state ≠ .closed then some .pageOpen
  else if p.photos.any (fun r => r.state == .receiving) ∨ s.unpackerPage = some f ∨ p.purgePending.isSome then
    some .revising
  else if p.deferred ≠ [] then some .deferred
  else none

/-- The page table decides a load request (R79): eligibility, then damage, then the lock limit. -/
def loadRequest (s : State) (k : Key) (release : Bool) : LoadAnswer :=
  match s.present k with
  | none => .refused none
  | some (f, p) =>
    match ineligible s f p with
    | some r => .refused (some r)
    | none =>
      if p.damaged ≠ 0 ∧ release = false then .refused (some .damaged)
      else if 4 ≤ p.lockCount then .refused (some .lockLimit)
      else .granted f

/-- One lock taken on a page (R12). -/
def takeLock (f : Nat) (s : State) : State := modPage f (fun p => { p with lockCount := p.lockCount + 1 }) s

/-- One lock of a page released (R12). -/
def releaseLock (k : Key) (s : State) : State :=
  match s.findPage k with
  | some f => modPage f (fun p => { p with lockCount := p.lockCount - 1 }) s
  | none => s

/-- The lock count of a record; 0 for a FREE one. -/
def lockOf (r : Option Page) : Nat :=
  match r with
  | some p => p.lockCount
  | none => 0

/-- Whether some page's lock count has fallen below 4 between two states (R17). -/
def lockFell (before after : State) : Bool :=
  (List.zip before.pages after.pages).any fun r => decide (4 ≤ lockOf r.1 ∧ lockOf r.2 < 4)

/-- Whether some page's lock count has fallen to 0 between two states (R12). -/
def lockGone (before after : State) : Bool :=
  (List.zip before.pages after.pages).any fun r => decide (0 < lockOf r.1 ∧ lockOf r.2 = 0)

/-! ## Plates of a queue -/

/-- The live plate of a lane with a tag. -/
def Lane.plate (L : Lane) (tag : Tag) : Option Plate := L.queue.find? fun p => p.tag == tag

/-- The lane and record of the live plate with a tag, in any of the four queues (R117, R125). -/
def State.findPlate (s : State) (tag : Tag) : Option (LaneId × Plate) :=
  allLanes.findSome? fun l => ((s.lane l).plate tag).map fun p => (l, p)

/-- The record of a plate changed. -/
def modPlate (l : LaneId) (tag : Tag) (g : Plate → Plate) (s : State) : State :=
  modLane l (fun L => { L with queue := L.queue.map fun p => if p.tag = tag then g p else p }) s

/-- A plate's record removed from its queue (R124). -/
def removePlate (l : LaneId) (tag : Tag) (s : State) : State :=
  modLane l (fun L => { L with queue := L.queue.filter fun p => p.tag != tag }) s

/-- How many plates stand before the place of a newly accepted rush plate (R118): all up to the last rush plate, and
all up to the last returned plate, which keeps its place until a START (notes/assumptions/23.md). -/
def rushPlace (q : List Plate) : Nat :=
  q.length - (q.reverse.takeWhile fun x => !x.rush && !x.returned).length

/-- The place of a newly accepted plate (R118): a rush plate after the last rush plate, or at the front if there is
none; any other at the back. -/
def placePlate (p : Plate) (q : List Plate) : List Plate :=
  if p.rush then q.take (rushPlace q) ++ p :: q.drop (rushPlace q) else q ++ [p]

/-! ## Lateness -/

/-- Whether the clock has passed a latest start (R121). -/
def isLate (clock latestStart : Tick) : Bool := decide ((clock - latestStart).toNat < 2147483648)

/-- The lateness test of one plate (R121): a QUEUED plate, found late for the first time, gives its LATE report. -/
def lateTest (l : LaneId) (tag : Tag) (s : State) : State :=
  match (s.lane l).plate tag with
  | some p =>
    if p.state = .queued ∧ p.lateReported = false ∧ isLate s.clock p.latestStart then
      modPlate l tag (fun p => { p with lateReported := true }) (submit (lateReport p) s)
    else s
  | none => s

/-! ## Beginning LOADING -/

/-- The composition context a lane latches at a lock grant (R106). -/
def contextFor (l : LaneId) (pl : Plate) (f : Nat) (p : Page) (pr : Profile) : Context where
  key := p.key
  frame := f
  tw := p.tw
  th := p.th
  version := p.version
  generation := pr.generation
  slot := pr.slots.get (Fin.ofNat 4 p.screenSlot)
  marks := pr.marks
  polarity := (pr.levels.get l).polarity
  attempt := pl.attempt

/-- A plate begins LOADING on a grant (R119, R106): the lock is taken, the record takes version and generation, the
context is latched, and the last held notice becomes absent (R120). -/
def beginLoading (l : LaneId) (pl : Plate) (f : Nat) (s : State) : State :=
  match s.page f, s.profile with
  | some p, some pr =>
    modLane l (fun L => { L with backCtx := some ⟨contextFor l pl f p pr, 0, []⟩, lastHeld := none })
      (modPlate l pl.tag
        (fun x => { x with
          state := .loading, held := none, version := some p.version, generation := some pr.generation })
        (takeLock f s))
  | _, _ => s

/-! ## The choice of plate -/

/-- The QUEUED plates of a lane in queue order (R118). -/
def Lane.queued (L : Lane) : List Plate := L.queue.filter fun p => p.state == .queued

/-- The end of a choice with no plate loaded (R120): HELD for the first QUEUED plate if its tag and reason are not
those of the last held notice. -/
def choiceEmpty (l : LaneId) (s : State) : State :=
  match (s.lane l).queued with
  | [] => modLane l (fun L => { L with lastHeld := none }) s
  | p :: _ =>
    match p.held with
    | none => s
    | some r =>
      if (s.lane l).lastHeld = some (p.tag, r) then s
      else modLane l (fun L => { L with lastHeld := some (p.tag, r) }) (submit (heldNotice l p r) s)

/-- A plate's held reason after a refusal; a refusal with no reason leaves it (R119, R79). -/
def setHeld (l : LaneId) (tag : Tag) (r : Option HeldReason) (s : State) : State :=
  match r with
  | some h => modPlate l tag (fun x => { x with held := some h }) s
  | none => s

/-- The load requests of a choice, for the QUEUED plates in order, up to the first grant (R119). -/
def chooseFrom (l : LaneId) : List Plate → State → State
  | [], s => choiceEmpty l s
  | p :: ps, s =>
    match loadRequest s p.key p.release with
    | .granted f => beginLoading l p f s
    | .refused r => chooseFrom l ps (setHeld l p.tag r s)

/-- A lane's choice of its next plate, made in RUN with no back plate (R119). -/
def choose (l : LaneId) (s : State) : State :=
  if (s.lane l).mode = .run ∧ (s.lane l).back = none then chooseFrom l (s.lane l).queued s else s

/-- An announcement of the page table: every lane chooses afresh (R17, R119), lanes 0 to 3 in turn
(notes/assumptions/12.md). -/
def announce (s : State) : State := choose 3 (choose 2 (choose 1 (choose 0 s)))

/-- An announcement made if a change calls for it. -/
def announceIf (b : Bool) (s : State) : State := if b then announce s else s

/-! ## START -/

/-- The rows of a mark in a buffer. -/
def rowsOf (m : RowMark) (b : List BufferedRow) : List BufferedRow := b.filter fun r => r.mark == m

/-- The START condition (R134), with the back plate and its context. -/
def startReady (s : State) (l : LaneId) : Option (Plate × Latched) :=
  match (s.lane l).back, (s.lane l).backCtx with
  | some p, some c =>
    if (s.lane l).mode = .run ∧ (s.lane l).front = none ∧ (s.lane l).drumReady = true
        ∧ min (s.preload l) (c.ctx.th * 256) ≤ (rowsOf .back (s.lane l).buffer).length then some (p, c)
    else none
  | _, _ => none

/-- START (R134): the message, and the back plate becomes the EXPOSING front plate. -/
def sendStart (l : LaneId) (p : Plate) (c : Latched) (s : State) : State :=
  modLane l (fun L => { L with
      drumReady := false
      owed := 0
      frontCtx := some c
      backCtx := none
      buffer := L.buffer.map fun r => { r with mark := .front } })
    (modPlate l p.tag (fun x => { x with state := .exposing, returned := false })
      (sendMsg l (.start p.tag (c.ctx.th * 256) (c.ctx.tw * 32)) s))

/-- The START test (R134); after a START the lane chooses for its free back place (R119). -/
def tryStart (l : LaneId) (s : State) : State :=
  match startReady s l with
  | some (p, c) => choose l (sendStart l p c s)
  | none => s

/-- The START test, and then the lane's choice of its next plate, whether it started one or not (R119, R134). -/
def startThenChoose (l : LaneId) (s : State) : State :=
  match startReady s l with
  | some (p, c) => choose l (sendStart l p c s)
  | none => choose l s

/-! ## Leaving the lane

A request of the lane composer's that waits for a row so dropped keeps its place at the memory port, to be granted like
any other: the model's choice, as no rule says whether it is withdrawn (R108, R156), notes/assumptions/43.md. -/

/-- The front plate's rows and context dropped (R108, R133, R138). -/
def dropFront (l : LaneId) (s : State) : State :=
  modLane l (fun L => { L with
    owed := 0, frontCtx := none, buffer := L.buffer.filter fun r => r.mark != .front }) s

/-- The back plate's rows and context dropped (R108, R133). -/
def dropBack (l : LaneId) (s : State) : State :=
  modLane l (fun L => { L with backCtx := none, buffer := L.buffer.filter fun r => r.mark != .back }) s

/-- The terminal outcomes of a plate (R115). -/
inductive PlateEnd
  | exposed
  | failed (cause : Option SpoilCause)
  | withdrawnByOrder
  | withdrawnByPurge
deriving DecidableEq, Repr

/-- The PLATE OUTCOME code of a terminal outcome (R175). -/
def PlateEnd.code : PlateEnd → Byte
  | .exposed => 1
  | .failed _ => 3
  | .withdrawnByOrder => 4
  | .withdrawnByPurge => 4

/-- The cause of a terminal outcome (R124, R175). -/
def PlateEnd.cause : PlateEnd → Nat
  | .exposed => 0
  | .failed (some c) => c.code
  | .failed none => 0
  | .withdrawnByOrder => 5
  | .withdrawnByPurge => 6

/-- A plate's terminal outcome (R124): the report, the lock released, the record removed. -/
def endPlate (p : Plate) (e : PlateEnd) (s : State) : State :=
  let s1 := submit (plateOutcome p e.code e.cause) s
  removePlate p.lane p.tag (if p.state.inFlight then releaseLock p.key s1 else s1)

/-- A plate's return to QUEUED at the front of the queue, with its next attempt, its lock released, and its lateness
tested (R118, R122, R123, R121). -/
def returnPlate (p : Plate) (attempt : Nat) (s : State) : State :=
  lateTest p.lane p.tag
    (modLane p.lane (fun L => { L with
        queue := { p with state := .queued, attempt := attempt, spoil := none, returned := true }
          :: L.queue.filter fun x => x.tag != p.tag })
      (if p.state.inFlight then releaseLock p.key s else s))

/-- The back plate given back without spoiling it (R123). -/
def giveBack (l : LaneId) (s : State) : State :=
  match (s.lane l).back with
  | some p => returnPlate p p.attempt (dropBack l s)
  | none => s

/-- A front plate spoiled (R122): SPOILED with its cause and attempt, the cause pending, its context discarded
(R108). -/
def spoil (p : Plate) (c : SpoilCause) (s : State) : State :=
  modLane p.lane (fun L => { L with frontCtx := none })
    (modPlate p.lane p.tag (fun x => { x with spoil := some c }) (submit (plateOutcome p 2 c.code) s))

/-- CANCEL sent for a front plate, which enters CANCELLING (R138). -/
def cancelFront (p : Plate) (s : State) : State :=
  dropFront p.lane (modPlate p.lane p.tag (fun x => { x with state := .cancelling }) (sendMsg p.lane (.cancel p.tag) s))

/-- The resolution of a front plate (R122, R126): a pending withdraw makes it WITHDRAWN and is answered WITHDRAWN;
otherwise it returns to QUEUED at the next attempt, or is FAILED at its last. -/
def resolveFront (l : LaneId) (s : State) : State :=
  match (s.lane l).front with
  | none => s
  | some p =>
    let s0 := dropFront l s
    if p.withdrawPending then
      submit (withdrawDone p.tag .withdrawn) (endPlate p .withdrawnByOrder s0)
    else if p.attempt < p.allowance then returnPlate p (p.attempt + 1) s0
    else endPlate p (.failed p.spoil) s0

end Sys2Proof.Machine
end

