-- ==== Sys2Proof/Machine/Work.lean ====
section
/-! DEFINITION. The landed list's reclaim (R39), the header test and the Unpacker's claim (R14, R46), and the Unpacker's
choice of work with the announcements around it (R16, R17, R42). -/

namespace Sys2Proof.Machine

/-! ## The landed list -/

/-- The entry at a ring offset put into a state (R38). -/
def setEntry (o : Nat) (st : EntryState) (s : State) : State :=
  { s with landed := s.landed.map fun e => if e.seg.offset = o then { e with state := st } else e }

/-- Whether an entry is DONE. -/
def LandedEntry.isDone (e : LandedEntry) : Bool := e.state == .done

/-- The bytes of ring that entries hold (R32). -/
def totalBytes (es : List LandedEntry) : Nat := (es.map fun e => e.seg.total).sum

/-- The start offset of the reservation, which the landed list counts while an admitted segment lands (R33, R40). -/
def State.reserved (s : State) : Option Nat :=
  match s.lander with
  | .body b => b.start
  | .header _ => none
  | .seek _ => none

/-- The head of the ring for a list of entries: the offset of the oldest on the landed list, the reservation at its
tail among them, or the ring's tail when the list is empty (R32, R39, R40). -/
def headOf (es : List LandedEntry) (s : State) : Nat :=
  match es with
  | e :: _ => e.seg.offset
  | [] => s.reserved.getD s.ringTail

/-- Reclaim (R39): DONE entries at the front are removed and their ring space is freed. -/
def reclaim (s : State) : State :=
  if (s.landed.takeWhile LandedEntry.isDone) = [] then s
  else
    { s with
      landed := s.landed.dropWhile LandedEntry.isDone
      ringUsed := s.ringUsed - totalBytes (s.landed.takeWhile LandedEntry.isDone)
      ringHead := headOf (s.landed.dropWhile LandedEntry.isDone) s }

/-- An entry marked DONE, with the reclaim that follows at once (R38, R39). -/
def markDone (o : Nat) (s : State) : State := reclaim (setEntry o .done s)

/-! ## The header test and the claim -/

/-- The segment kinds (R25). -/
def kindPageOpen : Byte := 1
/-- STRIP. -/
def kindStrip : Byte := 2
/-- PHOTO HEAD. -/
def kindPhotoHead : Byte := 3
/-- PHOTO PART. -/
def kindPhotoPart : Byte := 4
/-- PAGE CLOSE. -/
def kindPageClose : Byte := 5
/-- REMAKE TILE. -/
def kindRemake : Byte := 6
/-- FILLER. -/
def kindFiller : Byte := 7

/-- The header test of R46 on a present page. -/
def headerTest (p : Page) (h : SegHeader) : Bool :=
  !p.localFlag &&
    if h.kind = kindStrip then p.state == .opened && decide (h.locator < p.th * 16)
    else if h.kind = kindPhotoHead ∨ h.kind = kindPhotoPart then p.state != .localPage && decide (h.locator ≤ 15)
    else if h.kind = kindPageClose then p.state != .localPage && decide (h.length = 0)
    else if h.kind = kindRemake then p.state == .closed && decide (h.locator < p.tw) && decide (h.arg < p.th)
    else false

/-- The page table's answer to a segment's header test and claim (R14, R46). -/
inductive ClaimAnswer
  | outOfPlace
  | refused (f : Nat)
  | granted (f : Nat)
deriving DecidableEq, Repr

/-- The page table tests a segment's header and decides the claim on the same arrival (R14, R46). -/
def headerClaim (s : State) (h : SegHeader) : ClaimAnswer :=
  match s.present h.key with
  | none => .outOfPlace
  | some (f, p) =>
    if headerTest p h then (if p.lockCount = 0 then .granted f else .refused f) else .outOfPlace

/-- A granted claim: the Unpacker's page becomes this page (R14). -/
def grantClaim (g : Segment) (f : Nat) (s : State) : State :=
  { s with unpackerPage := some f, unpacker := .working g .claimed }

/-! ## The Unpacker's choice -/

/-- Whether the page of a key has a lock count of 0. -/
def unlocked (s : State) (k : Key) : Bool :=
  match s.present k with
  | some (_, p) => p.lockCount == 0
  | none => false

/-- A candidate for the Unpacker (R42): a LANDED entry, or a DEFERRED one whose page has a lock count of 0. -/
def candidate (s : State) (e : LandedEntry) : Bool :=
  match e.state with
  | .landed => true
  | .deferred => unlocked s e.seg.header.key
  | .done => false

/-- The entry the idle Unpacker takes: the oldest candidate (R42). -/
def chosen (s : State) : Option LandedEntry :=
  match s.unpacker with
  | .idle => s.landed.find? (candidate s)
  | .working _ _ => none
  | .stalled _ _ _ _ => none

/-- An entry off the deferred list of its page (R16). -/
def undefer (k : Key) (o : Nat) (s : State) : State :=
  match s.findPage k with
  | some f => modPage f (fun p => { p with deferred := p.deferred.filter fun x => x != o }) s
  | none => s

/-- The Unpacker takes an entry up: it is in hand, nothing of its payload being read, and a DEFERRED one leaves its
page's list (R42, R16). -/
def takeUp (e : LandedEntry) (s : State) : State :=
  undefer e.seg.header.key e.seg.offset { s with unpacker := .working e.seg .taken, payloadRead := Reading.start }

/-- Whether taking an entry up empties a deferred list (R16). -/
def empties (e : LandedEntry) (s : State) : Bool :=
  match s.present e.seg.header.key with
  | some (_, p) => p.deferred == [e.seg.offset]
  | none => false

/-- Whether some lane that may choose has a QUEUED plate of the page of a key. -/
def contended (s : State) (k : Key) : Bool :=
  allLanes.any fun l =>
    (s.lane l).mode == .run && (s.lane l).back.isNone && (s.lane l).queued.any fun p => p.key == k

/-- The claim of the entry in hand, made at once where it would be granted (R14). -/
def claimNow (s : State) : State :=
  match s.unpacker with
  | .working g .taken =>
    match headerClaim s g.header with
    | .granted f => grantClaim g f s
    | .refused _ => s
    | .outOfPlace => s
  | _ => s

/-- Whether, with an entry just taken up, both its claim and a lane's load request for the same page could be granted
(R15), so that their order matters. -/
def racing (s : State) (e : LandedEntry) : Bool :=
  contended s e.seg.header.key &&
    match headerClaim s e.seg.header with
    | .granted _ => true
    | .refused _ => false
    | .outOfPlace => false

/-- The lanes are told of a change if there was one, and then the idle Unpacker chooses, and the lanes are told if that
emptied a deferred list (R16, R17, R42). The Unpacker's claim is a later arrival. That the lanes' choices come before
the Unpacker takes up its next entry is the model's choice, as no rule orders them, notes/assumptions/37.md. -/
def lanesThenWork (tell : Bool) (s : State) : State :=
  let t := announceIf tell s
  match chosen t with
  | none => t
  | some e => announceIf (empties e t) (takeUp e t)

/-- The idle Unpacker chooses its work (R42), beside an announcement to the lanes if `tell`. Where the chosen segment's
claim and a lane's request for the same page are both about to arrive, which comes first is free (R15,
notes/assumptions/9.md). -/
def takeWork (tell : Bool) (s : State) : State :=
  match chosen s with
  | none => announceIf tell s
  | some e =>
    if (tell || empties e s) && racing (takeUp e s) e then
      if Config.unpackerFirst s.free then announce (claimNow (takeUp e (useFree s)))
      else lanesThenWork tell (useFree s)
    else lanesThenWork tell s

/-- What falling lock counts set off (R12, R17): the lanes are told of a count that fell below 4, and the Unpacker of
one that fell to 0. The falls are those between `before` and `released`. The lanes' choices come before the Unpacker's
choice of its next entry: the model's choice, notes/assumptions/37.md. -/
def settleLocks (before released final : State) : State :=
  let t := announceIf (lockFell before released) final
  if lockGone before released then takeWork false t else t

end Sys2Proof.Machine
end

