-- ==== Sys2Proof/Machine/Lander.lean ====
section
/-! DEFINITION. The Lander: the inflow stream, header search and test, admission, landing, holds and the cut
(chapter 2, R28 to R41). -/

namespace Sys2Proof.Machine

/-! ## SEEK and HEADER -/

/-- Bytes discarded in SEEK or HEADER: the discard count rises and stays at its top value (R31). -/
def discard (n : Nat) (s : State) : State := { s with discarded := min (s.discarded + n) 4294967295 }

/-- A list of bytes cut into groups of 4, up to a number of groups. -/
def groupsOf : Nat → List Byte → List (List Byte)
  | 0, _ => []
  | n + 1, bs => bs.take 4 :: groupsOf n (bs.drop 4)

/-- Whole groups examined in order (R29, R30): a group without the marker is discarded; the first with it begins a
header, together with the groups after it. -/
def examineGroups : List (List Byte) → State → State
  | [], s => { s with lander := .seek [] }
  | g :: gs, s =>
    if beginsMarker g then { s with lander := .header (g ++ gs.flatten) } else examineGroups gs (discard 4 s)

/-- A header accepted (R30, R31): RESYNC if bytes were discarded, and BODY with the arrival stamp. -/
def acceptHeader (bs : List Byte) (s : State) : State :=
  let s1 := if 0 < s.discarded then submit (segmentNotice .resync (headerOf bs) s.clock s.discarded) s else s
  { s1 with discarded := 0, lander := .body ⟨bs, headerOf bs, s.clock, none, 0, none⟩ }

/-- The number of landed-list places taken, counting the reservation (R33, R40). -/
def placesTaken (s : State) : Nat :=
  s.landed.length +
    match s.lander with
    | .body b => if b.start.isSome then 1 else 0
    | .header _ => 0
    | .seek _ => 0

/-- Whether a segment of a total length can be admitted: a place and room (R33). -/
def canAdmit (s : State) (total : Nat) : Bool :=
  decide (placesTaken s < 1024) && decide (total ≤ ringSize - s.ringUsed)

/-- Admission (R33): the reservation, the occupancy, the start offset and the tail. -/
def makeAdmission (b : Body) (s : State) : State :=
  { s with
    lander := .body { b with start := some s.ringTail }
    ringUsed := s.ringUsed + totalOf b.header.length
    ringTail := (s.ringTail + totalOf b.header.length) % ringSize }

/-- The Lander seeks admission for the segment in BODY (R33). -/
def seekAdmission (s : State) : State :=
  match s.lander with
  | .body b =>
    match b.start with
    | none => if canAdmit s (totalOf b.header.length) then makeAdmission b s else s
    | some _ => s
  | .header _ => s
  | .seek _ => s

/-- The header test on 16 bytes (R30): accepted, with admission sought at once, or refused with its first 4 bytes
discarded and the other 12 examined again. -/
def testHeader (bs : List Byte) (s : State) : State :=
  if headerAccepted bs then seekAdmission (acceptHeader bs s)
  else examineGroups (groupsOf 3 (bs.drop 4)) (discard 4 s)

/-- One byte taken on its arrival in SEEK or HEADER (R28, R29, R30). -/
def takeByte (b : Byte) (s : State) : State :=
  match s.lander with
  | .seek g =>
    if g.length + 1 < 4 then { s with lander := .seek (g ++ [b]) }
    else examineGroups [g ++ [b]] s
  | .header g =>
    if g.length + 1 < 16 then { s with lander := .header (g ++ [b]) }
    else testHeader (g ++ [b]) s
  | .body _ => s

/-- The bytes of a write taken in SEEK and HEADER, up to the first that must wait in BODY (R28, R35): the bytes not
taken, and the state. -/
def takeBytes : List Byte → State → List Byte × State
  | [], s => ([], s)
  | b :: bs, s =>
    match s.lander with
    | .body _ => (b :: bs, s)
    | .header _ => takeBytes bs (takeByte b s)
    | .seek _ => takeBytes bs (takeByte b s)

/-! ## BODY -/

/-- The bytes from a count of landed bytes to the end of the ring word (R34). -/
def wordRoom (start landed : Nat) : Nat := 8 - (start + landed) % 8

/-- The next ring-word request of an admitted segment (R34), given the bytes of the write being taken: a word of the
header alone; a word the header shares with the bytes after it, together with those bytes; or the bytes of the write
that fall in one ring word. -/
def nextRequest (b : Body) (start : Nat) (rest : List Byte) : Option RingRequest :=
  let o := (start + b.landed) % ringSize
  let room := wordRoom start b.landed
  if b.landed < 16 then
    if b.landed + room ≤ 16 then some ⟨o, (b.raw.drop b.landed).take room, 0⟩
    else if rest = [] then none
    else
      let part := rest.take (room - (16 - b.landed))
      some ⟨o, b.raw.drop b.landed ++ part, part.length⟩
  else if rest = [] then none
  else
    let part := rest.take (min room (totalOf b.header.length - b.landed))
    some ⟨o, part, part.length⟩

/-- The bytes of the inflow write that the port holds. -/
def heldInflow (s : State) : List Byte :=
  match s.held with
  | some h => if h.chute = .inflow then h.rest else []
  | none => []

/-- The Lander makes its next ring-word request, if it has one to make and none is outstanding (R34). A profile load has
read on until then, as its reads wait behind the request (R156, R162). -/
def issueRequest (s : State) : State :=
  match s.lander with
  | .body b =>
    match b.start, b.request with
    | some start, none =>
      match nextRequest b start (heldInflow s) with
      | some q => { loaderReadsOn s with lander := .body { b with request := some q } }
      | none => s
    | _, _ => s
  | .header _ => s
  | .seek _ => s

/-- The end of a write's turn (R28, R35): with every byte taken it completes with OK; otherwise it is held, its timer
starting now, and its bytes may make the next ring request. -/
def settleInflow (a : Addr) (rest : List Byte) (s : State) : State :=
  if rest = [] then issueRequest (respond .ok { s with held := none })
  else issueRequest { s with held := some ⟨.inflow, a, rest, s.clock⟩ }

/-- Bytes of an inflow write offered to the Lander (R28). -/
def offerInflow (a : Addr) (bs : List Byte) (s : State) : State :=
  let r := takeBytes bs s
  settleInflow a r.1 r.2

/-- An inflow write with enabled bytes, taken in ACTIVE (R28). -/
def inflowWrite (a : Addr) (be : Enables) (d : Beat) (s : State) : State := offerInflow a (enabledBytes be d) s

/-- The segment's last byte is written (R34, R37): the reservation becomes a LANDED entry, the Unpacker is told, and
the Lander is in SEEK. -/
def landSegment (b : Body) (start : Nat) (s : State) : State :=
  takeWork false
    { s with
      lander := .seek []
      landed := s.landed ++ [⟨⟨start, b.header, b.stamp⟩, .landed⟩] }

/-- The stream bytes of a completed request taken from the held write (R34, R35). -/
def restAfter (n : Nat) (s : State) : List Byte := (heldInflow s).drop n

/-- The address of the write the port holds. -/
def heldAddr (s : State) : Addr :=
  match s.held with
  | some h => h.addr
  | none => 0

/-- The Lander after a request of `n` stream bytes is written and taken (R34): the next request for a header word;
otherwise the held write goes on with its next byte. -/
def continueInflow (n : Nat) (s : State) : State :=
  if n = 0 then issueRequest s else offerInflow (heldAddr s) (restAfter n s) s

/-- The memory port completes the Lander's outstanding request (R34), once it has granted it, and so no request of class
1 or 2 waits (R156). -/
def ringWriteDone (s : State) : State :=
  match s.lander with
  | .body b =>
    match b.start, b.request, s.grants .lander with
    | some start, some q, true =>
      let b1 := { b with landed := b.landed + q.bytes.length, request := none }
      let s1 := storeRing q.offset q.bytes s
      if totalOf b.header.length ≤ b1.landed then continueInflow q.stream (landSegment b1 start s1)
      else continueInflow q.stream { s1 with lander := .body b1 }
    | _, _, _ => s
  | .header _ => s
  | .seek _ => s

/-- A held inflow write's timer starts afresh (R35). -/
def restartHold (s : State) : State :=
  match s.held with
  | some h => if h.chute = .inflow then { s with held := some { h with since := s.clock } } else s
  | none => s

/-- ADMISSION (R33): the segment in BODY obtains its admission, and the held write resumes. -/
def admission (s : State) : State :=
  match s.lander with
  | .body b =>
    match b.start with
    | none =>
      if canAdmit s (totalOf b.header.length) then issueRequest (restartHold (makeAdmission b s)) else s
    | some _ => s
  | .header _ => s
  | .seek _ => s

/-! ## The cut -/

/-- The hold limit of the profile applied, in ticks: 10 to the millisecond (R35). -/
def State.holdTicks (s : State) : Nat :=
  match s.profile with
  | some p => 10 * p.holdLimit
  | none => 0

/-- Whether the write held in a chute has been held longer than the hold limit (R35, R36, R152). -/
def holdExpired (s : State) (c : Chute) : Bool :=
  match s.held with
  | some h => h.chute == c && decide (s.holdTicks < (s.clock - h.since).toNat)
  | none => false

/-- The outstanding ring write of a segment that is cut or lost: whether it reached memory is free (R35, R156). -/
def strayRingWrite (b : Body) (s : State) : State :=
  match b.request with
  | some q =>
    { s with
      mem := if Config.ringWriteReached s.free then (storeRing q.offset q.bytes s).mem else s.mem
      badWords := if Config.ringWriteReached s.free then (storeRing q.offset q.bytes s).badWords else s.badWords
      free := s.free + 1 }
  | none => s

/-- The ring given back by a cut of an admitted segment (R36). -/
def unwindAdmission (b : Body) (s : State) : State :=
  match b.start with
  | some start => { s with ringTail := start, ringUsed := s.ringUsed - totalOf b.header.length }
  | none => s

/-- The segment in BODY is cut (R36). -/
def cutSegment (s : State) : State :=
  match s.lander with
  | .body b =>
    submit (segmentNotice .cut b.header b.stamp b.landed)
      { unwindAdmission b (strayRingWrite b s) with lander := .seek [], discarded := 0 }
  | .header _ => s
  | .seek _ => s

/-- INFLOW_HOLD_TIMEOUT's effect (R36): the write completes with an error, its bytes not taken are discarded, and the
segment in BODY is cut. -/
def inflowTimeout (s : State) : State :=
  if holdExpired s .inflow then cutSegment (respond .error { s with held := none }) else s

/-! ## The commands -/

/-- ADMISSION (R33). -/
def execAdmission (s : State) : Host.Outcome State Fault Refusal := .next (admission s)

/-- RING_WRITE_DONE (R34). -/
def execRingWriteDone (s : State) : Host.Outcome State Fault Refusal := .next (ringWriteDone s)

/-- INFLOW_HOLD_TIMEOUT (R36). -/
def execInflowHoldTimeout (s : State) : Host.Outcome State Fault Refusal := .next (inflowTimeout s)

end Sys2Proof.Machine
end

