-- ==== Sys2Proof/Machine/Reads.lean ====
section
/-! DEFINITION. Reading one access after another through the memory port (R156): how words go into accesses of 1 to 8
consecutive words, how far a reading is, and when the requests it still takes are granted. -/

namespace Sys2Proof.Machine

/-! ## Accesses -/

/-- How many more accesses words need, in order, after an access of `n` words whose last is at `last`: a consecutive word
joins an access of fewer than 8 (R156). -/
def accessesAfter : Nat → Nat → List Nat → Nat
  | _, _, [] => 0
  | last, n, a :: as => if a = last + 8 ∧ n < 8 then accessesAfter a (n + 1) as else accessesAfter a 1 as + 1

/-- The fewest accesses of 1 to 8 consecutive words that read some words, by address, in order (R156). -/
def accesses : List Nat → Nat
  | [] => 0
  | a :: as => accessesAfter a 1 as + 1

/-- How many words the longest access from the first of some words on can take (R156). -/
def accessLength (as : List Nat) : Nat :=
  ((List.range (min 8 as.length)).takeWhile fun i => as.getD i 0 == as.headD 0 + 8 * i).length

/-! ## A reading -/

/-- The fewest requests a reading still takes: the one that waits, and those for the words after it (R156). -/
def Reading.requestsLeft (addrs : List Nat) (r : Reading) : Nat :=
  (if r.asked = 0 then 0 else 1) + accesses (addrs.drop (r.words + r.asked))

/-- A request made for the next words, one access of a number of words if it can be so long (R156). -/
def Reading.ask (addrs : List Nat) (n : Nat) (r : Reading) : Reading :=
  { r with asked := min (max 1 n) (accessLength (addrs.drop r.words)) }

/-- The request that waits granted: the words it asks for are read, as memory holds them (R155, R156). -/
def Reading.granted (addrs : List Nat) (s : State) (r : Reading) : Reading where
  words := r.words + r.asked
  failed := r.failed.or ((((addrs.drop r.words).take r.asked).findIdx? s.bad).map (· + r.words))
  asked := 0

/-- The first word, by its number, with an uncorrectable error when it was read, or now if it is not yet read (R155). -/
def Reading.error (addrs : List Nat) (s : State) (r : Reading) : Option Nat :=
  r.failed.or (((addrs.drop r.words).findIdx? s.bad).map (· + r.words))

/-- A reading at its end, the rest of its words being read now (R156). -/
def Reading.finish (addrs : List Nat) (s : State) (r : Reading) : Reading := ⟨addrs.length, r.error addrs s, 0⟩

/-! ## Requests granted one after another -/

/-- Whether a requester's next `n` requests are granted with no other request between them (R156): none is needed; one is
the arbiter's grant; and before a second, every other request of its class that waits has its turn, by arrival or by
rotation, and every one of a higher class goes first. A command that takes several is left as it is until they are so
granted: the model's choice, notes/assumptions/13.md. -/
def State.grantsRun (s : State) (r : Requester) (n : Nat) : Bool :=
  n == 0 || s.grants r && (n == 1 || s.requests.all fun q => q == r || decide (requestClass s r < requestClass s q))

end Sys2Proof.Machine
end

