-- ==== Sys2Proof/Machine/Screen.lean ====
section
/-! DEFINITION. The Screener: tone curve, cell position and threshold decision (chapter 5, R83 to R96). It has no state. -/

namespace Sys2Proof.Machine

/-- Knot `k` of a tone curve (R83). -/
def knot (K : List Byte) (k : Nat) : Int := ((K.getD k 0).toNat : Int)

/-- The tone of a sample (R89). Integer division by 16 rounds toward minus infinity. -/
def toneCurve (K : List Byte) (c : Nat) : Int :=
  knot K (c / 16) + ((knot K (c / 16 + 1) - knot K (c / 16)) * ((c % 16 : Nat) : Int) + 8) / 16

/-- The cell modulus N (R91). -/
def cellModulus (a b : Nat) : Nat := a * a + b * b

/-- The cell coordinate u of a pixel (R91). -/
def cellU (a b x y : Nat) : Nat := (a * x + b * y) % cellModulus a b

/-- The cell coordinate v of a pixel (R91), a true remainder. -/
def cellV (a b x y : Nat) : Nat := (((a * y : Nat) : Int) - ((b * x : Nat) : Int)).emod (cellModulus a b : Int) |>.toNat

/-- The threshold at a pixel: the table's entry at the scaled cell coordinates, 0 read as 1 (R92). -/
def threshold (q : ScreenSlot) (x y : Nat) : Nat :=
  max (q.thr.getD (16 * (cellV q.a q.b x y * 16 / cellModulus q.a q.b) + cellU q.a q.b x y * 16 / cellModulus q.a q.b) 0).toNat 1

/-- The screened bit of a pixel with sample `c` (R93). -/
def screenedBit (q : ScreenSlot) (x y c : Nat) : Bool := decide ((threshold q x y : Int) ≤ toneCurve q.knots c)

end Sys2Proof.Machine
end

