-- ==== Sys2Proof/Machine/Compose.lean ====
section
/-! DEFINITION. Composition of pixels, spans and rows (R78, R85 to R88, R97 to R105): the steps all five composers share. -/

namespace Sys2Proof.Machine

/-! ## The slug font (Table 6-1) -/

/-- A character of the slug (R104). -/
inductive SlugChar
  | digit (n : Nat)
  | k
  | c
  | m
  | y
  | dash
deriving DecidableEq, Repr

/-- The 7 rows of a glyph, top to bottom; the leftmost dot is the most significant of 5 bits (Table 6-1). -/
def glyph : SlugChar → List (BitVec 5)
  | .digit 0 => [0b01110, 0b10001, 0b10011, 0b10101, 0b11001, 0b10001, 0b01110]
  | .digit 1 => [0b00100, 0b01100, 0b00100, 0b00100, 0b00100, 0b00100, 0b01110]
  | .digit 2 => [0b01110, 0b10001, 0b00001, 0b00010, 0b00100, 0b01000, 0b11111]
  | .digit 3 => [0b11111, 0b00010, 0b00100, 0b00010, 0b00001, 0b10001, 0b01110]
  | .digit 4 => [0b00010, 0b00110, 0b01010, 0b10010, 0b11111, 0b00010, 0b00010]
  | .digit 5 => [0b11111, 0b10000, 0b11110, 0b00001, 0b00001, 0b10001, 0b01110]
  | .digit 6 => [0b00110, 0b01000, 0b10000, 0b11110, 0b10001, 0b10001, 0b01110]
  | .digit 7 => [0b11111, 0b00001, 0b00010, 0b00100, 0b01000, 0b01000, 0b01000]
  | .digit 8 => [0b01110, 0b10001, 0b10001, 0b01110, 0b10001, 0b10001, 0b01110]
  | .digit 9 => [0b01110, 0b10001, 0b10001, 0b01111, 0b00001, 0b00010, 0b01100]
  | .digit _ => []
  | .k => [0b10001, 0b10010, 0b10100, 0b11000, 0b10100, 0b10010, 0b10001]
  | .c => [0b01110, 0b10001, 0b10000, 0b10000, 0b10000, 0b10001, 0b01110]
  | .m => [0b10001, 0b11011, 0b10101, 0b10101, 0b10001, 0b10001, 0b10001]
  | .y => [0b10001, 0b10001, 0b01010, 0b00100, 0b00100, 0b00100, 0b00100]
  | .dash => [0b00000, 0b00000, 0b00000, 0b11111, 0b00000, 0b00000, 0b00000]

/-- The letter of a separation (R104). -/
def separationChar (v : Byte) : SlugChar :=
  if v = 0 then .k else if v = 1 then .c else if v = 2 then .m else .y

/-- The 11 characters of the slug of a page key and attempt digit (R104). -/
def slugText (k : Key) (attempt : Nat) : List SlugChar :=
  let e := k.edition.toNat
  let p := k.page.toNat
  [.digit (e / 100), .digit (e / 10 % 10), .digit (e % 10), .dash,
   .digit (p / 100), .digit (p / 10 % 10), .digit (p % 10), .dash,
   separationChar k.separation, .dash, .digit attempt]

/-- Whether a glyph's dot at a column and row is ink. -/
def glyphDot (ch : SlugChar) (col row : Nat) : Bool := ((glyph ch).getD row 0).getLsbD (4 - col)

/-! ## Marks -/

/-- Whether a mark's rectangle holds a pixel (R102). -/
def Mark.holds (m : Mark) (px py : Nat) : Bool :=
  decide (m.x ≤ px ∧ px < m.x + m.w ∧ m.y ≤ py ∧ py < m.y + m.h)

/-- Whether a bar of a CROSS covers a coordinate: `origin` and `extent` are the rectangle's along that axis (R103). -/
def barCovers (origin extent stroke v : Nat) : Bool :=
  let first : Int := (origin : Int) + ((extent : Int) - (stroke : Int)) / 2
  decide (first ≤ (v : Int) ∧ (v : Int) ≤ first + (stroke : Int) - 1)

/-- Whether a SLUG inks a pixel of its rectangle (R104). -/
def slugInks (m : Mark) (text : List SlugChar) (px py : Nat) : Bool :=
  let col := (px - m.x) / m.dot
  let row := (py - m.y) / m.dot
  decide (col / 6 < 11 ∧ row < 7 ∧ col % 6 < 5) && glyphDot (text.getD (col / 6) .dash) (col % 6) row

/-- Whether a mark inks a pixel (R102, R103, R104). -/
def Mark.inks (m : Mark) (text : List SlugChar) (px py : Nat) : Bool :=
  m.holds px py &&
    match m.kind with
    | .off => false
    | .solid => true
    | .cross => barCovers m.y m.h m.stroke py || barCovers m.x m.w m.stroke px
    | .slug => slugInks m text px py

/-- The mark pixel: ink when at least one mark inks it (R102). -/
def markPixel (marks : List Mark) (text : List SlugChar) (px py : Nat) : Bool := marks.any fun m => m.inks text px py

/-! ## Base pixels -/

/-- The hatch (R78). -/
def hatchPixel (x y : Nat) : Bool := decide ((x + y) % 16 = 0 ∨ (x + y) % 16 = 1)

/-- The photo record whose rectangle holds a tile (R85). -/
def Page.photoAt (p : Page) (tx ty : Nat) : Option PhotoRecord := p.photos.find? fun r => r.covers tx ty

/-- Whether a sample row of a photo has not been received yet (R87). -/
def PhotoRecord.awaits (r : PhotoRecord) (j : Nat) : Bool := r.state == .receiving && decide (r.nextRow ≤ j)

/-- The sample row behind a pixel row (R86). -/
def PhotoRecord.sampleRow (r : PhotoRecord) (y : Nat) : Nat := (y - r.ty0 * 256) / r.scale

/-- The sample column behind a pixel column (R86). -/
def PhotoRecord.sampleCol (r : PhotoRecord) (x : Nat) : Nat := (x - r.tx0 * 256) / r.scale

/-- The address of a sample of a photo of the page in a frame (R86). -/
def PhotoRecord.sampleAddr (r : PhotoRecord) (f i j : Nat) : Nat :=
  photoBase f + r.base + j * photoWidth r.w r.scale + i

/-- The lookup of a span: the tile's patch entry and whether it is damaged, taken at one moment (R99). -/
def spanSource (s : State) (f : Nat) (p : Page) (tx ty : Nat) : SpanSource :=
  match findPatch s.patches f tx ty with
  | some e => if e.spoilt then .hatch else .patch e.slot
  | none => if tileDamaged s.patches f p tx ty then .hatch else .page (p.photoAt tx ty)

/-- The photo bytes a span reads: the address of the first and their count (R99): the samples of row j across the
tile's columns, none for a row not yet received. -/
def toneBytes (f : Nat) (r : PhotoRecord) (tx y : Nat) : Nat × Nat :=
  (r.sampleAddr f (r.sampleCol (tx * 256)) (r.sampleRow y), if r.awaits (r.sampleRow y) then 0 else 256 / r.scale)

/-- The words, by address, that hold `n` bytes from an address on. -/
def wordsOver (a n : Nat) : List Nat :=
  if n = 0 then [] else (List.range ((a % 8 + n + 7) / 8)).map fun i => 8 * (a / 8 + i)

/-- The words a span reads, by address and in order, each with what it is read as (R99, R74). -/
def spanReads (f : Nat) (p : Page) (tx y : Nat) : SpanSource → List (Nat × ReadSource)
  | .patch n => (wordsOver (slotBase n + (y % 256) * 32) 32).map fun a => (a, .patchSlot n)
  | .hatch => []
  | .page none => (wordsOver (frameBase f + spanOffset p.tw tx y) 32).map fun a => (a, .lineArt)
  | .page (some r) =>
    ((wordsOver (frameBase f + spanOffset p.tw tx y) 32).map fun a => (a, .lineArt)) ++
      (wordsOver (toneBytes f r tx y).1 (toneBytes f r tx y).2).map fun a => (a, .tone)

/-- The addresses of the words a span reads, in order. -/
def spanAddrs (f : Nat) (p : Page) (tx y : Nat) (src : SpanSource) : List Nat := (spanReads f p tx y src).map Prod.fst

/-- A span looked up, of which nothing is read yet (R99). -/
def lookUpSpan (s : State) (f : Nat) (p : Page) (tx y : Nat) : SpanWork := ⟨spanSource s f p tx (y / 256), Reading.start⟩

/-- The uncorrectable error that the reads of a span in composition have met, or meet if the rest are made now, as what
was being read (R99, R74). -/
def SpanWork.error (s : State) (f : Nat) (p : Page) (tx y : Nat) (w : SpanWork) : Option ReadSource :=
  (w.read.error (spanAddrs f p tx y w.source) s).bind fun k => (spanReads f p tx y w.source)[k]?.map Prod.snd

/-- The uncorrectable error a span's reads meet, if they are all made now (R99, R74). -/
def spanError (s : State) (f : Nat) (p : Page) (tx y : Nat) (src : SpanSource) : Option ReadSource :=
  SpanWork.error s f p tx y ⟨src, Reading.start⟩

/-- Whether a span reads memory at all (R99). -/
def SpanSource.reads : SpanSource → Bool
  | .hatch => false
  | .patch _ => true
  | .page _ => true

/-- The screened bit of a pixel under a photo record (R86, R87, R93). -/
def photoPixel (s : State) (f : Nat) (q : ScreenSlot) (r : PhotoRecord) (x y : Nat) : Bool :=
  if r.awaits (r.sampleRow y) then false
  else screenedBit q x y (memRead s.mem (r.sampleAddr f (r.sampleCol x) (r.sampleRow y))).toNat

/-- The base pixel (R98 steps 1 to 3). -/
def basePixel (s : State) (f : Nat) (p : Page) (q : ScreenSlot) (src : SpanSource) (x y : Nat) : Bool :=
  match src with
  | .patch n => pixelBit (memRead s.mem (slotBase n + (y % 256) * 32 + (x % 256) / 8)) x
  | .hatch => hatchPixel x y
  | .page photo =>
    pixelBit (memRead s.mem (frameBase f + pixelOffset p.tw x y)) x ||
      match photo with
      | none => false
      | some r => photoPixel s f q r x y

/-! ## Spans -/

/-- The composed pixel in positive polarity (R98 step 4). -/
def positivePixel (s : State) (c : Context) (p : Page) (src : SpanSource) (x y : Nat) : Bool :=
  basePixel s c.frame p c.slot src x y || markPixel c.marks (slugText c.key c.attempt) x y

/-- The composed pixel (R98 steps 4 and 5). -/
def composedPixel (s : State) (c : Context) (p : Page) (src : SpanSource) (x y : Nat) : Bool :=
  match c.polarity with
  | .positive => positivePixel s c p src x y
  | .negative => !positivePixel s c p src x y

/-- The 32 bytes of a span made from a source (R98, R99). -/
def spanBytes (s : State) (c : Context) (p : Page) (src : SpanSource) (tx y : Nat) : List Byte :=
  (List.range 32).map fun k => packByte fun i => composedPixel s c p src (tx * 256 + 8 * k + i) y

/-- A span composed: its bytes, and the flag request it makes of an uncorrectable error (R99). -/
structure SpanResult where
  bytes : List Byte
  request : Option FlagRequest
deriving DecidableEq, Repr

/-- A span in composition composed, the rest of its words being read (R99): an uncorrectable error makes it the hatch, with
a flag request (R74). Its bytes are those memory holds now: no write reaches the words of a locked page between a grant
and the row's last one, notes/assumptions/42.md. -/
def composeSpan (s : State) (c : Context) (p : Page) (tx y : Nat) (w : SpanWork) : SpanResult :=
  match w.error s c.frame p tx y with
  | none => ⟨spanBytes s c p w.source tx y, none⟩
  | some e => ⟨spanBytes s c p .hatch tx y, some ⟨c.key, c.frame, tx, y / 256, e⟩⟩

/-- A plate row as far as it is composed: the state after the flag requests, the bytes, and whether an uncorrectable
error was met. -/
structure RowResult where
  state : State
  bytes : List Byte
  error : Bool

/-- One more span of a plate row (R107, R109): the one in composition, or one looked up now. That its flag request (R74) is
made when the row is completed is the model's choice, as R109 orders it only before the STORE error is acted on,
notes/assumptions/42.md. -/
def addSpan (c : Context) (y : Nat) (row : List SpanWork) (r : RowResult) (tx : Nat) : RowResult :=
  match r.state.page c.frame with
  | some p =>
    let q := composeSpan r.state c p tx y (row.getD tx (lookUpSpan r.state c.frame p tx y))
    ⟨raiseFlag? q.request r.state, r.bytes ++ q.bytes, r.error || q.request.isSome⟩
  | none => r

/-- A plate row completed, from the spans in composition on: its spans from tile column 0 to tw − 1 (R107, R109). -/
def composeRow (c : Context) (y : Nat) (row : List SpanWork) (s : State) : RowResult :=
  (List.range c.tw).foldl (addSpan c y row) ⟨s, [], false⟩

end Sys2Proof.Machine
end

