-- ==== Sys2Proof/Machine/Rows.lean ====
section
/-! DEFINITION. The row a lane composer has in composition (R99, R107, R108), request by request through the memory port
(R156), and the grants to lane composers. -/

namespace Sys2Proof.Machine

/-! ## The row in composition -/

/-- The context whose next row the lane composer composes (R107): the front plate's if it has rows not yet composed,
and the back plate's otherwise. -/
def composing (L : Lane) : Option (RowMark × Latched) :=
  match L.frontCtx with
  | some c =>
    if c.composed < c.ctx.th * 256 then some (.front, c)
    else
      match L.backCtx with
      | some b => if b.composed < b.ctx.th * 256 then some (.back, b) else none
      | none => none
  | none =>
    match L.backCtx with
    | some b => if b.composed < b.ctx.th * 256 then some (.back, b) else none
    | none => none

/-- The row a lane composer composes next (R107): in ACTIVE, with a context that has rows to compose and fewer rows in
the buffer than the high-water level. -/
def rowInHand (s : State) (l : LaneId) : Option (RowMark × Latched) :=
  if s.engine = .active ∧ (s.lane l).buffer.length < s.highWater l then composing (s.lane l) else none

/-- All the spans of a context's row, those not yet looked up as their lookup answers now (R99). -/
def wholeRow (s : State) (c : Latched) (p : Page) : List SpanWork :=
  c.row ++ ((List.range c.ctx.tw).drop c.row.length).map fun tx => lookUpSpan s c.ctx.frame p tx c.composed

/-- The addresses of the words that the span of a tile column of a context's row reads. -/
def rowAddrs (c : Latched) (p : Page) (tx : Nat) (w : SpanWork) : List Nat :=
  spanAddrs c.ctx.frame p tx c.composed w.source

/-- The fewest requests each span of a context's row still takes (R99, R156). -/
def spanRequests (s : State) (c : Latched) (p : Page) : List Nat :=
  (wholeRow s c p).mapIdx fun tx w => w.read.requestsLeft (rowAddrs c p tx w)

/-- The fewest requests a context's row still takes (R99, R156). -/
def rowAccesses (s : State) (c : Latched) : Nat :=
  match s.page c.ctx.frame with
  | some p => (spanRequests s c p).sum
  | none => 0

/-- A request made for a row's next words (R99, R156): its spans are looked up as far as the first that has words to read,
and one access of those words is asked for. That a span is looked up with its first request is the model's choice, as no
rule says when in the row's composition it is, notes/assumptions/42.md. -/
def rowAsks (s : State) (n : Nat) (c : Latched) : Latched :=
  match s.page c.ctx.frame with
  | some p =>
    let k := (spanRequests s c p).findIdx fun m => decide (0 < m)
    { c with
      row := ((wholeRow s c p).take (max c.row.length (k + 1))).modify k fun w =>
        { w with read := w.read.ask (rowAddrs c p k w) n } }
  | none => c

/-- The request of a context's row that waits, if one does, granted: its words are read (R99, R156). -/
def rowGranted (s : State) (c : Latched) : Latched :=
  match s.page c.ctx.frame with
  | some p => { c with row := c.row.mapIdx fun tx w => { w with read := w.read.granted (rowAddrs c p tx w) s } }
  | none => c

/-- Whether a request waits that a context's row has made. -/
def Latched.asks (c : Latched) : Bool := c.row.any fun w => decide (0 < w.read.asked)

/-- The fewest grants to a lane composer that the row in hand still takes: where the request of a row given up still
waits, its grant comes first (R156, notes/assumptions/43.md). -/
def rowRequestsLeft (s : State) (l : LaneId) (c : Latched) : Nat :=
  if 0 < rowAccesses s c ∧ s.waiting.contains (.composer l) ∧ c.asks = false then rowAccesses s c + 1 else rowAccesses s c

/-! ## Grants -/

/-- A lane with the words that its composer's request asks for read, by whichever of its rows asks for them (R99,
R107). -/
def Lane.rowsRead (s : State) (L : Lane) : Lane :=
  { L with frontCtx := L.frontCtx.map (rowGranted s), backCtx := L.backCtx.map (rowGranted s) }

/-- The grant of a lane composer's request, which its class remembers (R156): its words are read, and it waits no more. -/
def grantLane (l : LaneId) (s : State) : State :=
  modLane l (Lane.rowsRead s) ((noteGrant l s).served (.composer l))

/-- The grant to the host's request, in class 2: the requests of class 1 that wait are granted before it, and no other
request of class 2 waits, as the system port has one host request at a time (R149, R156). -/
def portGrant (s : State) : State := portTaken ((lanesFirst s).foldl (fun t l => grantLane l t) s)

end Sys2Proof.Machine
end

