-- ==== Sys2Proof/Machine/Lanes.lean ====
section
/-! DEFINITION. The lane controllers and the lane composers: setter messages, feeding, underrun, faults, link loss, rows
composed and STORE errors (chapters 6 and 8, R107 to R109, R129 to R148), and the lateness event (R121). -/

namespace Sys2Proof.Machine

/-! ## Taking a message -/

/-- A setter message taken (R129, R144): the link timer restarts, and in FAULT the lane goes to STOP with LINK UP. -/
def takeMessage (l : LaneId) (s : State) : State :=
  let s1 := modLane l (fun L => { L with lastMessage := some s.clock }) s
  if (s.lane l).mode = .fault then
    submit (linkUpNotice l) (modLane l (fun L => { L with mode := .stop }) s1)
  else s1

/-- A stray message: ignored, with its notice (R142). -/
def stray (l : LaneId) (msg value : Nat) (s : State) : State := submit (strayNotice l msg value (s.lane l).front) s

/-! ## Feeding -/

/-- Whether the plate of a front context has all its rows composed and none left in the buffer: its last row is
sent (R138). -/
def lastRowSent (L : Lane) : Bool :=
  match L.frontCtx with
  | some c => decide (c.ctx.th * 256 ≤ c.composed) && (rowsOf .front L.buffer).isEmpty
  | none => false

/-- FINISH for a front plate whose last row has been sent (R138). -/
def finishFront (l : LaneId) (p : Plate) (s : State) : State :=
  modLane l (fun L => { L with owed := 0 })
    (modPlate l p.tag (fun x => { x with state := .finishing }) (sendMsg l (.finish p.tag) s))

/-- One owed row sent as a ROW (R136). -/
def sendRow (l : LaneId) (r : BufferedRow) (rest : List BufferedRow) (s : State) : State :=
  modLane l (fun L => { L with buffer := rest, owed := L.owed - 1 }) (sendMsg l (.row r.bytes) s)

/-- Up to `n` rows sent while the front plate is EXPOSING, rows are owed and the first row of the buffer is a front
row (R136); after the plate's last row, FINISH (R138). -/
def feed (l : LaneId) : Nat → State → State
  | 0, s => s
  | n + 1, s =>
    match (s.lane l).front, (s.lane l).buffer with
    | some p, r :: rest =>
      if p.state = .exposing ∧ 0 < (s.lane l).owed ∧ r.mark = .front then
        let s1 := sendRow l r rest s
        if lastRowSent (s1.lane l) then finishFront l p s1 else feed l n s1
      else s
    | _, _ => s

/-- Every owed row that is buffered is sent (R136). -/
def feedAll (l : LaneId) (s : State) : State := feed l (s.lane l).owed s

/-! ## Setter messages -/

/-- READY taken (R135). -/
def readyTaken (l : LaneId) (s : State) : State :=
  if (s.lane l).front = none ∧ (s.lane l).drumReady = false then
    tryStart l (modLane l (fun L => { L with drumReady := true }) s)
  else stray l 1 0 s

/-- An underrun (R137): the front plate is spoiled and cancelled. -/
def underrun (l : LaneId) (s : State) : State :=
  match (s.lane l).front with
  | some p => cancelFront p (spoil p .underrun s)
  | none => s

/-- PULL n taken (R136, R137, R142). -/
def pullTaken (l : LaneId) (n : BitVec 16) (s : State) : State :=
  match (s.lane l).front with
  | some p =>
    if n.toNat = 0 ∨ 64 < n.toNat then stray l 2 n.toNat s
    else if p.state = .exposing then
      if 0 < (s.lane l).owed then underrun l s
      else feedAll l (modLane l (fun L => { L with owed := n.toNat }) s)
    else if p.state = .cancelling then s
    else stray l 2 n.toNat s
  | none => stray l 2 n.toNat s

/-- The front plate reaches EXPOSED (R139): its outcome, and TOO LATE for a pending withdraw (R126). -/
def exposeFront (l : LaneId) (p : Plate) (s : State) : State :=
  let s1 := endPlate p .exposed (dropFront l s)
  if p.withdrawPending then submit (withdrawDone p.tag .tooLate) s1 else s1

/-- EXPOSED taken (R139, R142). -/
def exposedTaken (l : LaneId) (tag : Tag) (s : State) : State :=
  match (s.lane l).front with
  | some p =>
    if p.tag = tag ∧ (p.state = .finishing ∨ p.state = .cancelling) then
      let s1 := exposeFront l p s
      settleLocks s s1 (tryStart l s1)
    else stray l 3 tag.toNat s
  | none => stray l 3 tag.toNat s

/-- Whether the resolution of a lane's front plate returns it to QUEUED (R122). -/
def returnsFront (L : Lane) : Bool :=
  match L.front with
  | some p => !p.withdrawPending && decide (p.attempt < p.allowance)
  | none => false

/-- The lane after its front plate has been resolved (R122, R134, R140): the START test, and the choice that a return to
QUEUED brings about (R119). -/
def leaveFront (l : LaneId) (before resolved : State) : State :=
  if returnsFront (before.lane l) then startThenChoose l resolved else tryStart l resolved

/-- What the resolution of a lane's front plate sets off on the lane, and then through the lock it releases (R17). -/
def afterResolve (l : LaneId) (before resolved : State) : State :=
  settleLocks before resolved (leaveFront l before resolved)

/-- EJECTED taken (R140, R142). -/
def ejectedTaken (l : LaneId) (tag : Tag) (s : State) : State :=
  match (s.lane l).front with
  | some p =>
    if p.tag = tag ∧ p.state = .cancelling then afterResolve l s (resolveFront l s)
    else stray l 4 tag.toNat s
  | none => stray l 4 tag.toNat s

/-- FAULT's effect on the front plate (R141). -/
def faultFront (l : LaneId) (s : State) : State :=
  match (s.lane l).front with
  | some p => if p.state = .cancelling then resolveFront l s else resolveFront l (spoil p .media s)
  | none => s

/-- FAULT taken (R141): the front plate, with what its resolution sets off on the lane in the mode it finds; then
drum-ready and the mode, with its notice (R132, notes/assumptions/12.md). The announcement of the lock that the
resolution releases (R17) comes last, when the lane is in STOP and so does not choose on it: the model's choice, as no
rule says when the lane takes it, notes/assumptions/38.md. -/
def faultTaken (l : LaneId) (c : FaultCause) (s : State) : State :=
  let s1 := faultFront l s
  let s2 := if (s.lane l).front.isSome then leaveFront l s s1 else s1
  settleLocks s s1 (submit (modeByMedia l .stop c)
    (modLane l (fun L => { L with drumReady := false, mode := .stop, lastHeld := none }) s2))

/-! ## Link loss and idle -/

/-- Whether a lane's link is lost: in RUN or STOP, 1000 ticks since the last-message time (R143). -/
def linkLost (s : State) (l : LaneId) : Bool :=
  (s.lane l).mode != .fault &&
    match (s.lane l).lastMessage with
    | some t => decide (1000 ≤ (s.clock - t).toNat)
    | none => false

/-- Step 3 of a link loss (R143, R126): a front plate is spoiled with cause LINK, unless its attempt is already
spoiled, and resolved. -/
def lossFront (l : LaneId) (s : State) : State :=
  match (s.lane l).front with
  | some p => if p.spoil.isSome then resolveFront l s else resolveFront l (spoil p .link s)
  | none => s

/-- A link loss taken (R143). The locks released in its steps 2 and 3 are announced once, after step 4 (R17): no rule
says when the other lanes take them, and this is the model's choice, notes/assumptions/38.md. -/
def takeLoss (l : LaneId) (s : State) : State :=
  let s1 := submit (linkLostNotice l)
    (modLane l (fun L => { L with mode := .fault, lastMessage := none, lastHeld := none }) s)
  let s2 := lossFront l (giveBack l s1)
  settleLocks s s2 (modLane l (fun L => { L with buffer := [], drumReady := false, owed := 0 }) s2)

/-- Whether a lane has sent nothing for 10 ms (R130). -/
def idleDue (s : State) (l : LaneId) : Bool := decide (100 ≤ (s.clock - (s.lane l).lastSent).toNat)

/-! ## Rows composed -/

/-- A composed row placed at the end of the buffer, and the plate's count of rows raised, with none in composition (R107,
R133). -/
def placeRow (l : LaneId) (m : RowMark) (c : Latched) (bytes : List Byte) (s : State) : State :=
  modLane l (fun L =>
    match m with
    | .front => { L with buffer := L.buffer ++ [⟨m, bytes⟩], frontCtx := some ⟨c.ctx, c.composed + 1, []⟩ }
    | .back => { L with buffer := L.buffer ++ [⟨m, bytes⟩], backCtx := some ⟨c.ctx, c.composed + 1, []⟩ }) s

/-- A STORE error taken with its row (R146, R75): a front plate in EXPOSING is spoiled and cancelled, a back plate is
given back, and for any other state the error is discarded. -/
def storeError (l : LaneId) (m : RowMark) (s : State) : State :=
  match m with
  | .front =>
    match (s.lane l).front with
    | some p => if p.state = .exposing then cancelFront p (spoil p .store s) else s
    | none => s
  | .back =>
    let s1 := giveBack l s
    settleLocks s s1 (choose l s1)

/-- What a row placed without an error sets off: owed rows sent (R136), or the START test (R134). -/
def rowPlaced (l : LaneId) (m : RowMark) (s : State) : State :=
  match m with
  | .front => feedAll l s
  | .back => tryStart l s

/-- The grant of a row's last request, if the row still takes one (R99, R156). -/
def noteRowGrant (l : LaneId) (c : Latched) (s : State) : State :=
  if 0 < rowAccesses s c then (noteGrant l s).served (.composer l) else s

/-- A row of a context completed, placed and acted on (R107, R109). A STORE error is taken with the row that carries it
(R146), and so before the START test that the row's placing might bring about (R134), which then finds no back plate:
the model's choice, notes/assumptions/35.md. -/
def composeNext (l : LaneId) (m : RowMark) (c : Latched) (s : State) : State :=
  let r := composeRow c.ctx c.composed c.row (noteRowGrant l c s)
  let s1 := placeRow l m c r.bytes r.state
  if r.error then storeError l m s1 else rowPlaced l m s1

/-- Whether the requests that the row still takes wait at the memory port (R99, R156): it ends in this step where they are
granted one after another, and goes on with the ticks' grants where another lane's turn comes between. -/
def rowWaits (s : State) (l : LaneId) (c : Latched) : Bool := !s.grantsRun (.composer l) (rowRequestsLeft s l c)

/-- The lane composer completes a row (R107), unless requests it still takes wait at the memory port (R156). -/
def rowComposed (l : LaneId) (s : State) : State :=
  match rowInHand s l with
  | some (m, c) => if rowWaits s l c then s else composeNext l m c s
  | none => s

/-! ## The commands -/

/-- PLATE_LATE (R121): the clock's test of the plate with a tag. -/
def execPlateLate (tag : Tag) (s : State) : Host.Outcome State Fault Refusal :=
  .next (match s.findPlate tag with
    | some (l, _) => lateTest l tag s
    | none => s)

/-- LANE_ROW_COMPOSED (R107). -/
def execLaneRowComposed (l : LaneId) (s : State) : Host.Outcome State Fault Refusal := .next (rowComposed l s)

/-- READY (R135). -/
def execReady (l : LaneId) (s : State) : Host.Outcome State Fault Refusal := .next (readyTaken l (takeMessage l s))

/-- PULL (R136). -/
def execPull (l : LaneId) (n : BitVec 16) (s : State) : Host.Outcome State Fault Refusal :=
  .next (pullTaken l n (takeMessage l s))

/-- EXPOSED (R139). -/
def execExposed (l : LaneId) (tag : Tag) (s : State) : Host.Outcome State Fault Refusal :=
  .next (exposedTaken l tag (takeMessage l s))

/-- EJECTED (R140). -/
def execEjected (l : LaneId) (tag : Tag) (s : State) : Host.Outcome State Fault Refusal :=
  .next (ejectedTaken l tag (takeMessage l s))

/-- FAULT (R141). -/
def execSetterFault (l : LaneId) (c : FaultCause) (s : State) : Host.Outcome State Fault Refusal :=
  .next (faultTaken l c (takeMessage l s))

/-- SETTER_IDLE (R129, R144). -/
def execSetterIdle (l : LaneId) (s : State) : Host.Outcome State Fault Refusal := .next (takeMessage l s)

/-- LINK_LOSS (R143). -/
def execLinkLoss (l : LaneId) (s : State) : Host.Outcome State Fault Refusal :=
  .next (if linkLost s l then takeLoss l s else s)

/-- LANE_IDLE_SEND (R130). -/
def execLaneIdleSend (l : LaneId) (s : State) : Host.Outcome State Fault Refusal :=
  .next (if idleDue s l then sendMsg l .idle s else s)

end Sys2Proof.Machine
end

