-- ==== Sys2Proof/Machine/Codes.lean ====
section
/-! DEFINITION. The two codes carried in segments: the line-art run code (R50, R51) and the tone code (R55). -/

namespace Sys2Proof.Machine

/-! ## Line art -/

/-- The line-art decoder (R50): the current colour (ink is true), the pixels placed in the current row, the previous
row, and the rows completed. -/
structure LineState where
  colour : Bool
  row : List Bool
  previous : List Bool
  rows : List (List Bool)
deriving DecidableEq, Repr

/-- What a line-art decode gives: the rows completed, and whether it was in error (R51). -/
structure LineResult where
  rows : List (List Bool)
  error : Bool
deriving DecidableEq, Repr

/-- The decoder at the start: white, with an all-white previous row (R50). -/
def lineStart (width : Nat) : LineState := ⟨false, [], List.replicate width false, []⟩

/-- A row completed: the next byte begins a new row in white (R50). -/
def completeRow (r : List Bool) (d : LineState) : LineState := ⟨false, [], r, d.rows ++ [r]⟩

/-- Pixels placed in the current row, with the colour the code leaves; a row that reaches the width completes on its
own. None when the pixels would pass the width (R50, R51). -/
def placePixels (width : Nat) (px : List Bool) (colour : Bool) (d : LineState) : Option LineState :=
  if width < d.row.length + px.length then none
  else if d.row.length + px.length = width then some (completeRow (d.row ++ px) d)
  else some { d with row := d.row ++ px, colour := colour }

/-- A run of pixels of the current colour, which is then toggled (R50). -/
def placeRun (width n : Nat) (d : LineState) : Option LineState :=
  placePixels width (List.replicate n d.colour) (!d.colour) d

/-- The 8 pixels of a byte, the most significant bit leftmost. -/
def bytePixels (b : Byte) : List Bool := (List.range 8).map fun i => b.getLsbD (7 - i)

/-- The previous row repeated as a number of completed rows (R50). -/
def repeatRow : Nat → LineState → LineState
  | 0, d => d
  | n + 1, d => repeatRow n (completeRow d.previous d)

/-- One code and its operand bytes (R50), given the first byte and the bytes after it: the decoder after it and the
bytes left, or none for an error (R51). -/
def lineCode (width need : Nat) (c : Nat) (bs : List Byte) (d : LineState) : Option (LineState × List Byte) :=
  if c ≤ 0xBF then (placeRun width (c + 1) d).map fun e => (e, bs)
  else if c ≤ 0xFB then
    if d.row ≠ [] ∨ need - d.rows.length < c - 0xBF then none else some (repeatRow (c - 0xBF) d, bs)
  else if c = 0xFC then
    match bs with
    | [] => none
    | n :: rest =>
      if n.toNat = 0 ∨ rest.length < n.toNat then none
      else (placePixels width ((rest.take n.toNat).flatMap bytePixels) false d).map fun e => (e, rest.drop n.toNat)
  else if c = 0xFD then some ({ d with colour := !d.colour }, bs)
  else if c = 0xFE then
    match bs with
    | h :: l :: rest =>
      if h.toNat * 256 + l.toNat = 0 ∨ 16384 < h.toNat * 256 + l.toNat then none
      else (placeRun width (h.toNat * 256 + l.toNat) d).map fun e => (e, rest)
    | _ => none
  else some (completeRow (d.row ++ List.replicate (width - d.row.length) d.colour) d, bs)

/-- The decode from a decoder state on (R50, R51). Every code takes at least one byte, so the payload's length bounds
the codes. -/
def lineDecodeFrom (width need : Nat) : Nat → List Byte → LineState → LineResult
  | 0, bs, d => ⟨d.rows, !(decide (need ≤ d.rows.length) && bs.isEmpty)⟩
  | fuel + 1, bs, d =>
    if need ≤ d.rows.length then ⟨d.rows, !bs.isEmpty⟩
    else
      match bs with
      | [] => ⟨d.rows, true⟩
      | c :: rest =>
        match lineCode width need c.toNat rest d with
        | none => ⟨d.rows, true⟩
        | some (e, left) => lineDecodeFrom width need fuel left e

/-- The decode of a payload as `need` rows of a width (R50, R51). -/
def lineDecode (width need : Nat) (bs : List Byte) : LineResult :=
  lineDecodeFrom width need bs.length bs (lineStart width)

/-- The raster bytes of a row of pixels. -/
def rowBytes : List Bool → List Byte
  | a :: b :: c :: d :: e :: f :: g :: h :: r => packByte (fun i => [a, b, c, d, e, f, g, h].getD i false) :: rowBytes r
  | _ => []

/-! ## Tone -/

/-- What a tone decode gives: the samples, and whether it was in error (R55). -/
structure ToneResult where
  samples : List Byte
  error : Bool
deriving DecidableEq, Repr

/-- The samples of a code put in front of what the rest of the stream gives, where `need` samples are still wanted:
none is wanted after the photo's last row, and the rest of a code's samples is then an error (R55). -/
def addSamples (need : Nat) (px : List Byte) (truncated : Bool) (rest : ToneResult) : ToneResult :=
  if need < px.length then ⟨px.take need, true⟩
  else if truncated then ⟨px, true⟩
  else ⟨px ++ rest.samples, rest.error⟩

/-- The tone code's samples, at most `need` of them (R55). Every code takes at least one byte, so the stream's length
bounds the codes. -/
def toneDecodeFrom : Nat → Nat → List Byte → ToneResult
  | 0, _, bs => ⟨[], !bs.isEmpty⟩
  | _ + 1, 0, bs => ⟨[], !bs.isEmpty⟩
  | _ + 1, _ + 1, [] => ⟨[], false⟩
  | fuel + 1, need + 1, c :: bs =>
    if c.toNat < 128 then
      addSamples (need + 1) (bs.take (c.toNat + 1)) (decide (bs.length < c.toNat + 1))
        (toneDecodeFrom fuel (need + 1 - (c.toNat + 1)) (bs.drop (c.toNat + 1)))
    else
      match bs with
      | [] => ⟨[], true⟩
      | v :: rest =>
        addSamples (need + 1) (List.replicate (c.toNat - 126) v) false
          (toneDecodeFrom fuel (need + 1 - (c.toNat - 126)) rest)

/-- The tone decode of a payload for `need` samples to the end of the photo (R55). -/
def toneDecode (need : Nat) (bs : List Byte) : ToneResult := toneDecodeFrom bs.length need bs

end Sys2Proof.Machine
end

