-- ==== Sys2Proof/Machine/Purge.lean ====
section
/-! DEFINITION. The purge of a page (R18, R19, R68, R127), which orders and segment ends share. -/

namespace Sys2Proof.Machine

/-- Slots freed: their marks in the in-use map are cleared (R65). -/
def freeSlots (ns : List Nat) (s : State) : State :=
  { s with slotsInUse := s.slotsInUse.filter fun n => !ns.contains n }

/-- Step 1 of R19 in one queue: every QUEUED plate of the page ends WITHDRAWN, in queue order (R127). -/
def withdrawQueued (k : Key) (l : LaneId) (s : State) : State :=
  ((s.lane l).queued.filter fun p => p.key == k).foldl (fun t p => endPlate p .withdrawnByPurge t) s

/-- Step 1 of R19: lanes taken from 0 to 3. -/
def withdrawAll (k : Key) (s : State) : State :=
  withdrawQueued k 3 (withdrawQueued k 2 (withdrawQueued k 1 (withdrawQueued k 0 s)))

/-- Step 2 of R19: every entry on the deferred list becomes DONE, with the reclaim that follows, and the list is
emptied. The lanes are not told of it, although R17 lists a deferred list that becomes empty: the page becomes FREE in
the same event, so that no refused claim of it can succeed. The model's choice, notes/assumptions/33.md. -/
def dropDeferred (f : Nat) (s : State) : State :=
  match s.page f with
  | some p =>
    reclaim
      (modPage f (fun q => { q with deferred := [] })
        (p.deferred.foldl (fun t o => setEntry o .done t) s))
  | none => s

/-- Step 3 of R19: the page's patch entries are removed and their slots freed (R68). -/
def dropPatches (f : Nat) (s : State) : State :=
  { freeSlots ((s.patches.filter fun e => e.frame == f).map fun e => e.slot) s with
    patches := s.patches.filter fun e => e.frame != f }

/-- Step 4 of R19: the proof composer is unbound if it is bound to the page. -/
def unbindProof (f : Nat) (s : State) : State :=
  match s.proof with
  | some (_, g) => if g = f then { s with proof := none } else s
  | none => s

/-- Steps 5 and 6 of R19: the PAGE PURGED report, and the record becomes FREE. -/
def freeRecord (f : Nat) (s : State) : State :=
  match s.page f with
  | some p => setPage f none (submit (pagePurgedReport f p) s)
  | none => s

/-- A purge completes (R19), in its seven steps; the last answers the PURGE PAGE order. It announces nothing to the
lanes by itself (notes/assumptions/33.md). -/
def completePurge (k : Key) (f : Nat) (tag : Tag) (s : State) : State :=
  submit (purgeDone tag k)
    (freeRecord f (unbindProof f (dropPatches f (dropDeferred f (withdrawAll k s)))))

end Sys2Proof.Machine
end

