-- ==== Sys2Proof/Machine/Unpacker.lean ====
section
/-! DEFINITION. The Unpacker: each segment kind, deferral, stalls and the end of a segment (chapter 3, R42 to R63), with the
patch pool and table it serves (R64 to R67). -/

namespace Sys2Proof.Machine

/-! ## Notices, payload, end -/

/-- A notice about the segment in hand (R43). -/
def notice (k : NoticeKind) (g : Segment) (detail : Nat) (s : State) : State :=
  submit (segmentNotice k g.header g.stamp detail) s

/-- The payload of a landed segment (R37, R44). -/
def payloadOf (s : State) (g : Segment) : List Byte := ringBytes s (g.offset + 16) g.header.length

/-- The words, by address and in order, that hold a segment's payload and trailer, round the ring's end (R37, R44). -/
def segmentWords (g : Segment) : List Nat :=
  (List.range (((g.offset + 16) % 8 + g.header.length + 4 + 7) / 8)).map fun i =>
    ringAddr (8 * ((g.offset + 16) / 8 + i))

/-- The first word of payload and trailer, by its number, with an uncorrectable error when it was read, or now if it is
not yet read (R44, R155). -/
def segmentError (s : State) (g : Segment) : Option Nat := s.payloadRead.error (segmentWords g) s

/-- The CRC check of a landed segment (R44): the computed CRC equals the trailer, and no word of payload or trailer had an
uncorrectable error when it was read. -/
def crcGood (s : State) (g : Segment) : Bool :=
  (segmentError s g).isNone &&
    (crc32 (payloadOf s g)).toNat == leNat (ringBytes s (g.offset + 16 + g.header.length) 4)

/-- Whether the requests that a segment still takes are granted one after another (R44, R156): those for the words of
payload and trailer not yet read, and then `writes` of the segment's own rules. That the writes are all made by the
segment's command, as few as the rules allow, is the model's choice, notes/assumptions/44.md. -/
def segmentGranted (s : State) (g : Segment) (writes : Nat) : Bool :=
  s.grantsRun .unpacker (s.payloadRead.requestsLeft (segmentWords g) + writes)

/-- The rest of a segment's payload and trailer read, no request of the Unpacker's waiting any more (R44, R156). -/
def payloadDone (g : Segment) (s : State) : State :=
  { s.served .unpacker with payloadRead := s.payloadRead.finish (segmentWords g) s }

/-- What the Unpacker does once the memory port grants the requests its segment still takes (R44, R156); until then the
segment waits as it is, and its reading goes on with the ticks' grants. -/
def whenRead (g : Segment) (writes : Nat) (next : State → State) (s : State) : State :=
  if segmentGranted s g writes then next (payloadDone g s) else s

/-- Whether the Unpacker's page has a pending purge. -/
def purgeWaits (s : State) : Bool :=
  match s.unpackerPage with
  | some f =>
    match s.page f with
    | some p => p.purgePending.isSome
    | none => false
  | none => false

/-- The segment in hand ends (R14, R42, R43): its entry becomes DONE, the Unpacker's page becomes absent, which the
lanes are told, and the Unpacker chooses again. With a purge pending on the Unpacker's page the end is taken with the
purge, by PURGE_COMPLETE (notes/assumptions/8.md). -/
def endSegment (g : Segment) (s : State) : State :=
  if purgeWaits s then { s with unpacker := .working g .applied }
  else
    takeWork s.unpackerPage.isSome (markDone g.offset { s with unpacker := .idle, unpackerPage := none })

/-- A segment refused with a notice (R43). -/
def refuseSegment (k : NoticeKind) (g : Segment) (detail : Nat) (s : State) : State :=
  endSegment g (notice k g detail s)

/-- A stall entered (R63), with its one notice. -/
def enterStall (g : Segment) (c : StallCause) (o : Option OpenFields) (s : State) : State :=
  notice .stall g c.code { s with unpacker := .stalled g c o true }

/-- A recount of tiles after a change, with the announcement of a count that falls (R77, R17). The lanes take it before
the segment ends, and so find the page the Unpacker's: DESIGN CHOICE, as no rule says when a lane's load request comes,
notes/assumptions/41.md. -/
def recountTell (f : Nat) (tiles : List (Nat × Nat)) (before after : State) : State :=
  announceIf (countFell f tiles before after) (recount f tiles before after)

/-! ## Claims and deferral -/

/-- A landed entry placed on its page's deferred list, in ring order (R16, R47). -/
def deferOn (f o : Nat) (s : State) : State :=
  modPage f (fun p => { p with
    deferred := (s.landed.map fun e => e.seg.offset).filter fun x => x == o || p.deferred.contains x }) s

/-- A revision segment whose claim is refused (R47): deferred, or a DEFERRAL stall when the list holds 8. -/
def deferSegment (g : Segment) (f : Nat) (s : State) : State :=
  match s.page f with
  | some p =>
    if p.deferred.length < 8 then
      takeWork false (deferOn f g.offset (setEntry g.offset .deferred { s with unpacker := .idle }))
    else enterStall g .deferral none s
  | none => s

/-- Steps 2 to 4 of R43 for the entry in hand, up to the claim or to the end. `apply` is the kind's own rule. -/
def claimThen (g : Segment) (upTo : SegPart) (apply : Segment → Nat → State → State) (s : State) : State :=
  match headerClaim s g.header with
  | .outOfPlace => refuseSegment .outOfPlace g 0 s
  | .refused f => deferSegment g f s
  | .granted f =>
    match upTo with
    | .claim => grantClaim g f s
    | .whole => apply g f (grantClaim g f s)

/-- The command of a segment kind with a claim (R43): the entry in hand is handled if it is of that kind. -/
def handleKind (kind : Byte) (upTo : SegPart) (apply : Segment → Nat → State → State) (s : State) : State :=
  match s.unpacker with
  | .working g .taken => if g.header.kind = kind then claimThen g upTo apply s else s
  | .working g .claimed =>
    if g.header.kind = kind ∧ upTo = .whole then
      match s.unpackerPage with
      | some f => apply g f s
      | none => s
    else s
  | _ => s

/-! ## PAGE OPEN -/

/-- A new page record (R2): what R20 and R48 have in common. -/
def newPage (k : Key) (st : PageState) (loc : Bool) (tw th slot : Nat) (strip : StripState) (clock : Tick) : Page where
  key := k
  state := st
  localFlag := loc
  tw := tw
  th := th
  screenSlot := slot
  version := 1
  lockCount := 0
  strips := List.replicate (th * 16) strip
  tiles := List.replicate (tw * th) ⟨false, false⟩
  damaged := 0
  photos := []
  photoFill := 0
  deferred := []
  purgePending := none
  openStamp := clock
  closeStamp := none

/-- Whether tw and th are in range, and the key can name a page (R1, R2, R20, R48). -/
def sizeAndKeyGood (tw th : Nat) (k : Key) : Bool :=
  decide (1 ≤ tw ∧ tw ≤ 64 ∧ 1 ≤ th ∧ th ≤ 128 ∧ k.page ≠ 0 ∧ k.separation.toNat ≤ 3)

/-- The creation request decided by the page table (R48, R49); `stalled` says that the segment is in a FRAMES stall
already, which then continues with no further notice. -/
def createRequest (g : Segment) (o : OpenFields) (stalled : Bool) (s : State) : State :=
  if (s.findPage g.header.key).isSome then refuseSegment .duplicatePage g 0 s
  else
    match s.freeFrame with
    | none => if stalled then s else enterStall g .frames (some o) s
    | some f =>
      endSegment g
        { setPage f (some (newPage g.header.key .opened false o.tw o.th o.slot .absent s.clock)) s with
          unpackerPage := some f }

/-- The payload fields of a PAGE OPEN (R48). -/
def openFields (s : State) (g : Segment) : OpenFields where
  tw := (byteAt (payloadOf s g) 0).toNat
  th := (byteAt (payloadOf s g) 1).toNat
  slot := (byteAt (payloadOf s g) 2).toNat

/-- Case 3 of R48: the payload's length and fields and the key. -/
def openGood (s : State) (g : Segment) : Bool :=
  decide (g.header.length = 3) && sizeAndKeyGood (openFields s g).tw (openFields s g).th g.header.key &&
    decide ((openFields s g).slot ≤ 3)

/-- Cases 2 to 4 of R48, from the payload read. -/
def openRead (g : Segment) (upTo : SegPart) (s : State) : State :=
  if !crcGood s g then refuseSegment .crc g 0 s
  else if !openGood s g then refuseSegment .outOfPlace g 0 s
  else
    match upTo with
    | .claim => { s with unpacker := .working g (.judged (openFields s g)) }
    | .whole => createRequest g (openFields s g) false s

/-- Cases 1 to 4 of R48 for a PAGE OPEN taken up: once case 1 is passed the payload's reads may wait, and case 1 is not
tested again. -/
def openTaken (g : Segment) (upTo : SegPart) (s : State) : State :=
  if (s.findPage g.header.key).isSome then refuseSegment .duplicatePage g 0 s
  else whenRead g 0 (openRead g upTo) { s with unpacker := .working g .opening }

/-- PAGE OPEN handled (R48). -/
def handleOpen (upTo : SegPart) (s : State) : State :=
  match s.unpacker with
  | .working g .taken => if g.header.kind = kindPageOpen then openTaken g upTo s else s
  | .working g .opening => whenRead g 0 (openRead g upTo) s
  | .working g (.judged o) => if upTo = .whole then createRequest g o false s else s
  | _ => s

/-- The end of a FRAMES stall (R49): the creation request again. -/
def framesStallEnd (s : State) : State :=
  match s.unpacker with
  | .stalled g .frames (some o) _ => createRequest g o true s
  | _ => s

/-! ## STRIP -/

/-- A row of a strip or page written as 32-byte pieces, one in each tile of its tile row (R7, R52). -/
def writePageRow (f tw y : Nat) (bytes : List Byte) (s : State) : State :=
  (List.range tw).foldl
    (fun t tx => writeWords (frameBase f + spanOffset tw tx y) ((bytes.drop (32 * tx)).take 32) t) s

/-- Decoded rows written from a page row on (R52). -/
def writePageRows (f tw : Nat) : Nat → List (List Bool) → State → State
  | _, [], s => s
  | y, r :: rs, s => writePageRows f tw (y + 1) rs (writePageRow f tw y (rowBytes r) s)

/-- A strip state changed, and the tiles of its tile row recounted (R52, R70, R77). -/
def changeStrip (f tw k : Nat) (v : StripState) (s : State) : State :=
  recountTell f (rowTiles tw (k / 16)) s (setStrip f k v s)

/-- A STRIP whose CRC is good (R52): the rows it completes are written, and its strip is BAD after a decode error and
GOOD otherwise. -/
def writeStrip (g : Segment) (f : Nat) (p : Page) (s : State) : State :=
  let k := g.header.locator
  let r := lineDecode (p.tw * 256) 16 (payloadOf s g)
  let s1 := writePageRows f p.tw (16 * k) r.rows s
  if r.error then refuseSegment .decode g r.rows.length (changeStrip f p.tw k .bad s1)
  else endSegment g (changeStrip f p.tw k .good s1)

/-- The fewest writes of a STRIP (R52, R156): its completed rows, each as tw pieces, once its CRC is good
(notes/assumptions/44.md). -/
def stripWrites (g : Segment) (p : Page) (s : State) : Nat :=
  if crcGood s g then (lineDecode (p.tw * 256) 16 (payloadOf s g)).rows.length * p.tw else 0

/-- STRIP applied (R52). -/
def applyStrip (g : Segment) (f : Nat) (s : State) : State :=
  match s.page f with
  | none => endSegment g s
  | some p =>
    whenRead g (stripWrites g p s) (fun t =>
      if !crcGood t g then
        refuseSegment .crc g 0
          (if p.strips.getD g.header.locator .absent = .absent then changeStrip f p.tw g.header.locator .bad t else t)
      else writeStrip g f p t) s

/-! ## Photos -/

/-- A version's next value: after 4,294,967,295 comes 1 (R10). -/
def nextVersion (v : Count) : Count := if v = BitVec.allOnes 32 then 1 else v + 1

/-- The version raised for a revision segment applied to a CLOSED page (R10, R62). -/
def reviseIfClosed (f : Nat) (s : State) : State :=
  modPage f (fun p => if p.state = .closed then { p with version := nextVersion p.version } else p) s

/-- The photo record of an index (R8). -/
def Page.photo (p : Page) (i : Nat) : Option PhotoRecord := p.photos.find? fun r => r.index == i

/-- A photo record put into the list, in index order, in place of the one of its index. -/
def putPhoto (r : PhotoRecord) : List PhotoRecord → List PhotoRecord
  | [] => [r]
  | q :: qs => if r.index < q.index then r :: q :: qs else if r.index = q.index then r :: qs else q :: putPhoto r qs

/-- A photo's rectangle as tiles. -/
def PhotoRecord.tiles (r : PhotoRecord) : List (Nat × Nat) := rectTiles r.tx0 r.ty0 r.w r.h

/-- Whether two rectangles share a tile (R53). -/
def PhotoRecord.shares (r q : PhotoRecord) : Bool :=
  decide (r.tx0 < q.tx0 + q.w ∧ q.tx0 < r.tx0 + r.w ∧ r.ty0 < q.ty0 + q.h ∧ q.ty0 < r.ty0 + r.h)

/-- The record a PHOTO HEAD asks for (R53): its payload's rectangle and scale, base offset to be given. -/
def headRecord (s : State) (g : Segment) : PhotoRecord where
  index := g.header.locator
  tx0 := (byteAt (payloadOf s g) 0).toNat
  ty0 := (byteAt (payloadOf s g) 1).toNat
  w := (byteAt (payloadOf s g) 2).toNat
  h := (byteAt (payloadOf s g) 3).toNat
  scale := if byteAt (payloadOf s g) 4 = 0 then 4 else 8
  base := 0
  nextRow := 0
  state := .receiving

/-- Step 2 of R53: the payload's length, scale code and rectangle. -/
def headGood (s : State) (g : Segment) (p : Page) : Bool :=
  let r := headRecord s g
  decide (g.header.length = 5 ∧ (byteAt (payloadOf s g) 4).toNat ≤ 1 ∧ 1 ≤ r.w ∧ 1 ≤ r.h
    ∧ r.tx0 + r.w ≤ p.tw ∧ r.ty0 + r.h ≤ p.th)

/-- A photo record put in place, the PHOTO flags of its rectangle cleared, the version raised on a CLOSED page, and the
tiles recounted (R53, R62). `fill` is the photo fill afterwards. -/
def placePhoto (f : Nat) (r : PhotoRecord) (fill : Nat) (s : State) : State :=
  recountTell f r.tiles s
    (reviseIfClosed f
      (setPhotoFlags f false r.tiles
        (modPage f (fun p => { p with photos := putPhoto r p.photos, photoFill := fill }) s)))

/-- No room for a photo (R54): its tiles' PHOTO flags are set, with a PHOTO SPACE notice. -/
def refusePhoto (g : Segment) (f : Nat) (r : PhotoRecord) (s : State) : State :=
  refuseSegment .photoSpace g (photoSize r.w r.h r.scale)
    (recountTell f r.tiles s (reviseIfClosed f (setPhotoFlags f true r.tiles s)))

/-- Steps 3 to 5 of R53 for the record a PHOTO HEAD asks for: a reset, a creation, no room (R54), or a refusal. -/
def takePhoto (g : Segment) (f : Nat) (p : Page) (r : PhotoRecord) (s : State) : State :=
  match p.photo r.index with
  | some q =>
    if q.tx0 = r.tx0 ∧ q.ty0 = r.ty0 ∧ q.w = r.w ∧ q.h = r.h ∧ q.scale = r.scale then
      endSegment g (placePhoto f { r with base := q.base } p.photoFill s)
    else refuseSegment .outOfPlace g 0 s
  | none =>
    if p.photos.any (r.shares ·) then refuseSegment .outOfPlace g 0 s
    else if photoAreaSize < p.photoFill + photoSize r.w r.h r.scale then refusePhoto g f r s
    else endSegment g (placePhoto f { r with base := p.photoFill } (p.photoFill + photoSize r.w r.h r.scale) s)

/-- PHOTO HEAD applied (R53, R54). -/
def applyPhotoHead (g : Segment) (f : Nat) (s : State) : State :=
  match s.page f with
  | none => endSegment g s
  | some p =>
    whenRead g 0 (fun t =>
      if !crcGood t g then refuseSegment .crc g 0 t
      else if !headGood t g p then refuseSegment .outOfPlace g 0 t
      else takePhoto g f p (headRecord t g) t) s

/-- The tiles touched by the missing sample rows `a` to `b - 1` of a photo (R57). -/
def missingTiles (r : PhotoRecord) (a b : Nat) : List (Nat × Nat) :=
  rectTiles r.tx0 (r.ty0 + a * r.scale / 256) r.w ((b * r.scale - 1) / 256 + 1 - a * r.scale / 256)

/-- Missing sample rows flagged, if there are any (R57). -/
def flagMissing (f : Nat) (r : PhotoRecord) (a b : Nat) (s : State) : State :=
  if a < b then recount f (missingTiles r a b) s (setPhotoFlags f true (missingTiles r a b) s) else s

/-- Completed sample rows written from a row on (R55): whole rows of the photo's width. -/
def writeSampleRows (f : Nat) (r : PhotoRecord) (first : Nat) (samples : List Byte) (s : State) : State :=
  writeWords (photoBase f + r.base + first * photoWidth r.w r.scale)
    (samples.take (samples.length / photoWidth r.w r.scale * photoWidth r.w r.scale)) s

/-- A photo record's next row moved, and COMPLETE at the height (R56). -/
def advancePhoto (r : PhotoRecord) (next : Nat) : PhotoRecord :=
  { r with nextRow := next, state := if photoHeight r.h r.scale ≤ next then .complete else .receiving }

/-- Steps 4 to 6 of R56 for a PHOTO PART whose CRC is good. The lanes take the announcement of a COMPLETE photo (R17),
and give their HELD notices, before a DECODE notice of the segment is given: the model's choice, as no rule orders
reports of different blocks (R170), notes/assumptions/40.md. -/
def applyRows (g : Segment) (f : Nat) (r : PhotoRecord) (s : State) : State :=
  let first := g.header.arg
  let width := photoWidth r.w r.scale
  let d := toneDecode ((photoHeight r.h r.scale - first) * width) (payloadOf s g)
  let rows := d.samples.length / width
  let r1 := advancePhoto r (first + rows)
  let s1 := modPage f (fun p => { p with photos := putPhoto r1 p.photos })
    (writeSampleRows f r first d.samples (flagMissing f r r.nextRow first s))
  let s2 := announceIf (r1.state == .complete) s1
  if d.error then refuseSegment .decode g rows s2 else endSegment g s2

/-- The record a PHOTO PART goes on with, if neither case 1 nor case 2 of R56 refuses it: the one of its index, not
COMPLETE, that expects the part's first row or one before it. -/
def Page.partRecord (p : Page) (h : SegHeader) : Option PhotoRecord :=
  (p.photo h.locator).filter fun r =>
    r.state != .complete && decide (r.nextRow ≤ h.arg ∧ h.arg < photoHeight r.h r.scale)

/-- How many sample rows a PHOTO PART completes (R55). -/
def partRows (g : Segment) (r : PhotoRecord) (s : State) : Nat :=
  (toneDecode ((photoHeight r.h r.scale - g.header.arg) * photoWidth r.w r.scale) (payloadOf s g)).samples.length /
    photoWidth r.w r.scale

/-- The fewest writes of a PHOTO PART (R55, R156): its completed rows, in accesses of at most 8 words, once its CRC is
good (notes/assumptions/44.md). -/
def partWrites (g : Segment) (r : PhotoRecord) (s : State) : Nat :=
  if crcGood s g then partRows g r s * ((photoWidth r.w r.scale + 63) / 64) else 0

/-- PHOTO PART applied (R56). -/
def applyPhotoPart (g : Segment) (f : Nat) (s : State) : State :=
  match s.page f with
  | none => endSegment g s
  | some p =>
    match p.partRecord g.header with
    | none => refuseSegment .outOfPlace g 0 s
    | some r => whenRead g (partWrites g r s) (fun t => if !crcGood t g then refuseSegment .crc g 0 t else applyRows g f r t) s

/-! ## PAGE CLOSE -/

/-- A RECEIVING photo ended at a close (R58 step 2): its missing rows are flagged and it becomes COMPLETE. -/
def endPhoto (f : Nat) (s : State) (r : PhotoRecord) : State :=
  if r.state = .receiving then
    modPage f (fun p => { p with
        photos := putPhoto { r with nextRow := photoHeight r.h r.scale, state := .complete } p.photos })
      (flagMissing f r r.nextRow (photoHeight r.h r.scale) s)
  else s

/-- Step 2 of R58: every RECEIVING photo, by index. -/
def endPhotos (f : Nat) (p : Page) (s : State) : State := p.photos.foldl (endPhoto f) s

/-- Step 1 of R58: every strip that is ABSENT becomes BAD. -/
def endStrips (f : Nat) (p : Page) (s : State) : State :=
  recount f (allTiles p.tw p.th) s
    (modPage f (fun q => { q with strips := q.strips.map fun v => if v = .absent then .bad else v }) s)

/-- A page report from the page of a frame as it stands. -/
def submitFor (f : Nat) (r : Page → Report) (s : State) : State :=
  match s.page f with
  | some p => submit (r p) s
  | none => s

/-- PAGE CLOSE of an OPEN page (R58). -/
def closePage (f : Nat) (p : Page) (s : State) : State :=
  announce
    (submitFor f (pageClosedReport 0 f)
      (modPage f (fun q => { q with state := .closed, closeStamp := some s.clock }) (endPhotos f p (endStrips f p s))))

/-- PAGE CLOSE of a CLOSED page: the end of a revision (R59). The lanes are told of photos that became COMPLETE. -/
def endRevision (f : Nat) (p : Page) (s : State) : State :=
  announceIf (p.photos.any fun r => r.state == .receiving)
    (submitFor f (pageRevisedReport f) (endPhotos f p s))

/-- PAGE CLOSE applied (R58, R59). -/
def applyPageClose (g : Segment) (f : Nat) (s : State) : State :=
  match s.page f with
  | none => endSegment g s
  | some p =>
    whenRead g 0 (fun t =>
      if !crcGood t g then refuseSegment .crc g 0 t
      else if p.state = .opened then endSegment g (closePage f p t)
      else endSegment g (endRevision f p t)) s

/-! ## REMAKE TILE -/

/-- The first slot not in use at or after a number, going round the pool, among the next `n` (R65). -/
def firstFree (used : List Nat) : Nat → Nat → Option Nat
  | 0, _ => none
  | n + 1, i => if used.contains (i % poolSlots) then firstFree used n (i + 1) else some (i % poolSlots)

/-- The slot the pool gives out next (R65). -/
def State.nextSlot (s : State) : Option Nat := firstFree s.slotsInUse poolSlots s.slotPointer

/-- A slot given out: marked in use, and the slot pointer moved past it (R64, R65). -/
def takeSlot (n : Nat) (s : State) : State :=
  { s with slotsInUse := insertSorted n s.slotsInUse, slotPointer := (n + 1) % poolSlots }

/-- Decoded rows written into a slot from a row on (R61, R64). -/
def writeSlotRows (n : Nat) : Nat → List (List Bool) → State → State
  | _, [], s => s
  | y, r :: rs, s => writeSlotRows n (y + 1) rs (writeWords (slotBase n + 32 * y) (rowBytes r) s)

/-- The patch table after a remake succeeds (R67): the tile's entry moved to the new slot, or made. -/
def putPatch (f tx ty n : Nat) (patches : List PatchEntry) : List PatchEntry :=
  match findPatch patches f tx ty with
  | some _ =>
    patches.map fun e => if e.frame = f ∧ e.tx = tx ∧ e.ty = ty then { e with slot := n, spoilt := false } else e
  | none => patches ++ [⟨f, tx, ty, n, false⟩]

/-- The old slot of a tile's entry freed (R67). -/
def freeOld (f tx ty : Nat) (s : State) : State :=
  match findPatch s.patches f tx ty with
  | some e => freeSlots [e.slot] s
  | none => s

/-- A remake's success (R61, R67): the entry, the slots, the version and the recount, in one event. -/
def acceptRemake (f tx ty n : Nat) (s : State) : State :=
  recountTell f [(tx, ty)] s
    (modPage f (fun p => { p with version := nextVersion p.version })
      { freeOld f tx ty s with patches := putPatch f tx ty n s.patches })

/-- How many bytes of a segment's payload come before the first word that gives no data (R155). -/
def readable (s : State) (g : Segment) : Nat :=
  match segmentError s g with
  | some k => min g.header.length (8 * k - (g.offset + 16) % 8)
  | none => g.header.length

/-- Whether a word of a segment's payload has an uncorrectable error, and so gives no data (R155). -/
def payloadBad (s : State) (g : Segment) : Bool := decide (readable s g < g.header.length)

/-- The payload bytes before the first word that gives no data (R155). -/
def readableBytes (s : State) (g : Segment) : List Byte := (payloadOf s g).take (readable s g)

/-- The bytes that a remake's decoder takes (R61). No rule says what it decodes in place of a payload word that gives
no data, whether nothing or anything: those bytes are free (R155, notes/assumptions/34.md). -/
def remakeBytes (s : State) (g : Segment) : List Byte :=
  if payloadBad s g then readableBytes s g ++ Config.afterError s.free else payloadOf s g

/-- A remake decoded into the slot taken for it, and settled (R61). -/
def decodeRemake (g : Segment) (f n : Nat) (s : State) : State :=
  let r := lineDecode 256 256 (remakeBytes s g)
  let s1 := writeSlotRows n 0 r.rows (if payloadBad s g then useFree s else s)
  if !crcGood s g then refuseSegment .crc g 0 (freeSlots [n] s1)
  else if r.error then refuseSegment .decode g r.rows.length (freeSlots [n] s1)
  else endSegment g (acceptRemake f g.header.locator g.header.arg n s1)

/-- The slot a remake of a tile may take (R60): a free slot, when the tile has an entry or the table has a place. -/
def remakeSlot (s : State) (f tx ty : Nat) : Option Nat :=
  if (findPatch s.patches f tx ty).isSome ∨ s.patches.length < 4000 then s.nextSlot else none

/-- The fewest writes of a remake (R61, R156): its completed rows, each one access, whatever its CRC
(notes/assumptions/44.md). -/
def remakeWrites (g : Segment) (s : State) : Nat := (lineDecode 256 256 (remakeBytes s g)).rows.length

/-- A remake whose two needs are met (R60): its slot is taken and in use from now on, before the payload is read, and a
stall is over; the payload is read and decoded once the memory port grants the reads (R61, R156). -/
def beginRemake (g : Segment) (f n : Nat) (s : State) : State :=
  whenRead g (remakeWrites g s) (decodeRemake g f n) { takeSlot n s with unpacker := .working g (.decoding n) }

/-- The test of R60 for a remake of the Unpacker's page, which begins it or abandons it for a pending purge; `lacking`
is what follows when a place is lacking and no purge is pending. -/
def tryRemake (g : Segment) (f : Nat) (lacking s : State) : State :=
  match remakeSlot s f g.header.locator g.header.arg with
  | some n => beginRemake g f n s
  | none => if purgeWaits s then endSegment g s else lacking

/-- REMAKE TILE applied (R60, R61): with a place lacking it stalls. -/
def applyRemake (g : Segment) (f : Nat) (s : State) : State :=
  if (s.page f).isSome then tryRemake g f (enterStall g .patches none s) s else endSegment g s

/-- REMAKE TILE handled (R60, R61): one whose slot is taken goes on to its end, and any other as every claim. -/
def handleRemake (upTo : SegPart) (s : State) : State :=
  match s.unpacker, s.unpackerPage with
  | .working g (.decoding n), some f => if upTo = .whole then whenRead g (remakeWrites g s) (decodeRemake g f n) s else s
  | _, _ => handleKind kindRemake upTo applyRemake s

/-- The end of a PATCHES stall (R60): the test again, the stall continuing with no further notice if it fails. With its
needs met the remake takes its slot, whether its reads are granted or wait, and is no longer stalled. -/
def patchesStallEnd (s : State) : State :=
  match s.unpacker, s.unpackerPage with
  | .stalled g .patches _ _, some f => if (s.page f).isSome then tryRemake g f s s else s
  | _, _ => s

/-! ## Reading ahead of the segment's command -/

/-- Whether the payload's reading comes next for a segment with its claim granted (R43): not for a REMAKE TILE, which
needs its slot first (R60), nor for a PHOTO PART that is refused before it (R56). -/
def payloadNext (s : State) (g : Segment) : Bool :=
  match s.unpackerPage.bind s.page with
  | some p => g.header.kind != kindRemake && (g.header.kind != kindPhotoPart || (p.partRecord g.header).isSome)
  | none => false

/-- The segment in hand whose payload the Unpacker is to read next (R43, R44). -/
def payloadInHand (s : State) : Option Segment :=
  match s.unpacker with
  | .working _ .taken => none
  | .working g .opening => some g
  | .working g .claimed => if payloadNext s g then some g else none
  | .working g (.decoding _) => some g
  | .working _ (.judged _) => none
  | .working _ .applied => none
  | .idle => none
  | .stalled _ _ _ _ => none

/-- The words of the payload and trailer that the Unpacker is to read (R44); none without such a segment. -/
def payloadWords (s : State) : List Nat :=
  match payloadInHand s with
  | some g => segmentWords g
  | none => []

/-- Whether the Unpacker has words of a payload or trailer still to read (R43, R44). -/
def unpackerReads (s : State) : Bool := decide (s.payloadRead.words < (payloadWords s).length)

/-- The grant of the Unpacker's request (R156): the words it asks for are read. -/
def grantPayload (s : State) : State :=
  { s.served .unpacker with payloadRead := s.payloadRead.granted (payloadWords s) s }

/-! ## Other kinds and the DEFERRAL stall -/

/-- Whether a DEFERRAL stall on a page's key ends: the page no longer has a lock count above 0 (R47). -/
def deferralOver (s : State) (k : Key) : Bool :=
  match s.present k with
  | some (_, p) => p.lockCount == 0
  | none => true

/-- The end of a DEFERRAL stall (R47): the entry, still LANDED, returns to the candidates, and the Unpacker chooses. -/
def deferralStallEnd (s : State) : State :=
  match s.unpacker with
  | .stalled g .deferral _ _ =>
    if deferralOver s g.header.key then takeWork false { s with unpacker := .idle } else s
  | _ => s

/-- A segment that ends at its kind (R43 step 1), with or without a notice (R45). -/
def handlePlain (isKind : Byte → Bool) (tell : Segment → State → State) (s : State) : State :=
  match s.unpacker with
  | .working g .taken => if isKind g.header.kind then endSegment g (tell g s) else s
  | _ => s

/-- Whether a kind is undefined: 0 or 8 to 255 (R45). -/
def unknownKindCode (k : Byte) : Bool := decide (k.toNat = 0 ∨ 8 ≤ k.toNat)

/-! ## The commands -/

/-- FILLER (R45). -/
def execFiller (s : State) : Host.Outcome State Fault Refusal :=
  .next (handlePlain (fun k => k == kindFiller) (fun _ t => t) s)

/-- UNKNOWN_KIND (R45). -/
def execUnknownKind (s : State) : Host.Outcome State Fault Refusal :=
  .next (handlePlain unknownKindCode (fun g t => notice .unknownKind g g.header.kind.toNat t) s)

/-- PAGE_OPEN (R48). -/
def execPageOpen (upTo : SegPart) (s : State) : Host.Outcome State Fault Refusal := .next (handleOpen upTo s)

/-- FRAMES_STALL_END (R49). -/
def execFramesStallEnd (s : State) : Host.Outcome State Fault Refusal := .next (framesStallEnd s)

/-- STRIP (R52). -/
def execStrip (upTo : SegPart) (s : State) : Host.Outcome State Fault Refusal :=
  .next (handleKind kindStrip upTo applyStrip s)

/-- PHOTO_HEAD (R53). -/
def execPhotoHead (upTo : SegPart) (s : State) : Host.Outcome State Fault Refusal :=
  .next (handleKind kindPhotoHead upTo applyPhotoHead s)

/-- PHOTO_PART (R56). -/
def execPhotoPart (upTo : SegPart) (s : State) : Host.Outcome State Fault Refusal :=
  .next (handleKind kindPhotoPart upTo applyPhotoPart s)

/-- PAGE_CLOSE (R58, R59). -/
def execPageClose (upTo : SegPart) (s : State) : Host.Outcome State Fault Refusal :=
  .next (handleKind kindPageClose upTo applyPageClose s)

/-- REMAKE_TILE (R60, R61). -/
def execRemakeTile (upTo : SegPart) (s : State) : Host.Outcome State Fault Refusal :=
  .next (handleRemake upTo s)

/-- PATCHES_STALL_END (R60). -/
def execPatchesStallEnd (s : State) : Host.Outcome State Fault Refusal := .next (patchesStallEnd s)

/-- DEFERRAL_STALL_END (R47). -/
def execDeferralStallEnd (s : State) : Host.Outcome State Fault Refusal := .next (deferralStallEnd s)

end Sys2Proof.Machine
end

