-- ==== Sys2Proof/Machine/Orders.lean ====
section
/-! DEFINITION. Orders: the order chute and assembler (R152), the executor (R153, R154), and each order but RELOAD PROFILE
(R18 to R21, R110, R116, R125, R145). -/

namespace Sys2Proof.Machine

/-! ## The executor -/

/-- The idle executor takes the oldest order (R153). -/
def takeOrder (s : State) : State :=
  match s.inHand, s.orderQueue with
  | none, o :: os => { s with inHand := some o, orderQueue := os }
  | _, _ => s

/-- The order in hand is answered or set waiting: the executor is idle and takes the next (R153). -/
def finishOrder (s : State) : State := takeOrder { s with inHand := none }

/-- An order answered with no detail (R154). -/
def answer (o : Order) (oc : OrderOutcome) (s : State) : State := submit (orderDone o oc 0 0) s

/-- An order command: the order in hand is decided if it is of the kind (R153), and the executor goes on. `decideIt`
is the owner's rule, with the order's answer and what follows it. -/
def handleOrder (kind : Byte) (decideIt : Order → State → State) (s : State) : State :=
  match s.inHand with
  | some o => if o.kind = kind then finishOrder (decideIt o s) else s
  | none => s

/-! ## The order chute -/

/-- A complete record moved to the tail of the order queue (R152, R158), where the idle executor may take it. -/
def queueRecord (s : State) : State :=
  takeOrder { s with orderQueue := s.orderQueue ++ [orderOf s.assembly], assembly := [] }

/-- Bytes of a write placed in the assembly buffer (R152), up to a complete record that finds the queue full: the
bytes not taken, and the state. -/
def assembleBytes : List Byte → State → List Byte × State
  | [], s => ([], s)
  | b :: bs, s =>
    if s.assembly.length + 1 < 32 then assembleBytes bs { s with assembly := s.assembly ++ [b] }
    else if s.orderQueue.length < 32 then assembleBytes bs (queueRecord { s with assembly := s.assembly ++ [b] })
    else (bs, { s with assembly := s.assembly ++ [b] })

/-- The end of a write's turn at the order chute (R152): it completes with OK, or is held while a complete record
waits for the queue. -/
def settleOrder (a : Addr) (rest : List Byte) (s : State) : State :=
  if s.assembly.length < 32 then respond .ok { s with held := none }
  else { s with held := some ⟨.order, a, rest, s.clock⟩ }

/-- Bytes of an order write offered to the assembler (R152). -/
def offerOrder (a : Addr) (bs : List Byte) (s : State) : State :=
  let r := assembleBytes bs s
  settleOrder a r.1 r.2

/-- An order write with enabled bytes, taken in ACTIVE (R152). -/
def orderWrite (a : Addr) (be : Enables) (d : Beat) (s : State) : State := offerOrder a (enabledBytes be d) s

/-- The bytes of the order write that the port holds. -/
def heldOrder (s : State) : Option HeldWrite :=
  match s.held with
  | some h => if h.chute = .order then some h else none
  | none => none

/-- ORDER_RECORD_QUEUED's effect (R152): the waiting record enters the queue and the held write continues. -/
def recordQueued (s : State) : State :=
  match heldOrder s with
  | some h =>
    if s.assembly.length = 32 ∧ s.orderQueue.length < 32 then offerOrder h.addr h.rest (queueRecord s) else s
  | none => s

/-- ORDER_HOLD_TIMEOUT's effect (R152): an error response, the assembly buffer emptied, and an ACCESS report. -/
def orderTimeout (s : State) : State :=
  match heldOrder s with
  | some h =>
    if holdExpired s .order then
      submit (accessReport 7 h.addr.toNat (s.assembly.length + h.rest.length) 0)
        (respond .error { s with held := none, assembly := [] })
    else s
  | none => s

/-! ## Plates -/

/-- The allowance an order gives, clamped to 1 to 3 (R116). -/
def clampAllowance (a : Byte) : Nat := max 1 (min 3 a.toNat)

/-- The record of an accepted plate (R114, R116). -/
def newPlate (o : Order) (l : LaneId) : Plate where
  tag := o.tag
  key := o.key
  lane := l
  allowance := clampAllowance o.allowance
  attempt := 1
  rush := o.rush
  release := o.release
  latestStart := o.latestStart
  lateReported := false
  returned := false
  state := .queued
  held := none
  spoil := none
  withdrawPending := false
  version := none
  generation := none

/-- The lane a byte names, if it is 0 to 3. -/
def laneOf (b : Byte) : Option LaneId := if h : b.toNat < 4 then some ⟨b.toNat, h⟩ else none

/-- A plate accepted (R116): its record is placed (R118), the order answered, lateness tested (R121), and the lane
chooses (R119). -/
def acceptPlate (o : Order) (l : LaneId) (s : State) : State :=
  choose l
    (lateTest l o.tag
      (submit (orderDone o .accepted (clampAllowance o.allowance) 0)
        (modLane l (fun L => { L with queue := placePlate (newPlate o l) L.queue }) s)))

/-- QUEUE PLATE decided by the lane queues (R116). -/
def decideQueue (o : Order) (s : State) : State :=
  match laneOf o.lane with
  | none => answer o .badField s
  | some l =>
    if (s.findPage o.key).isNone then answer o .noPage s
    else if (s.findPlate o.tag).isSome then answer o .duplicateTag s
    else if 16 ≤ (s.lane l).queue.length then answer o .queueFull s
    else acceptPlate o l s

/-- WITHDRAW PLATE of a plate in LOADING (R125): rows and context dropped, the outcome, the answer, then what the freed
back place and the released lock set off. -/
def withdrawLoading (o : Order) (l : LaneId) (p : Plate) (s : State) : State :=
  let s1 := endPlate p .withdrawnByOrder (dropBack l s)
  settleLocks s s1 (choose l (answer o .withdrawn s1))

/-- WITHDRAW PLATE decided by the lane queues for a live plate (R125). -/
def withdrawLive (o : Order) (l : LaneId) (p : Plate) (s : State) : State :=
  if p.withdrawPending then answer o .busy s
  else
    match p.state with
    | .queued => answer o .withdrawn (endPlate p .withdrawnByOrder s)
    | .loading => withdrawLoading o l p s
    | .exposing => cancelFront p (modPlate l p.tag (fun x => { x with withdrawPending := true }) s)
    | .finishing => cancelFront p (modPlate l p.tag (fun x => { x with withdrawPending := true }) s)
    | .cancelling => modPlate l p.tag (fun x => { x with withdrawPending := true }) s

/-- WITHDRAW PLATE decided (R125). -/
def decideWithdraw (o : Order) (s : State) : State :=
  match s.findPlate o.tag with
  | none => answer o .noPlate s
  | some (l, p) => withdrawLive o l p s

/-! ## Pages -/

/-- The segment of a PATCHES stall on the page of a frame (R18). -/
def stalledOn (s : State) (f : Nat) : Option Segment :=
  if s.unpackerPage = some f then
    match s.unpacker with
    | .stalled g .patches _ _ => some g
    | _ => none
  else none

/-- A purge that abandons a PATCHES stall on the page (R18): the segment ends with no change, the purge completes at
once, then the lanes are told and the Unpacker chooses again (R14). -/
def purgeStalled (o : Order) (f : Nat) (g : Segment) (s : State) : State :=
  takeWork true
    (completePurge o.key f o.tag (markDone g.offset { s with unpacker := .idle, unpackerPage := none }))

/-- PURGE PAGE decided by the page table (R18). -/
def decidePurge (o : Order) (s : State) : State :=
  match s.present o.key with
  | none => answer o .noPage s
  | some (f, p) =>
    if 0 < p.lockCount then answer o .busy s
    else if p.purgePending.isSome then answer o .busy s
    else
      match stalledOn s f with
      | some g => purgeStalled o f g s
      | none =>
        if s.unpackerPage = some f then modPage f (fun q => { q with purgePending := some o.tag }) s
        else completePurge o.key f o.tag s

/-- A purge that waited for its segment completes (R14, R19): the entry becomes DONE, the Unpacker's page becomes
absent, the purge is done, the lanes are told, and the Unpacker chooses again. -/
def purgeComplete (s : State) : State :=
  match s.unpacker, s.unpackerPage with
  | .working g .applied, some f =>
    match s.page f with
    | some p =>
      match p.purgePending with
      | some tag =>
        takeWork true
          (completePurge p.key f tag (markDone g.offset { s with unpacker := .idle, unpackerPage := none }))
      | none => s
    | none => s
  | _, _ => s

/-- OPEN LOCAL PAGE decided by the page table (R20). -/
def decideOpenLocal (o : Order) (s : State) : State :=
  if (s.findPage o.key).isSome then answer o .duplicatePage s
  else
    match s.freeFrame with
    | none => answer o .noFrame s
    | some f =>
      if sizeAndKeyGood o.tw.toNat o.th.toNat o.key then
        answer o .done
          (setPage f (some (newPage o.key .localPage true o.tw.toNat o.th.toNat 0 .good s.clock)) s)
      else answer o .badField s

/-- CLOSE LOCAL PAGE decided by the page table (R21); the lanes are told after the answer (R17, R154). -/
def decideCloseLocal (o : Order) (s : State) : State :=
  match s.present o.key with
  | none => answer o .noPage s
  | some (f, p) =>
    if p.state = .localPage then
      announce
        (answer o .done
          (submitFor f (pageClosedReport 1 f)
            (modPage f (fun q => { q with state := .closed, closeStamp := some s.clock }) s)))
    else answer o .noPage s

/-- SET PROOF decided by the proof composer (R110). -/
def decideProof (o : Order) (s : State) : State :=
  if o.key = Key.zero then answer o .done { s with proof := none }
  else
    match s.findPage o.key with
    | some f => answer o .done { s with proof := some (o.key, f) }
    | none => answer o .noPage s

/-! ## Lanes -/

/-- RUN LANE taken by a lane in STOP (R145): the mode and its notice, the answer, then the START test and the lane's
choice. -/
def startRunning (o : Order) (l : LaneId) (s : State) : State :=
  startThenChoose l
    (answer o .done (submit (modeByOrder l .run) (modLane l (fun L => { L with mode := .run }) s)))

/-- RUN LANE decided by the lane controller (R145). -/
def decideRun (o : Order) (s : State) : State :=
  match laneOf o.lane with
  | none => answer o .badField s
  | some l =>
    match (s.lane l).mode with
    | .fault => answer o .linkDown s
    | .stop => startRunning o l s
    | .run => answer o .done s

/-- STOP LANE decided by the lane controller (R145, R120). -/
def decideStop (o : Order) (s : State) : State :=
  match laneOf o.lane with
  | none => answer o .badField s
  | some l =>
    match (s.lane l).mode with
    | .run =>
      answer o .done
        (submit (modeByOrder l .stop) (modLane l (fun L => { L with mode := .stop, lastHeld := none }) s))
    | .stop => answer o .done s
    | .fault => answer o .done s

/-! ## The commands -/

/-- ORDER_RECORD_QUEUED (R152). -/
def execOrderRecordQueued (s : State) : Host.Outcome State Fault Refusal := .next (recordQueued s)

/-- ORDER_HOLD_TIMEOUT (R152). -/
def execOrderHoldTimeout (s : State) : Host.Outcome State Fault Refusal := .next (orderTimeout s)

/-- QUEUE_PLATE (R116). -/
def execQueuePlate (s : State) : Host.Outcome State Fault Refusal := .next (handleOrder 1 decideQueue s)

/-- WITHDRAW_PLATE (R125). -/
def execWithdrawPlate (s : State) : Host.Outcome State Fault Refusal := .next (handleOrder 2 decideWithdraw s)

/-- PURGE_PAGE (R18). -/
def execPurgePage (s : State) : Host.Outcome State Fault Refusal := .next (handleOrder 3 decidePurge s)

/-- PURGE_COMPLETE (R19). -/
def execPurgeComplete (s : State) : Host.Outcome State Fault Refusal := .next (purgeComplete s)

/-- OPEN_LOCAL_PAGE (R20). -/
def execOpenLocalPage (s : State) : Host.Outcome State Fault Refusal := .next (handleOrder 4 decideOpenLocal s)

/-- CLOSE_LOCAL_PAGE (R21). -/
def execCloseLocalPage (s : State) : Host.Outcome State Fault Refusal := .next (handleOrder 5 decideCloseLocal s)

/-- SET_PROOF (R110). -/
def execSetProof (s : State) : Host.Outcome State Fault Refusal := .next (handleOrder 6 decideProof s)

/-- RUN_LANE (R145). -/
def execRunLane (s : State) : Host.Outcome State Fault Refusal := .next (handleOrder 7 decideRun s)

/-- STOP_LANE (R145). -/
def execStopLane (s : State) : Host.Outcome State Fault Refusal := .next (handleOrder 8 decideStop s)

/-- Whether a kind code is none of R153's. -/
def unknownOrderCode (k : Byte) : Bool := decide (k.toNat = 0 ∨ 10 ≤ k.toNat)

/-- An order of an undefined kind answered at once (R153). -/
def unknownOrder (s : State) : State :=
  match s.inHand with
  | some o => if unknownOrderCode o.kind then finishOrder (answer o .unknownOrder s) else s
  | none => s

/-- UNKNOWN_ORDER (R153). -/
def execUnknownOrder (s : State) : Host.Outcome State Fault Refusal := .next (unknownOrder s)

end Sys2Proof.Machine
end

