-- ==== Sys2Proof/Machine/Profile.lean ====
section
/-! DEFINITION. The profile loader: the profile record's layout (R160), the judging of a load (R162), and what a judged
load sets off (R163 to R166, R168). -/

namespace Sys2Proof.Machine

/-! ## The record's fields (R160) -/

/-- The profile record entry of lane `n`. -/
def laneEntry (n : Nat) : Nat := 16 + 8 * n
/-- The profile record entry of screen slot `n`. -/
def slotEntry (n : Nat) : Nat := 48 + 288 * n
/-- The profile record entry of mark `m`. -/
def markEntry (m : Nat) : Nat := 1200 + 16 * m

/-- The levels of lane `n` in a profile record. -/
def levelsOf (bs : List Byte) (n : Nat) : LaneLevels where
  polarity := if byteAt bs (laneEntry n) = 0 then .positive else .negative
  preload := fieldAt bs (laneEntry n + 2) 2
  highWater := fieldAt bs (laneEntry n + 4) 2

/-- Screen slot `n` of a profile record. -/
def slotOf (bs : List Byte) (n : Nat) : ScreenSlot where
  a := (byteAt bs (slotEntry n)).toNat
  b := (byteAt bs (slotEntry n + 1)).toNat
  knots := (bs.drop (slotEntry n + 2)).take 17
  thr := (bs.drop (slotEntry n + 32)).take 256

/-- A mark kind's code (R160). -/
def markKindOf (b : Byte) : MarkKind :=
  if b = 1 then .solid else if b = 2 then .cross else if b = 3 then .slug else .off

/-- Mark `m` of a profile record. -/
def markOf (bs : List Byte) (m : Nat) : Mark where
  kind := markKindOf (byteAt bs (markEntry m))
  x := fieldAt bs (markEntry m + 2) 2
  y := fieldAt bs (markEntry m + 4) 2
  w := fieldAt bs (markEntry m + 6) 2
  h := fieldAt bs (markEntry m + 8) 2
  stroke := (byteAt bs (markEntry m + 10)).toNat
  dot := (byteAt bs (markEntry m + 11)).toNat

/-- The latched profile of a record (R161). -/
def profileOf (bs : List Byte) : Profile where
  holdLimit := fieldAt bs 6 2
  generation := BitVec.ofNat 32 (fieldAt bs 8 4)
  levels := ⟨levelsOf bs 0, levelsOf bs 1, levelsOf bs 2, levelsOf bs 3⟩
  slots := ⟨slotOf bs 0, slotOf bs 1, slotOf bs 2, slotOf bs 3⟩
  marks := (List.range 8).map (markOf bs)

/-! ## The field tests (R161, R162) -/

/-- The tests of a lane entry: polarity, preload against the high-water value as stored, high-water. -/
def laneTests (bs : List Byte) (n : Nat) : List (Nat × Bool) :=
  let p := fieldAt bs (laneEntry n + 2) 2
  let h := fieldAt bs (laneEntry n + 4) 2
  [(laneEntry n, decide ((byteAt bs (laneEntry n)).toNat ≤ 1)),
   (laneEntry n + 2, decide (1 ≤ p ∧ p ≤ 256 ∧ p ≤ h)),
   (laneEntry n + 4, decide (16 ≤ h ∧ h ≤ 256))]

/-- The tests of a slot entry: a, b, then not both 0, at the offset of a. -/
def slotTests (bs : List Byte) (n : Nat) : List (Nat × Bool) :=
  let a := (byteAt bs (slotEntry n)).toNat
  let b := (byteAt bs (slotEntry n + 1)).toNat
  [(slotEntry n, decide (a ≤ 15)), (slotEntry n + 1, decide (b ≤ 15)), (slotEntry n, decide (a + b ≠ 0))]

/-- The tests of a mark entry: kind, the stroke of a CROSS, the dot size of a SLUG. -/
def markTests (bs : List Byte) (m : Nat) : List (Nat × Bool) :=
  let q := markOf bs m
  [(markEntry m, decide ((byteAt bs (markEntry m)).toNat ≤ 3)),
   (markEntry m + 10, decide (q.kind = .cross → 1 ≤ q.stroke ∧ q.stroke ≤ 64)),
   (markEntry m + 11, decide (q.kind = .slug → 1 ≤ q.dot ∧ q.dot ≤ 32))]

/-- Every field test in the order of R162, each with the offset it reports. -/
def fieldTests (bs : List Byte) : List (Nat × Bool) :=
  (6, decide (1 ≤ fieldAt bs 6 2 ∧ fieldAt bs 6 2 ≤ 250)) ::
    ((List.range 4).flatMap (laneTests bs) ++ (List.range 4).flatMap (slotTests bs)
      ++ (List.range 8).flatMap (markTests bs))

/-- The offset of the first field that fails (R162 test 4). -/
def firstFail (bs : List Byte) : Option Nat := ((fieldTests bs).find? fun t => !t.2).map Prod.fst

/-! ## Judging (R162) -/

/-- A judgement: valid with the profile read, or invalid with the reason code and the byte offset (0 for none). -/
inductive Judgement
  | valid (p : Profile)
  | invalid (reason offset : Nat)
deriving DecidableEq, Repr

/-- Tests 1 to 4 of R162 on the 4096 bytes read. -/
def judgeBytes (bs : List Byte) : Judgement :=
  if bs.take 4 ≠ [0x44, 0x48, 0x34, 0x36] then .invalid 1 0
  else if fieldAt bs 4 2 ≠ 1 then .invalid 2 0
  else if (crc32 (bs.take 4092)).toNat ≠ fieldAt bs 4092 4 then .invalid 3 0
  else
    match firstFail bs with
    | some o => .invalid 4 o
    | none => .valid (profileOf bs)

/-- The judging of a load (R162): a word read with an uncorrectable error ends it with reason CHECKSUM. -/
def judge (got : List (Option (List Byte))) : Judgement :=
  if got.any Option.isNone then .invalid 3 0 else judgeBytes (got.flatMap fun w => w.getD [])

/-! ## Loading -/

/-- A load starts from byte 0; a load in progress is abandoned (R164, R165, R168). No rule says whether the abandoned
load's request, if it waits at the memory port, is withdrawn: that it keeps its place and serves the new load, whose first
word is then read at its grant, is the model's choice, notes/assumptions/43.md. -/
def startLoad (c : LoadCause) (s : State) : State := { s with loader := some ⟨c, []⟩ }

/-- The START tests that new lane levels bring about (R134, R147), each followed by that lane's choice. No rule gives
their order between lanes, which decides who takes a page's last lock; lanes 0 to 3 in turn are the model's choice,
notes/assumptions/36.md. -/
def startTests (s : State) : State := tryStart 3 (tryStart 2 (tryStart 1 (tryStart 0 s)))

/-- The RELOAD PROFILE in hand is answered with the judgement of its load (R165). -/
def answerReload (oc : OrderOutcome) (reason offset : Nat) (s : State) : State :=
  match s.inHand with
  | some o => if o.kind = 9 then finishOrder (submit (orderDone o oc reason offset) s) else s
  | none => s

/-- The latched profile replaced as a whole, with the report (R161, R163, R164, R165, R168): a COMMIT or a WARM RESET
makes the engine ACTIVE; a RELOAD is answered, and its levels bring about the START tests. -/
def applyProfile (c : LoadCause) (p : Profile) (s : State) : State :=
  let s1 := submit (profileLoadedReport c p.generation) { s with profile := some p }
  match c with
  | .commit => { s1 with engine := .active }
  | .warmReset => { s1 with engine := .active }
  | .reload => startTests (answerReload .done 0 0 s1)

/-- A rejected load (R164, R165, R168): its report, and the answer to a RELOAD. -/
def rejectProfile (c : LoadCause) (reason offset : Nat) (s : State) : State :=
  let s1 := submit (profileRejectedReport c reason offset) s
  match c with
  | .commit => s1
  | .warmReset => s1
  | .reload => answerReload .rejected reason offset s1

/-- What a judgement of the load of a cause sets off (R162), with the loader back in IDLE. -/
def applyJudgement (c : LoadCause) (j : Judgement) (s : State) : State :=
  match j with
  | .valid p => applyProfile c p { s with loader := none }
  | .invalid reason offset => rejectProfile c reason offset { s with loader := none }

/-- Whether a load still waits at the memory port for words it has to read (R156): its request is not granted, or its
reach ends, as the Unpacker's turn comes, before the load does. -/
def loadWaits (s : State) (ld : Load) : Bool :=
  ld.unfinished && (!s.grants .profileLoader || (ld.readTo (loaderReach s ld) s).unfinished)

/-- A load finishes reading, once the memory port grants its last words (R156), and is judged (R162). No request of the
loader's waits then. -/
def loadJudged (s : State) : State :=
  match s.loader with
  | none => s
  | some ld =>
    if loadWaits s ld then s
    else applyJudgement ld.cause (judge (ld.readTo profileWords s).got) (s.served .profileLoader)

/-- RELOAD PROFILE taken by the executor (R165): the load starts, and the order stays in hand. -/
def reloadTaken (s : State) : State :=
  match s.inHand with
  | some o => if o.kind = 9 ∧ s.loader = none then startLoad .reload s else s
  | none => s

/-! ## The commands -/

/-- RELOAD_PROFILE (R165). -/
def execReloadProfile (s : State) : Host.Outcome State Fault Refusal := .next (reloadTaken s)

/-- PROFILE_LOAD_JUDGED (R162). -/
def execProfileLoadJudged (s : State) : Host.Outcome State Fault Refusal := .next (loadJudged s)

end Sys2Proof.Machine
end

