-- ==== Sys2Proof/Machine/Port.lean ====
section
/-! DEFINITION. The system port and the traffic decoder (R149 to R151): every host request, by its address, the engine
state and the page table, with the proof composer's reads (R111, R112). -/

namespace Sys2Proof.Machine

/-! ## The traffic decoder (R149) -/

/-- What the traffic decoder makes of a write. -/
inductive WriteClass
  | pass
  | profileRecord
  | consumedCount
  | overflowWord
  | chute (c : Chute)
  /-- Dropped, with the region's code and the frame number of its ACCESS report (R151, R175). -/
  | drop (code : Byte) (frame : Nat)
  | error
deriving DecidableEq, Repr

/-- Whether the frame's page is LOCAL, by the page table's record as it stands (R22, R150). -/
def frameLocal (s : State) (f : Nat) : Bool :=
  match s.page f with
  | some p => p.state == .localPage
  | none => false

/-- The class of a write in a region, in ACTIVE. -/
def activeWrite (s : State) : Region → WriteClass
  | .profileRecord => .profileRecord
  | .reportRing => .drop 1 0
  | .writeCount => .drop 2 0
  | .consumedCount => .consumedCount
  | .overflowWord => .overflowWord
  | .inflowChute => .chute .inflow
  | .orderChute => .chute .order
  | .inflowRing => .drop 3 0
  | .patchPool => .drop 4 0
  | .frame f off => if off < lineArtSize ∧ frameLocal s f then .pass else .drop 5 f
  | .proofWindow => .drop 6 0
  | .unmapped => .error
  | .plain => .pass

/-- The class of a write in a region, in PASS-THROUGH. -/
def passThroughWrite : Region → WriteClass
  | .profileRecord => .profileRecord
  | .reportRing => .drop 1 0
  | .writeCount => .drop 2 0
  | .consumedCount => .consumedCount
  | .overflowWord => .overflowWord
  | .inflowChute => .pass
  | .orderChute => .pass
  | .inflowRing => .pass
  | .patchPool => .pass
  | .frame _ _ => .pass
  | .proofWindow => .error
  | .unmapped => .error
  | .plain => .pass

/-- The class of a write at an address (R149). -/
def writeClass (s : State) (a : Nat) : WriteClass :=
  match s.engine with
  | .active => activeWrite s (regionOf a)
  | .passThrough => passThroughWrite (regionOf a)

/-- What the traffic decoder makes of a read. -/
inductive ReadClass
  | pass
  | zeros
  | proof
  | error
deriving DecidableEq, Repr

/-- The class of a read at an address (R149). -/
def readClass (s : State) (a : Nat) : ReadClass :=
  match regionOf a, s.engine with
  | .inflowChute, .active => .zeros
  | .orderChute, .active => .zeros
  | .proofWindow, .active => .proof
  | .proofWindow, .passThrough => .error
  | .unmapped, _ => .error
  | _, _ => .pass

/-! ## Writes -/

/-- The bytes of the commit word in the beat it ends (R163, R164). -/
def touchesCommit (a : Nat) (be : Enables) : Bool := a == commitBeat && be &&& 0xF0 != 0

/-- A write into the profile record that reaches memory (R163, R164): in PASS-THROUGH the commit word starts a load. -/
def profileWrite (a : Nat) (be : Enables) (d : Beat) (s : State) : State :=
  let s1 := respond .ok (storeBeat a be d s)
  if s.engine = .passThrough ∧ touchesCommit a be then startLoad .commit s1 else s1

/-- A write that reaches memory (R150), with what its region adds: the profile record's loads (R164), the watch on the
consumed count (R172), the overflow flag (R173). -/
def performWrite (c : WriteClass) (a : Nat) (be : Enables) (d : Beat) (s : State) : State :=
  match c with
  | .profileRecord => profileWrite a be d s
  | .consumedCount => respond .ok (watchConsumed be d (storeBeat a be d s))
  | .overflowWord => respond .ok { storeBeat a be d s with overflowFlag := false }
  | _ => respond .ok (storeBeat a be d s)

/-- What a load in progress has read when a write of a class arrives: before one into the profile record it reads on
(R162, R164). -/
def recordRead (c : WriteClass) (s : State) : State := if c = .profileRecord then loaderReadsOn s else s

/-- A write that passes to the memory port (R150, R155): not performed on a word with an uncorrectable error that it
only partly replaces, and then answered with an error and without any other effect (notes/assumptions/16.md). -/
def passWrite (c : WriteClass) (a : Nat) (be : Enables) (d : Beat) (s : State) : State :=
  if writePerformed a be s then performWrite c a be d (portGrant (recordRead c s)) else respond .error (portGrant s)

/-- A dropped write (R151). -/
def dropWrite (code : Byte) (frame : Nat) (a : Nat) (be : Enables) (s : State) : State :=
  submit (accessReport code a be.toNat frame) (respond .ok s)

/-- A write of a class taken by the system port. -/
def takeWrite (c : WriteClass) (a : Nat) (be : Enables) (d : Beat) (s : State) : State :=
  match c with
  | .chute .inflow => inflowWrite (BitVec.ofNat 35 a) be d (portTaken s)
  | .chute .order => orderWrite (BitVec.ofNat 35 a) be d (portTaken s)
  | .drop code f => dropWrite code f a be (portTaken s)
  | .error => respond .error (portTaken s)
  | _ => passWrite c a be d s

/-- A host write at a beat address (R149): not taken while the port holds a write; with no byte enabled it completes at
once in every region (notes/assumptions/3.md, notes/assumptions/15.md). -/
def hostWrite (a : Nat) (be : Enables) (d : Beat) (s : State) : State :=
  if s.held.isSome then s
  else if be = 0 ∧ regionOf a ≠ .unmapped then respond .ok (portTaken s)
  else takeWrite (writeClass s a) a be d s

/-! ## Reads -/

/-- A passing read (R150, R155), once it is granted (R156). -/
def passRead (a : Nat) (s : State) : State :=
  if s.bad a then respond .error (portGrant s) else respond (.data (loadBeat s a)) (portGrant s)

/-- The proof composer's context for the bound page (R97). -/
def proofContext (k : Key) (f : Nat) (p : Page) (pr : Profile) : Context where
  key := k
  frame := f
  tw := p.tw
  th := p.th
  version := p.version
  generation := pr.generation
  slot := pr.slots.get (Fin.ofNat 4 p.screenSlot)
  marks := pr.marks
  polarity := .positive
  attempt := 0

/-- The page row of an offset in the proof window (R111). -/
def proofRow (tw o : Nat) : Nat := o / tileBytes / tw * 256 + o % tileBytes / 32

/-- A composed beat answered: 8 bytes of the span, and the flag request of an uncorrectable error (R111, R75). -/
def answerProof (o : Nat) (q : SpanResult) (s : State) : State :=
  respond (.data (beatOf ((q.bytes.drop (o % 32)).take 8))) (raiseFlag? q.request s)

/-- The proof composer's grants for a beat (R156), if its span reads memory (R99). -/
def proofGrant (f : Nat) (p : Page) (o : Nat) (s : State) : State :=
  if (spanSource s f p (o / tileBytes % p.tw) (proofRow p.tw o / 256)).reads then portGrant s else portTaken s

/-- A proof read at an offset of the window (R111). -/
def proofRead (o : Nat) (s : State) : State :=
  match s.proof, s.profile with
  | some (k, f), some pr =>
    match s.page f with
    | some p =>
      if o < p.tw * p.th * tileBytes then
        answerProof o (composeSpan s (proofContext k f p pr) p (o / tileBytes % p.tw) (proofRow p.tw o)
            (lookUpSpan s f p (o / tileBytes % p.tw) (proofRow p.tw o)))
          (proofGrant f p o s)
      else respond (.data 0) (portTaken s)
    | none => respond (.data 0) (portTaken s)
  | _, _ => respond (.data 0) (portTaken s)

/-- A host read at a beat address (R149): not taken while the port holds a write. -/
def hostRead (a : Nat) (s : State) : State :=
  if s.held.isSome then s
  else
    match readClass s a with
    | .pass => passRead a s
    | .zeros => respond (.data 0) (portTaken s)
    | .proof => proofRead (a - proofBase) s
    | .error => respond .error (portTaken s)

/-- A host request, at the beat its address lies in. -/
def hostAccess (r : Access) (s : State) : State :=
  match r with
  | .read a => hostRead (beatAddr a.toNat) s
  | .write a be d => hostWrite (beatAddr a.toNat) be d s

/-- The address of the beat at an offset of a chute. -/
def chuteAddr (c : Chute) (off : BitVec 12) : Nat :=
  match c with
  | .inflow => beatAddr (inflowChuteBase + off.toNat)
  | .order => beatAddr (orderChuteBase + off.toNat)

/-! ## The commands -/

/-- INFLOW_CHUTE_WRITE (R28). -/
def execInflowChuteWrite (off : BitVec 12) (be : Enables) (d : Beat) (s : State) :
    Host.Outcome State Fault Refusal := .next (hostWrite (chuteAddr .inflow off) be d s)

/-- ORDER_CHUTE_WRITE (R152). -/
def execOrderChuteWrite (off : BitVec 12) (be : Enables) (d : Beat) (s : State) :
    Host.Outcome State Fault Refusal := .next (hostWrite (chuteAddr .order off) be d s)

/-- PROFILE_COMMIT_WRITE (R164). -/
def execProfileCommitWrite (be : Enables) (d : Beat) (s : State) : Host.Outcome State Fault Refusal :=
  .next (hostWrite commitBeat be d s)

/-- PROOF_READ (R111). -/
def execProofRead (off : BitVec 26) (s : State) : Host.Outcome State Fault Refusal :=
  .next (hostRead (beatAddr (proofBase + off.toNat)) s)

/-- PASSING_ACCESS (R150). -/
def execPassingAccess (r : Access) (s : State) : Host.Outcome State Fault Refusal := .next (hostAccess r s)

/-- CHUTE_READ (R150). -/
def execChuteRead (c : Chute) (off : BitVec 12) (s : State) : Host.Outcome State Fault Refusal :=
  .next (hostRead (chuteAddr c off) s)

/-- UNMAPPED_ACCESS (R149). -/
def execUnmappedAccess (r : Access) (s : State) : Host.Outcome State Fault Refusal := .next (hostAccess r s)

/-- DROPPED_WRITE (R151). -/
def execDroppedWrite (a : Addr) (be : Enables) (d : Beat) (s : State) : Host.Outcome State Fault Refusal :=
  .next (hostWrite (beatAddr a.toNat) be d s)

/-- CONSUMED_COUNT_WRITE (R172). -/
def execConsumedCountWrite (be : Enables) (d : Beat) (s : State) : Host.Outcome State Fault Refusal :=
  .next (hostWrite consumedAddr be d s)

/-- OVERFLOW_WORD_WRITE (R173). -/
def execOverflowWordWrite (be : Enables) (d : Beat) (s : State) : Host.Outcome State Fault Refusal :=
  .next (hostWrite overflowAddr be d s)

end Sys2Proof.Machine
end

