-- ==== Sys2Proof/Machine/Resets.lean ====
section
/-! DEFINITION. The two resets (R167, R168, R176). -/

namespace Sys2Proof.Machine

/-- The state after power-on reset (R167): `State.reset`, but for the commands waiting and the count of free values,
which are the model's own. -/
def powerOn (s : State) : State := { State.reset with pending := s.pending, free := s.free }

/-- A Lander write in flight at the reset: whether it reached memory is free (R156, R168, notes/assumptions/10.md). -/
def abandonRingWrite (s : State) : State :=
  match s.lander with
  | .body b => strayRingWrite b s
  | .header _ => s
  | .seek _ => s

/-- The segment the Unpacker has claimed, the remake it decodes, or the one that waits for its patch slot, applied to the
end (R43, R46, R60, R61). -/
def applyClaimed (s : State) : State :=
  match s.unpacker, s.unpackerPage with
  | .working g .claimed, some f =>
    if g.header.kind = kindStrip then applyStrip g f s
    else if g.header.kind = kindPhotoPart then applyPhotoPart g f s
    else if g.header.kind = kindRemake then applyRemake g f s
    else s
  | .working g (.decoding n), some f => decodeRemake g f n s
  | .stalled _ .patches _ _, _ => patchesStallEnd s
  | _, _ => s

/-- The writes that may be under way at a reset besides the Lander's, made to the end (R156): the head report's record
(R171), and the rows of the segment the Unpacker has in hand (R52, R55, R61). -/
def writesMade (s : State) : State := applyClaimed (handleHead { s with lander := .seek [], waiting := [] })

/-- Whether a word, by its number, is not in one state what it is in the other. -/
def wordDiffers (s t : State) (w : Nat) : Bool :=
  s.badWords.contains w != t.badWords.contains w || memReadBytes s.mem (8 * w) 8 != memReadBytes t.mem (8 * w) 8

/-- The words of `s` that the writes made in `made` change. -/
def wordsWritten (s made : State) : List Nat :=
  ((s.mem ++ made.mem).map (fun c : Host.Cell => c.1 / 8) ++ s.badWords).filter (wordDiffers s made)

/-- A word written as it is in `made`. -/
def copyWord (made : State) (w : Nat) (s : State) : State := writeWords (8 * w) (memReadBytes made.mem (8 * w) 8) s

/-- The writes under way at a reset are abandoned (R156, R167): which of their words had reached memory is free
(notes/assumptions/39.md). -/
def abandonWrites (s : State) : State :=
  (wordsWritten s (writesMade s)).foldl
    (fun t w => if Config.wordReached s.free w then copyWord (writesMade s) w t else t) (useFree s)

/-- The on-chip state cleared and memory kept, with the start-up load under way (R168). -/
def clearedKeepingMemory (s : State) : State :=
  { State.reset with
    pending := s.pending, free := s.free, mem := s.mem, badWords := s.badWords, loader := some ⟨.warmReset, []⟩ }

/-- The state after warm reset (R168): the writes under way are abandoned, and the count words are written 0 at the
release (R176). -/
def warm (s : State) : State :=
  writeCountWord overflowAddr 0 (writeCountWord writeCountAddr 0 (clearedKeepingMemory (abandonRingWrite (abandonWrites s))))

/-- POWER_ON_RESET (R167). -/
def execPowerOnReset (s : State) : Host.Outcome State Fault Refusal := .next (powerOn s)

/-- WARM_RESET (R168). -/
def execWarmReset (s : State) : Host.Outcome State Fault Refusal := .next (warm s)

end Sys2Proof.Machine
end

