-- ==== Sys2Proof/Machine/Dispatch.lean ====
section
/-! DEFINITION. One arm for each command: the table of opcode_table.json. -/

namespace Sys2Proof.Machine

def exec (i : Instr) (s : State) : Host.Outcome State Fault Refusal :=
  match i with
  | .inflowChuteWrite off be d => Sys2Proof.Machine.execInflowChuteWrite off be d s
  | .admission => Sys2Proof.Machine.execAdmission s
  | .ringWriteDone => Sys2Proof.Machine.execRingWriteDone s
  | .inflowHoldTimeout => Sys2Proof.Machine.execInflowHoldTimeout s
  | .filler => Sys2Proof.Machine.execFiller s
  | .unknownKind => Sys2Proof.Machine.execUnknownKind s
  | .pageOpen upTo => Sys2Proof.Machine.execPageOpen upTo s
  | .framesStallEnd => Sys2Proof.Machine.execFramesStallEnd s
  | .strip upTo => Sys2Proof.Machine.execStrip upTo s
  | .photoHead upTo => Sys2Proof.Machine.execPhotoHead upTo s
  | .photoPart upTo => Sys2Proof.Machine.execPhotoPart upTo s
  | .pageClose upTo => Sys2Proof.Machine.execPageClose upTo s
  | .remakeTile upTo => Sys2Proof.Machine.execRemakeTile upTo s
  | .patchesStallEnd => Sys2Proof.Machine.execPatchesStallEnd s
  | .deferralStallEnd => Sys2Proof.Machine.execDeferralStallEnd s
  | .orderChuteWrite off be d => Sys2Proof.Machine.execOrderChuteWrite off be d s
  | .orderRecordQueued => Sys2Proof.Machine.execOrderRecordQueued s
  | .orderHoldTimeout => Sys2Proof.Machine.execOrderHoldTimeout s
  | .queuePlate => Sys2Proof.Machine.execQueuePlate s
  | .withdrawPlate => Sys2Proof.Machine.execWithdrawPlate s
  | .purgePage => Sys2Proof.Machine.execPurgePage s
  | .purgeComplete => Sys2Proof.Machine.execPurgeComplete s
  | .openLocalPage => Sys2Proof.Machine.execOpenLocalPage s
  | .closeLocalPage => Sys2Proof.Machine.execCloseLocalPage s
  | .setProof => Sys2Proof.Machine.execSetProof s
  | .runLane => Sys2Proof.Machine.execRunLane s
  | .stopLane => Sys2Proof.Machine.execStopLane s
  | .reloadProfile => Sys2Proof.Machine.execReloadProfile s
  | .unknownOrder => Sys2Proof.Machine.execUnknownOrder s
  | .profileLoadJudged => Sys2Proof.Machine.execProfileLoadJudged s
  | .profileCommitWrite be d => Sys2Proof.Machine.execProfileCommitWrite be d s
  | .plateLate tag => Sys2Proof.Machine.execPlateLate tag s
  | .laneRowComposed l => Sys2Proof.Machine.execLaneRowComposed l s
  | .ready l => Sys2Proof.Machine.execReady l s
  | .pull l n => Sys2Proof.Machine.execPull l n s
  | .exposed l tag => Sys2Proof.Machine.execExposed l tag s
  | .ejected l tag => Sys2Proof.Machine.execEjected l tag s
  | .setterFault l c => Sys2Proof.Machine.execSetterFault l c s
  | .setterIdle l => Sys2Proof.Machine.execSetterIdle l s
  | .linkLoss l => Sys2Proof.Machine.execLinkLoss l s
  | .laneIdleSend l => Sys2Proof.Machine.execLaneIdleSend l s
  | .proofRead off => Sys2Proof.Machine.execProofRead off s
  | .passingAccess r => Sys2Proof.Machine.execPassingAccess r s
  | .chuteRead c off => Sys2Proof.Machine.execChuteRead c off s
  | .unmappedAccess r => Sys2Proof.Machine.execUnmappedAccess r s
  | .droppedWrite a be d => Sys2Proof.Machine.execDroppedWrite a be d s
  | .consumedCountWrite be d => Sys2Proof.Machine.execConsumedCountWrite be d s
  | .overflowWordWrite be d => Sys2Proof.Machine.execOverflowWordWrite be d s
  | .reportWrite => Sys2Proof.Machine.execReportWrite s
  | .powerOnReset => Sys2Proof.Machine.execPowerOnReset s
  | .warmReset => Sys2Proof.Machine.execWarmReset s

end Sys2Proof.Machine
end

