-- ==== Sys2Proof/Machine/Tick.lean ====
section
/-! DEFINITION. A tick of the plant clock, in which time passes: requests arrive at the memory port and are granted
(R156), a load reads on (R162), and errors arise (R155). -/

namespace Sys2Proof.Machine

/-- Whether a lane composer has a row to compose that still reads memory (R99, R107). -/
def rowRequests (s : State) (l : LaneId) : Bool :=
  match rowInHand s l with
  | some (_, c) => decide (0 < rowAccesses s c)
  | none => false

/-- Whether no request of the host's is at the system port (R149): no chute write held and none of class 2 waiting. -/
def hostIdle (s : State) : Bool := s.held.isNone && !s.waiting.any fun r => requestClass s r == 2

/-- Whether a requester other than the Lander may make a request at the memory port (R156): it has work that reads or
writes memory. -/
def State.mayRequest (s : State) : Requester → Bool
  | .composer l => rowRequests s l
  | .systemPort => hostIdle s
  | .proofComposer => hostIdle s && s.engine == .active && s.proof.isSome
  | .lander => false
  | .unpacker => unpackerReads s
  | .profileLoader => (s.loader.map Load.unfinished).getD false
  | .reportWriter => decide (0 < s.overflowOwed) || !s.reports.isEmpty && decide (s.unconsumed.toNat < 256)

/-- A request for a number of words made by its requester (R156), who notes what it asks for: a lane composer for its
row's next words, and the Unpacker for its payload's. -/
def noteAsked (r : Requester) (n : Nat) (s : State) : State :=
  match r with
  | .composer l =>
    match rowInHand s l with
    | some (.front, c) => modLane l (fun L => { L with frontCtx := some (rowAsks s n c) }) s
    | some (.back, c) => modLane l (fun L => { L with backCtx := some (rowAsks s n c) }) s
    | none => s
  | .unpacker => { s with payloadRead := s.payloadRead.ask (payloadWords s) n }
  | _ => s

/-- A requester makes a request, behind those that wait (R156), if it has one to make and none waiting. -/
def requestArrives (r : Requester) (n : Nat) (s : State) : State :=
  if s.mayRequest r && !s.waiting.contains r then
    { noteAsked r n s with waiting := s.waiting ++ [r] }
  else s

/-- The arbiter's grant within a tick (R156): to a lane composer for words of its row, to the Unpacker for words of its
payload, or to the profile loader for its next word (R162). The grants of the others are commands, and of none that
waits behind them is one made before: RING_WRITE_DONE, REPORT_WRITE, and the host's own request. -/
def grantNext (s : State) : State :=
  match arbiterGrant s s.requests with
  | some (.composer l) => grantLane l s
  | some .unpacker => grantPayload s
  | some .profileLoader => loaderGranted s
  | some .systemPort => s
  | some .proofComposer => s
  | some .lander => s
  | some .reportWriter => s
  | none => s

/-- One thing that happens at the memory port within a tick (R156). -/
def portEvent (s : State) : PortEvent → State
  | .arrives r n => requestArrives r n s
  | .grant => grantNext s

/-- The memory port within a tick: which requests arrive, when and for how many words, and how many are granted is free;
which is granted is the arbiter's choice each time (R156, notes/assumptions/13.md). -/
def portRuns (s : State) : State := (Config.portEvents s.free).foldl portEvent s

/-- One tick of the plant clock, which wraps at 2³² (R169). In it the memory port runs, and with it a load in progress
(R156, R162); then an uncorrectable error may arise (R155), so that the words read before it are read without it. -/
def tick (s : State) : State :=
  let r := portRuns s
  { r with clock := r.clock + 1, badWords := errorsArisen r, free := r.free + 1 }

end Sys2Proof.Machine
end

