-- ==== Sys2Proof/Safety.lean ====
section
/-! DEFINITION. What a safe state is: the bounds and agreements the manual promises of every state the part reaches,
and the parts of the state that groups of commands leave alone, in the terms the statements use. -/

namespace Sys2Proof.Machine

/-! ## Promises of every state -/

/-- Memory is in canonical form; the pending list holds at most 64 reports (R170); at most 256 records are unconsumed
(R171); ATTN is asserted exactly while some are (R174); the page table has its 160 records (R1); the order queue holds
at most 32 orders (R153). -/
structure RecordsSafe (s : State) : Prop where
  memory : Memory.wf s.mem = true
  pendingReports : s.reports.length ≤ 64
  unconsumed : s.unconsumed.toNat ≤ 256
  attn : s.attn = (s.unconsumed != 0)
  pages : s.pages.length = 160
  orders : s.orderQueue.length ≤ 32

/-- The tags of all live plates, lanes from 0 to 3. -/
def liveTags (s : State) : List Tag := allLanes.flatMap fun l => (s.lane l).queue.map Plate.tag

/-- A queue holds at most 16 plates (R114), each of its own lane, with an attempt from 1 to its allowance of 1 to 3
(R116, R122); at most one plate is on the drum and at most one is LOADING (R115). -/
structure QueueSafe (s : State) (l : LaneId) : Prop where
  size : (s.lane l).queue.length ≤ 16
  own : ∀ p ∈ (s.lane l).queue, p.lane = l
  attempts : ∀ p ∈ (s.lane l).queue, 1 ≤ p.attempt ∧ p.attempt ≤ p.allowance ∧ p.allowance ≤ 3
  oneFront : ((s.lane l).queue.filter fun p => p.state.onDrum).length ≤ 1
  oneBack : ((s.lane l).queue.filter fun p => p.state == .loading).length ≤ 1

/-- Every queue is safe, and no two live plates share a tag (R117). -/
structure QueuesSafe (s : State) : Prop where
  each : ∀ l, QueueSafe s l
  tags : (liveTags s).Nodup

/-- The start offset and total length of every segment that holds ring space, oldest first: the landed list's, then
that of the reservation at its tail (R32, R33, R40). -/
def ringSpans (s : State) : List (Nat × Nat) :=
  s.landed.map (fun e => (e.seg.offset, e.seg.total)) ++
    match s.lander with
    | .body b => b.start.toList.map fun o => (o, totalOf b.header.length)
    | .header _ => []
    | .seek _ => []

/-- Spans that lie end to end round the ring, from one offset to another. -/
def endToEnd (z : Nat) : Nat → List (Nat × Nat) → Prop
  | a, [] => a = z
  | a, (o, n) :: es => o = a ∧ endToEnd z ((a + n) % ringSize) es

/-- The ring's segments lie end to end from the head to the tail, the head being the oldest one's offset (R32, R39);
the occupancy is the sum of their total lengths, at most the ring's size (R32, R33); at most 1,024 of them hold a
place, the reservation among them (R40). -/
structure RingSafe (s : State) : Prop where
  head : s.ringHead < ringSize
  chain : endToEnd s.ringTail s.ringHead (ringSpans s)
  used : s.ringUsed = ((ringSpans s).map Prod.snd).sum
  room : s.ringUsed ≤ ringSize
  places : (ringSpans s).length ≤ 1024

/-- The tile of a patch entry (R66). -/
def PatchEntry.tile (e : PatchEntry) : Nat × Nat × Nat := (e.frame, e.tx, e.ty)

/-- How many of some tiles of a page in frame `f` are damaged, with the patch table as it stands. -/
def damagedOf (s : State) (f : Nat) (tiles : List (Nat × Nat)) (p : Page) : Nat :=
  tiles.countP fun t => tileDamaged s.patches f p t.1 t.2

/-- The slot of a remake being decoded, taken and in use beyond those of the entries (R60, R64). -/
def State.decodingSlot (s : State) : Option Nat :=
  match s.unpacker with
  | .working _ (.decoding n) => some n
  | .working _ _ => none
  | .idle => none
  | .stalled _ _ _ _ => none

/-- The patch table has one entry a tile, 4,000 at most, each of a CLOSED page (R66, R68); its entries name distinct
slots, which with the slot of a remake being decoded, another one, are the slots in use, so that there is never one more
than entries plus 1 (R60, R64, R67); a remake in work has a CLOSED page (R46), and one being decoded an entry of its tile
or a place for one (R60); and every page's damaged-tile count is right (R77). -/
structure TablesSafe (s : State) : Prop where
  tiles : (s.patches.map PatchEntry.tile).Nodup
  slots : (s.patches.map PatchEntry.slot).Nodup
  entries : s.patches.length ≤ 4000
  closed : ∀ e ∈ s.patches, ∃ p, s.page e.frame = some p ∧ p.state = .closed
  inUse : s.slotsInUse.Nodup
  named : ∀ n, n ∈ s.slotsInUse ↔ (∃ e ∈ s.patches, e.slot = n) ∨ s.decodingSlot = some n
  apart : ∀ n, s.decodingSlot = some n → ∀ e ∈ s.patches, e.slot ≠ n
  inUseBound : s.slotsInUse.length ≤ s.patches.length + 1
  remake : ∀ g f, s.unpackerPage = some f →
    (s.unpacker = .working g .claimed ∧ g.header.kind = kindRemake ∨ (∃ n, s.unpacker = .working g (.decoding n)) ∨
      ∃ o b, s.unpacker = .stalled g .patches o b) →
    ∃ p, s.page f = some p ∧ p.state = .closed
  place : ∀ g f n, s.unpackerPage = some f → s.unpacker = .working g (.decoding n) →
    (findPatch s.patches f g.header.locator g.header.arg).isSome ∨ s.patches.length < 4000
  damage : ∀ f p, s.page f = some p → p.damaged = damagedOf s f (allTiles p.tw p.th) p

/-- How many plates in flight, over all lanes, are of a page's key (R12, R115). -/
def platesInFlight (s : State) (k : Key) : Nat :=
  (allLanes.map fun l => (s.lane l).queue.countP fun p => p.state.inFlight && p.key == k).sum

/-- No two records have one key (R1); a page's lock count is the number of its plates in flight, 4 at most (R12), each
of which is of a page present, and is 0 for the Unpacker's page (R14); and no buffer holds more than 256 rows, as no
high-water level is above 256 (R133, R161). -/
structure LocksSafe (s : State) : Prop where
  keys : ∀ f g p q, s.page f = some p → s.page g = some q → p.key = q.key → f = g
  locks : ∀ f p, s.page f = some p → p.lockCount = platesInFlight s p.key
  lockLimit : ∀ f p, s.page f = some p → p.lockCount ≤ 4
  present : ∀ l, ∀ p ∈ (s.lane l).queue, p.state.inFlight = true → (s.findPage p.key).isSome
  claimed : ∀ f p, s.unpackerPage = some f → s.page f = some p → p.lockCount = 0
  buffers : ∀ l, (s.lane l).buffer.length ≤ 256
  levels : ∀ p, s.profile = some p → ∀ l, (p.levels.get l).highWater ≤ 256

/-- No requester waits twice at the memory port, and the Lander's request is in its BODY state (R34, R156); a request of
the Unpacker's that waits is for a payload it is to read (R44), and one of the profile loader's for a word that a load in
progress is to read (R162); and no request for words of a payload or a row asks for more than 8 (R156). -/
structure WaitingSafe (s : State) : Prop where
  once : s.waiting.Nodup
  lander : .lander ∉ s.waiting
  unpacker : .unpacker ∈ s.waiting → unpackerReads s = true
  loader : .profileLoader ∈ s.waiting → ∃ ld, s.loader = some ld ∧ ld.unfinished = true
  payload : s.payloadRead.asked ≤ 8
  rows : ∀ l c, (s.lane l).frontCtx = some c ∨ (s.lane l).backCtx = some c → ∀ w ∈ c.row, w.read.asked ≤ 8

/-! ## Kinds of command -/

/-- The commands that are a reset of the part. -/
def isReset : Instr → Bool
  | .powerOnReset => true
  | .warmReset => true
  | _ => false

/-- The commands that may store host data at any address. -/
def storesHostData : Instr → Bool
  | .passingAccess _ => true
  | .unmappedAccess _ => true
  | .droppedWrite _ _ _ => true
  | .profileCommitWrite _ _ => true
  | _ => false

/-! ## What is left alone -/

/-- What a page record is apart from its locks and its deferred list. -/
def Page.content (p : Page) : Page := { p with lockCount := 0, deferred := [] }

/-- What a lane is apart from its queue and the choice of its next plate: mode, drum-ready, owed rows, front context,
buffer, timers and the messages sent. -/
def Lane.control (L : Lane) : Lane := { L with queue := [], backCtx := none, lastHeld := none }

/-- A latched context but for the row in composition. -/
def Latched.withoutRow (c : Latched) : Latched := { c with row := [] }

/-- A lane but for the rows in composition. -/
def Lane.withoutRows (L : Lane) : Lane :=
  { L with frontCtx := L.frontCtx.map Latched.withoutRow, backCtx := L.backCtx.map Latched.withoutRow }

/-- What no reaction to an announcement changes (R17, R42, R119), memory apart: everything but the reports and drops,
the free values, the Unpacker's work, its reading and its request at the memory port, the pages' locks and deferred
lists, and the lanes' choices. -/
def State.steady (s : State) : State :=
  { s with
    mem := [], badWords := [], reports := [], overflowFlag := false, overflowOwed := 0, free := 0
    unpacker := .idle, payloadRead := Reading.start, unpackerPage := none
    waiting := s.waiting.filter (· != .unpacker)
    pages := s.pages.map (Option.map Page.content)
    lanes := ⟨s.lanes.q0.control, s.lanes.q1.control, s.lanes.q2.control, s.lanes.q3.control⟩ }

/-- Every page record but that of frame `f` is as it was. -/
def OtherPagesKept (f : Nat) (s t : State) : Prop := ∀ g, g ≠ f → t.page g = s.page g

/-- Every lane but `l` is as it was. -/
def OtherLanesKept (l : LaneId) (s t : State) : Prop := ∀ k, k ≠ l → t.lane k = s.lane k

/-- Every byte of memory outside a stretch reads as it did. -/
def BytesKeptBut (a n : Nat) (s t : State) : Prop :=
  ∀ x, ¬ (a ≤ x ∧ x < a + n) → memRead t.mem x = memRead s.mem x

/-- The requests of `w` that still wait once the profile loader of `s` is that of `t`: where it has read a word, its own
waits no more (R156, R162). -/
def stillWaiting (s t : State) (w : List Requester) : List Requester :=
  if t.loader = s.loader then w else w.filter (· != .profileLoader)

/-- The profile loader of `t` has read on from that of `s`, words as memory holds them in `s`, in ascending order and
none of them with an uncorrectable error (R162); none at all while a request that goes before its own waits, and one at
most while the Unpacker's waits (R156). -/
structure LoaderReadOn (s t : State) : Prop where
  idle : s.loader = none → t.loader = none
  waits : s.grants .profileLoader = false → t.loader = s.loader
  reads : ∀ ld, s.loader = some ld → ∃ n, n ≤ 512 ∧ t.loader = some (ld.readTo n s) ∧
    (∀ i, ld.got.length ≤ i → i < n → s.badWords.contains i = false) ∧
    (.unpacker ∈ s.waiting → n ≤ ld.got.length + 1)

/-- The Lander's next request, that of the body `b` of `t`, lets the profile loader of `s` read on until it waits, and
where none is made nothing is read; `w` are the requests that waited until then (R34, R156, R162). -/
def RequestLetsLoaderRead (b : Body) (w : List Requester) (s t : State) : Prop :=
  (b.request = none ∨ s.loader = none → t.loader = s.loader ∧ t.free = s.free) ∧
  t.waiting = stillWaiting s t w ∧
  LoaderReadOn { t with lander := .body { b with request := none }, loader := s.loader, waiting := w } t

/-- `r'` is the reading `r` gone on by the next words granted, as memory holds them in `s` (R155, R156). -/
def Reading.GoesOn (addrs : List Nat) (s : State) (r r' : Reading) : Prop :=
  ∃ n, r'.words = r.words + n ∧
    r'.failed = r.failed.or ((((addrs.drop r.words).take n).findIdx? s.bad).map (· + r.words))

/-- `d` is the context `c` of page `p`, its row gone on: its spans keep their lookups, further ones are looked up from tile
column to tile column, and each reads on (R99). -/
def Latched.GoesOn (p : Page) (s : State) (c d : Latched) : Prop :=
  d.withoutRow = c.withoutRow ∧ c.row.length ≤ d.row.length ∧
    ∀ (tx : Nat) (w' : SpanWork), d.row[tx]? = some w' → ∃ w : SpanWork,
      (wholeRow s c p)[tx]? = some w ∧ w'.source = w.source ∧ w.read.GoesOn (rowAddrs c p tx w) s w'.read

/-- How many words a lane's rows in composition have read. -/
def Lane.wordsRead (L : Lane) : Nat :=
  ((L.frontCtx.toList ++ L.backCtx.toList).flatMap fun c => c.row.map fun w => w.read.words).sum

/-- How many words a lane's request asks for. -/
def Lane.wordsAsked (L : Lane) : Nat :=
  ((L.frontCtx.toList ++ L.backCtx.toList).flatMap fun c => c.row.map fun w => w.read.asked).sum

/-- What a tick from `s` to `t` does at the memory port (R156): the requests `left` are those that waited in `s` and
were granted none, and `came` those that arrived behind them. -/
structure PortRan (left came : List Requester) (s t : State) : Prop where
  waiting : t.waiting = left ++ came
  order : left.Sublist s.waiting
  nodup : s.waiting.Nodup → t.waiting.Nodup
  arrived : ∀ r ∈ came, s.mayRequest r = true
  /-- Host requests, the Lander's and the report writer's are granted as commands. -/
  commands : ∀ r ∈ s.waiting, r ∈ [.systemPort, .proofComposer, .lander, .reportWriter] → r ∈ left
  /-- While a request waits, none of a lower class is granted. -/
  classes : ∀ q ∈ left, ∀ r ∈ s.waiting, requestClass s q < requestClass s r → r ∈ left
  /-- In class 5 a request waits while one that came before it waits. -/
  arrival : ∀ q ∈ left, ∀ r ∈ s.waiting, requestClass s q = 5 → requestClass s r = 5 →
    s.waiting.idxOf q ≤ s.waiting.idxOf r → r ∈ left
  /-- A lane waits while a lane before it in its class's rotation waits. -/
  rotation : ∀ l k, .composer l ∈ left → .composer k ∈ s.waiting → composerClass s k = composerClass s l →
    let last := if composerClass s l = 1 then s.arbLast1 else s.arbLast4
    (l.val + 3 - last.val) % 4 ≤ (k.val + 3 - last.val) % 4 → .composer k ∈ left
  /-- A class remembers a lane granted in it, and does so where a lane that waited in it has been granted. -/
  last1 : (t.arbLast1 = s.arbLast1 ∧ ∀ l, .composer l ∈ s.waiting → composerClass s l = 1 → .composer l ∈ left) ∨
    composerClass s t.arbLast1 = 1 ∧ (.composer t.arbLast1 ∈ s.waiting ∨ rowRequests s t.arbLast1 = true)
  last4 : (t.arbLast4 = s.arbLast4 ∧ ∀ l, .composer l ∈ s.waiting → composerClass s l = 4 → .composer l ∈ left) ∨
    composerClass s t.arbLast4 = 4 ∧ (.composer t.arbLast4 ∈ s.waiting ∨ rowRequests s t.arbLast4 = true)
  /-- While the Lander's request waits, nothing of classes 4 to 6 is granted. -/
  lander : landerRequest s ≠ [] →
    (∀ r ∈ s.waiting, 3 < requestClass s r → r ∈ left) ∧ t.loader = s.loader ∧ t.arbLast4 = s.arbLast4 ∧
      t.payloadRead.words = s.payloadRead.words ∧
      ∀ l, composerClass s l = 4 → (t.lane l).wordsRead = (s.lane l).wordsRead
  /-- The rows in composition and the payload go on by the words granted, and nothing else of a lane changes. -/
  lanes : ∀ l, (t.lane l).withoutRows = (s.lane l).withoutRows
  rows : ∀ l c p, s.page c.ctx.frame = some p →
    ((s.lane l).frontCtx = some c → ∃ d, (t.lane l).frontCtx = some d ∧ c.GoesOn p s d) ∧
    ((s.lane l).backCtx = some c → ∃ d, (t.lane l).backCtx = some d ∧ c.GoesOn p s d)
  payload : s.payloadRead.GoesOn (payloadWords s) s t.payloadRead
  /-- While a request waits its requester reads nothing. -/
  unread : (∀ l, .composer l ∈ left → t.lane l = s.lane l) ∧ (.unpacker ∈ left → t.payloadRead = s.payloadRead)
  /-- While a request waits, no lane of a lower class is granted, and one of the same class only once: for the words it
  asked for, or for 8 at most of a request that has arrived. -/
  turns : ∀ q ∈ left, ∀ l, .composer l ≠ q →
    (requestClass s q < composerClass s l → (t.lane l).wordsRead = (s.lane l).wordsRead) ∧
    (requestClass s q = composerClass s l →
      (.composer l ∈ s.waiting → (t.lane l).wordsRead ≤ (s.lane l).wordsRead + (s.lane l).wordsAsked) ∧
      ((s.lane l).wordsAsked = 0 → (t.lane l).wordsRead ≤ (s.lane l).wordsRead + 8))
  /-- So with the Unpacker, which has a grant before the profile loader's only for a request that came first. -/
  turn : ∀ q ∈ left,
    (requestClass s q < 5 → t.payloadRead.words = s.payloadRead.words) ∧
    (q = .profileLoader → t.payloadRead.words = s.payloadRead.words ∨
      t.payloadRead.words = s.payloadRead.words + s.payloadRead.asked)

/-- Reports submitted one after another. -/
def submitAll (rs : List Report) (s : State) : State := rs.foldl (fun t r => submit r t) s

/-- The reports of a purge done, in R19's order: WITHDRAWN with cause PURGED for the QUEUED plates of the page's key,
lanes from 0 to 3 and each queue in its order; PAGE PURGED; and the ORDER DONE, with DONE, of the PURGE PAGE. -/
def purgeReports (f : Nat) (p : Page) (tag : Tag) (s : State) : List Report :=
  (allLanes.flatMap fun l =>
    ((s.lane l).queue.filter fun x => x.state == .queued && x.key == p.key).map fun x => plateOutcome x 4 6) ++
  [{ kind := .pagePurged, code := if p.closeStamp = none then 1 else 0, tag := 0, stamp := 0, key := p.key, lane := 0,
     detailA := BitVec.ofNat 32 p.damaged, detailB := p.closeStamp.getD 0, detailC := p.version,
     detailD := BitVec.ofNat 32 f },
   { kind := .orderDone, code := OrderOutcome.done.code, tag := tag, stamp := 0, key := p.key, lane := 0, detailA := 3,
     detailB := 0, detailC := 0, detailD := 0 }]

/-- A lane without the QUEUED plates of a key. -/
def Lane.without (L : Lane) (k : Key) : Lane :=
  { L with queue := L.queue.filter fun x => !(x.state == .queued && x.key == k) }

/-- What a purge of page `p` in frame `f` leaves (R19, R68, R127): its reports, no QUEUED plate of its key, the entries
at the ring offsets `dropped` DONE with the reclaim that follows, no patch of the frame and none of their slots in use,
no proof bound to it, and the frame FREE. -/
def purged (f : Nat) (p : Page) (tag : Tag) (dropped : List Nat) (s : State) : State :=
  let told := submitAll (purgeReports f p tag s) s
  let ring := reclaim { s with
    landed := s.landed.map fun e => if dropped.contains e.seg.offset then { e with state := .done } else e }
  { told with
    lanes := ⟨s.lanes.q0.without p.key, s.lanes.q1.without p.key, s.lanes.q2.without p.key, s.lanes.q3.without p.key⟩
    landed := ring.landed, ringUsed := ring.ringUsed, ringHead := ring.ringHead
    patches := s.patches.filter fun e => e.frame != f
    slotsInUse := s.slotsInUse.filter fun n => !(s.patches.any fun e => e.frame == f && e.slot == n)
    proof := if s.proof.map Prod.snd = some f then none else s.proof
    pages := s.pages.set f none }

/-- The page `q`, changed from `p` in nothing but some tiles' damage, with its damaged-tile count moved by what became
of those tiles (R77). -/
def Page.recounted (q p : Page) (s : State) (f : Nat) (tiles : List (Nat × Nat)) : Page :=
  { q with damaged := p.damaged + damagedOf s f tiles q - damagedOf s f tiles p }

/-- No lane is in RUN, so that no announcement makes a lane choose or start a plate (R119, R134). -/
def NoLaneRuns (s : State) : Prop := ∀ l, (s.lane l).mode ≠ .run

/-- The Unpacker has a segment of the page in frame `f` in hand: taken up with nothing tested yet, or with its claim on
that page granted (R14, R43). -/
abbrev UnpackerHas (g : Segment) (f : Nat) (s : State) : Prop :=
  s.unpacker = .working g .taken ∧ s.unpackerPage = none ∨ s.unpacker = .working g .claimed ∧ s.unpackerPage = some f

/-- The segment in hand has ended, with some notices and the rest a reaction (R38, R39, R42, R43): its entry is DONE,
with the reclaim that follows; apart from what reactions change `t` is `s`; the notices come first, and alone where no
lane runs. -/
structure SegmentEnds (g : Segment) (notices : List Report) (s t : State) : Prop where
  state : t.steady = (markDone g.offset s).steady
  reports : (submitAll notices s).reports <+: t.reports
  quiet : NoLaneRuns s → t.reports = (submitAll notices s).reports

end Sys2Proof.Machine
end

