-- ==== Sys2Proof/Certificates/Slice0/Obligations.lean ====
section
/-! DEFINITION. The statements about the part, for the provers: each says one thing the manual's rules promise of a
command, of every command, or of an operation commands share. -/

open Sys2Proof Sys2Proof.Machine

/-! ## Steps and the whole machine -/

/-- A step takes the command at the front of the queue and runs it with the rest of the queue waiting. With no command
waiting it is one tick of the plant clock, which wraps at 2³² (R169), and no word loses an uncorrectable error. In it a
load in progress may read on: the words it reads, in ascending order, are those memory holds before an error arises, and
none of them has one (R162); while the Lander's request waits it reads nothing (R156). Of a lane only the rows in
composition go on, and of the Unpacker's work only the reading of its payload: what the tick does at the memory port is
said with the arbiter. That an empty queue is a tick, that a tick is where errors arise, and that how
many requests are granted in it is free, are the model's choices, notes/assumptions/1.md, notes/assumptions/5.md,
notes/assumptions/11.md and notes/assumptions/13.md. -/
def Obligations.StepRunsFrontCommand : Prop :=
  (∀ (c : Instr) (cs : List Instr) (s : State), step (s.withPending (c :: cs)) = exec c (s.withPending cs)) ∧
  ∀ s : State, s.pending = [] →
    ∃ t, step s = .next t ∧
      t = { s with clock := t.clock, badWords := t.badWords, loader := t.loader, free := t.free
                   arbLast1 := t.arbLast1, arbLast4 := t.arbLast4, waiting := t.waiting
                   lanes := t.lanes, payloadRead := t.payloadRead } ∧
      (∀ l, (t.lane l).withoutRows = (s.lane l).withoutRows) ∧
      t.clock.toNat = (s.clock.toNat + 1) % 4294967296 ∧ (∀ w ∈ s.badWords, w ∈ t.badWords) ∧
      (s.loader = none → t.loader = none) ∧
      (∀ ld, s.loader = some ld → ∃ n, n ≤ 512 ∧ t.loader = some (ld.readTo n s) ∧
        ∀ i, ld.got.length ≤ i → i < n → s.badWords.contains i = false) ∧
      ∀ b, s.lander = .body b → b.request.isSome → t.loader = s.loader

/-- Every command completes, and leaves the commands waiting behind it as they were. Model choices:
notes/assumptions/2.md. -/
def Obligations.EveryCommandCompletesKeepingQueue : Prop :=
  ∀ (c : Instr) (s : State), ∃ t, exec c s = .next t ∧ t.pending = s.pending

/-- The state after power-on reset: R23 pages, R41 Lander, R63 Unpacker, R69 patches, R108 and R110 composers, R128
and R148 lanes, R152 and R153 orders, R156 arbiter, R161 engine, R169 clock, R176 reports; and the promises that every
step keeps hold of it. -/
def Obligations.ResetLeavesStatedValues : Prop :=
  (∀ f, State.reset.page f = none) ∧ State.reset.pages.length = 160 ∧ State.reset.unpackerPage = none ∧
  State.reset.lander = .seek [] ∧ State.reset.discarded = 0 ∧ State.reset.landed = [] ∧
  State.reset.ringHead = 0 ∧ State.reset.ringTail = 0 ∧ State.reset.ringUsed = 0 ∧
  State.reset.unpacker = .idle ∧ State.reset.payloadRead = ⟨0, none, 0⟩ ∧
  State.reset.patches = [] ∧ State.reset.slotsInUse = [] ∧
  State.reset.slotPointer = 0 ∧ State.reset.proof = none ∧
  (∀ l, (State.reset.lane l).mode = .fault ∧ (State.reset.lane l).drumReady = false ∧
    (State.reset.lane l).owed = 0 ∧ (State.reset.lane l).queue = [] ∧ (State.reset.lane l).frontCtx = none ∧
    (State.reset.lane l).backCtx = none ∧ (State.reset.lane l).buffer = [] ∧
    (State.reset.lane l).lastMessage = none ∧ (State.reset.lane l).lastHeld = none) ∧
  State.reset.assembly = [] ∧ State.reset.orderQueue = [] ∧ State.reset.inHand = none ∧
  State.reset.held = none ∧ State.reset.arbLast1 = 3 ∧ State.reset.arbLast4 = 3 ∧ State.reset.waiting = [] ∧
  State.reset.engine = .passThrough ∧ State.reset.loader = none ∧ State.reset.profile = none ∧
  State.reset.clock = 0 ∧ State.reset.writeCount = 0 ∧ State.reset.consumed = 0 ∧
  State.reset.overflowFlag = false ∧ State.reset.overflowOwed = 0 ∧ State.reset.reports = [] ∧
  State.reset.attn = false ∧
  RecordsSafe State.reset ∧ QueuesSafe State.reset ∧ RingSafe State.reset ∧ TablesSafe State.reset ∧
  WaitingSafe State.reset ∧ LocksSafe State.reset

/-- Every step keeps memory's form, the report ring's account and ATTN (R170, R171, R174), the page table's size (R1)
and the order queue's bound (R153); it keeps the inflow ring's segments end to end from head to tail, within the ring
and its 1,024 places (R32, R33, R39, R40); it keeps the patch table's and the pool's bounds and agreement, with the slot
of a remake being decoded beside the entries' (R60, R64, R66, R67), and every page's count of damaged tiles (R77); and
no request waits at the memory port for reads that the Unpacker or the profile loader is not to make (R44, R156, R162),
nor asks for more than 8 words of a payload or of a row (R156). -/
def Obligations.StepKeepsRecordsSafe : Prop :=
  (∀ s t : State, RecordsSafe s → step s = .next t → RecordsSafe t) ∧
  (∀ s t : State, RingSafe s → step s = .next t → RingSafe t) ∧
  (∀ s t : State, TablesSafe s → step s = .next t → TablesSafe t) ∧
  ∀ s t : State, WaitingSafe s → step s = .next t → WaitingSafe t

/-- Every step keeps every queue safe: its 16 places (R114), its plates' attempts (R116, R122), one plate on the drum
and one LOADING (R115), and no tag shared by two live plates (R117). With that it keeps the locks: no two records of
one key (R1), the lock count equal to the page's plates in flight and at most 4 (R12), none for the Unpacker's page
(R14); and no buffer above 256 rows (R133). -/
def Obligations.StepKeepsQueuesSafe : Prop :=
  (∀ s t : State, QueuesSafe s → step s = .next t → QueuesSafe t) ∧
  ∀ s t : State, QueuesSafe s → LocksSafe s → step s = .next t → LocksSafe t

/-- Only a judged profile load and the two resets change the engine or the latched profile (R161, R163). No command but
a reset touches the plant clock of R169: that the clock moves at an empty queue's tick alone is the model's choice,
notes/assumptions/1.md. -/
def Obligations.OnlyLoadsAndResetsChangeProfile : Prop :=
  ∀ (c : Instr) (s t : State), exec c s = .next t → isReset c = false →
    t.clock = s.clock ∧ (s.engine = .active → t.engine = .active) ∧
    (c ≠ .profileLoadJudged → t.engine = s.engine ∧ t.profile = s.profile)

/-- The part never writes the profile record (the introduction of chapter 10, Plant Profile and Start-up): only a host
write or a power-on reset changes a byte of it. -/
def Obligations.PartNeverWritesProfileRecord : Prop :=
  ∀ (c : Instr) (s t : State) (a : Nat), Memory.wf s.mem = true → exec c s = .next t →
    storesHostData c = false → c ≠ .powerOnReset → a < 0x1000 → memRead t.mem a = memRead s.mem a

/-! ## Host traffic -/

/-- Host requests that change nothing (R149, R150): while the port holds a write none is taken (the model leaves it
out, notes/assumptions/3.md); a write with all byte enables clear completes at once with an OK response in every
region. Model choices: notes/assumptions/13.md, notes/assumptions/15.md. -/
def Obligations.RequestsThatChangeNothing : Prop :=
  (∀ (s : State) (off : BitVec 12) (po : BitVec 26) (a : Addr) (be : Enables) (d : Beat) (r : Access) (k : Chute),
    s.held.isSome →
      exec (.inflowChuteWrite off be d) s = .next s ∧ exec (.orderChuteWrite off be d) s = .next s ∧
      exec (.profileCommitWrite be d) s = .next s ∧ exec (.proofRead po) s = .next s ∧
      exec (.passingAccess r) s = .next s ∧ exec (.chuteRead k off) s = .next s ∧
      exec (.unmappedAccess r) s = .next s ∧ exec (.droppedWrite a be d) s = .next s ∧
      exec (.consumedCountWrite be d) s = .next s ∧ exec (.overflowWordWrite be d) s = .next s) ∧
  ∀ (s : State) (a : Addr) (off : BitVec 12) (d : Beat), s.held = none →
    let t := { portTaken s with responses := s.responses ++ [.ok] }
    (a.toNat < 0x404000000 →
      exec (.passingAccess (.write a 0 d)) s = .next t ∧ exec (.droppedWrite a 0 d) s = .next t) ∧
    exec (.inflowChuteWrite off 0 d) s = .next t ∧ exec (.orderChuteWrite off 0 d) s = .next t ∧
    exec (.profileCommitWrite 0 d) s = .next t ∧ exec (.consumedCountWrite 0 d) s = .next t ∧
    exec (.overflowWordWrite 0 d) s = .next t

/-- The traffic decoder's table for writes (R149, R22), row by row and for both engine states. -/
def Obligations.WriteClassesFollowAddressMap : Prop :=
  ∀ (s : State) (a : Nat),
    (a < 0x1000 → writeClass s a = .profileRecord) ∧
    (0x100000 ≤ a → a < 0x102000 → writeClass s a = .drop 1 0) ∧
    (0x102000 ≤ a → a < 0x102008 → writeClass s a = .drop 2 0) ∧
    (0x102008 ≤ a → a < 0x102010 → writeClass s a = .consumedCount) ∧
    (0x102010 ≤ a → a < 0x102018 → writeClass s a = .overflowWord) ∧
    (0x200000 ≤ a → a < 0x201000 → writeClass s a = if s.engine = .active then .chute .inflow else .pass) ∧
    (0x300000 ≤ a → a < 0x301000 → writeClass s a = if s.engine = .active then .chute .order else .pass) ∧
    (0x1000000 ≤ a → a < 0x3000000 → writeClass s a = if s.engine = .active then .drop 3 0 else .pass) ∧
    (0x4000000 ≤ a → a < 0x6000000 → writeClass s a = if s.engine = .active then .drop 4 0 else .pass) ∧
    (∀ f off, f < 160 → off < 0x6000000 → a = 0x8000000 + f * 0x6000000 + off →
      writeClass s a =
        if s.engine = .passThrough ∨ (off < 0x4000000 ∧ ∃ p, s.page f = some p ∧ p.state = .localPage) then .pass
        else .drop 5 f) ∧
    (0x400000000 ≤ a → a < 0x404000000 → writeClass s a = if s.engine = .active then .drop 6 0 else .error) ∧
    (0x404000000 ≤ a → writeClass s a = .error) ∧
    ((0x1000 ≤ a ∧ a < 0x100000) ∨ (0x102018 ≤ a ∧ a < 0x200000) ∨ (0x201000 ≤ a ∧ a < 0x300000) ∨
      (0x301000 ≤ a ∧ a < 0x1000000) ∨ (0x3000000 ≤ a ∧ a < 0x4000000) ∨ (0x6000000 ≤ a ∧ a < 0x8000000) ∨
      (0x3C8000000 ≤ a ∧ a < 0x400000000) → writeClass s a = .pass)

/-- A dropped write (R151): an OK response and one ACCESS report with region, address, byte enables and frame,
whatever the data; the report is the only other effect. Model choices: notes/assumptions/13.md,
notes/assumptions/14.md. -/
def Obligations.DroppedWriteIsReported : Prop :=
  ∀ (s : State) (a : Addr) (be : Enables) (d : Beat) (code : Byte) (f : Nat),
    s.held = none → be ≠ 0 → writeClass s (8 * (a.toNat / 8)) = .drop code f →
    exec (.droppedWrite a be d) s =
      .next (submit
        { kind := .access, code := code, tag := 0, stamp := 0, key := ⟨0, 0, 0⟩, lane := 0,
          detailA := BitVec.ofNat 32 (8 * (a.toNat / 8)), detailB := BitVec.ofNat 32 (a.toNat / 4294967296),
          detailC := be.setWidth 32, detailD := BitVec.ofNat 32 f }
        { portTaken s with responses := s.responses ++ [.ok] })

/-- A write that passes to memory (R150, R155): the enabled bytes of the beat are stored, a whole write also clears
the word's error, and nothing else changes but the response; a partial write of a word with an uncorrectable error is
not performed and answered with an error. Either is done once the memory port grants it, after the requests of class 1
that wait (R156). Model choices: notes/assumptions/13.md, notes/assumptions/14.md, notes/assumptions/16.md. -/
def Obligations.PassingWriteStoresEnabledBytes : Prop :=
  ∀ (s : State) (a : Addr) (be : Enables) (d : Beat), Memory.wf s.mem = true → s.held = none → be ≠ 0 →
    let b := 8 * (a.toNat / 8)
    writeClass s b = .pass →
    (be = BitVec.allOnes 8 ∨ s.badWords.contains (b / 8) = false →
      ∃ t, exec (.passingAccess (.write a be d)) s = .next t ∧
        t = { portGrant s with mem := t.mem, badWords := t.badWords, responses := s.responses ++ [.ok] } ∧
        (∀ k, k < 8 → memRead t.mem (b + k) =
          if be.getLsbD k then d.extractLsb' (8 * k) 8 else memRead s.mem (b + k)) ∧
        (∀ x, x < b ∨ b + 8 ≤ x → memRead t.mem x = memRead s.mem x) ∧
        (∀ w, w ∈ t.badWords ↔ w ∈ s.badWords ∧ ¬ (be = BitVec.allOnes 8 ∧ w = b / 8))) ∧
    (be ≠ BitVec.allOnes 8 → s.badWords.contains (b / 8) = true →
      exec (.passingAccess (.write a be d)) s = .next { portGrant s with responses := s.responses ++ [.error] })

/-- What host requests are answered outside plain writes (R149, R150, R155), by region: a read gets the memory's 8
bytes, or an error for a word with an uncorrectable error; zeros for a chute in ACTIVE; an error for the proof window
in PASS-THROUGH; any request at 4_0400_0000h or above gets an error. A read of memory is done once the memory port
grants it, after the requests of class 1 that wait (R156); nothing else changes. Model choices:
notes/assumptions/13.md, notes/assumptions/14.md, notes/assumptions/15.md. -/
def Obligations.ReadsAreAnsweredByRegion : Prop :=
  ∀ (s : State), s.held = none →
    (∀ (a : Addr), a.toNat < 0x400000000 →
      ¬ (s.engine = .active ∧ (0x200000 ≤ a.toNat ∧ a.toNat < 0x201000 ∨ 0x300000 ≤ a.toNat ∧ a.toNat < 0x301000)) →
      (s.badWords.contains (a.toNat / 8) = true →
        exec (.passingAccess (.read a)) s = .next { portGrant s with responses := s.responses ++ [.error] }) ∧
      (s.badWords.contains (a.toNat / 8) = false →
        ∃ v : Beat,
          exec (.passingAccess (.read a)) s = .next { portGrant s with responses := s.responses ++ [.data v] } ∧
          ∀ k, k < 8 → v.extractLsb' (8 * k) 8 = memRead s.mem (8 * (a.toNat / 8) + k))) ∧
    (s.engine = .active → ∀ (c : Chute) (off : BitVec 12),
      exec (.chuteRead c off) s = .next { portTaken s with responses := s.responses ++ [.data 0] }) ∧
    (s.engine = .passThrough → ∀ off : BitVec 26,
      exec (.proofRead off) s = .next { portTaken s with responses := s.responses ++ [.error] }) ∧
    (∀ (a : Addr) (be : Enables) (d : Beat), 0x404000000 ≤ a.toNat →
      exec (.unmappedAccess (.read a)) s = .next { portTaken s with responses := s.responses ++ [.error] } ∧
      exec (.unmappedAccess (.write a be d)) s = .next { portTaken s with responses := s.responses ++ [.error] })

/-- Host writes of the count words. The consumed count word (R172): the write is stored, and with bytes 0 to 3 enabled
a value at most 256 behind the write count becomes the copy, with ATTN judged again (R174); any other value leaves the
copy. The overflow word (R173): the write is stored and clears the overflow flag, whatever it writes. Either is done
once the memory port grants it (R156). Model choices: notes/assumptions/13.md, notes/assumptions/14.md,
notes/assumptions/16.md. -/
def Obligations.CountWordWritesAreWatched : Prop :=
  (∀ (s : State) (be : Enables) (d : Beat), s.held = none → be ≠ 0 →
    (be = BitVec.allOnes 8 ∨ s.badWords.contains 0x20401 = false) →
    let v := d.extractLsb' 0 32
    ∃ t, exec (.consumedCountWrite be d) s = .next t ∧
      t.mem = (storeBeat 0x102008 be d s).mem ∧ t.badWords = (storeBeat 0x102008 be d s).badWords ∧
      t = { portGrant s with mem := t.mem, badWords := t.badWords, responses := s.responses ++ [.ok],
                             consumed := t.consumed, attn := t.attn } ∧
      (be &&& 0x0F#8 = 0x0F#8 → (s.writeCount - v).toNat ≤ 256 →
        t.consumed = v ∧ (t.attn = true ↔ 0 < (s.writeCount - v).toNat)) ∧
      (¬ (be &&& 0x0F#8 = 0x0F#8 ∧ (s.writeCount - v).toNat ≤ 256) → t.consumed = s.consumed ∧ t.attn = s.attn)) ∧
  ∀ (s : State) (be : Enables) (d : Beat), s.held = none → be ≠ 0 →
    (be = BitVec.allOnes 8 ∨ s.badWords.contains 0x20402 = false) →
    exec (.overflowWordWrite be d) s =
      .next { portGrant s with
        mem := mergeBeat s.mem 0x102010 be d, overflowFlag := false
        badWords := if be = BitVec.allOnes 8 then s.badWords.filter (· != 0x20402) else s.badWords
        responses := s.responses ++ [.ok] }

/-- Host writes to the profile record. The commit word (R164): in PASS-THROUGH a write with any of its bytes enabled
starts a load of cause COMMIT from byte 0, a load in progress being abandoned without a report, once it has reached
memory; a write that does not reach memory starts none; in ACTIVE it starts none. Any other write to the record, in
either engine state, reaches memory like a plain write (R149, R155), starts no load, and leaves a load in progress to
read its words so far unread, of which the first may have been read before the write, none of them with an uncorrectable
error (R162), none at all where a request waited before the loader's, and one at most where the Unpacker's waited
(R156), with their new bytes (R162, R165); its request waits no more where a word was read. A write is done once the
memory port grants it (R156). That a request of the abandoned load that waits still waits, for the new one, is the
model's choice, notes/assumptions/43.md. Further model choices: notes/assumptions/11.md, notes/assumptions/13.md,
notes/assumptions/14.md, notes/assumptions/16.md. -/
def Obligations.CommitWriteStartsLoad : Prop :=
  (∀ (s : State) (be : Enables) (d : Beat), s.held = none → be &&& 0xF0#8 ≠ 0 →
    (be = BitVec.allOnes 8 ∨ s.badWords.contains 0x1FF = false →
      ∃ t, exec (.profileCommitWrite be d) s = .next t ∧
        t.mem = mergeBeat s.mem 0xFF8 be d ∧ t.responses = s.responses ++ [.ok] ∧
        t = { portGrant s with mem := t.mem, badWords := t.badWords, responses := t.responses,
                               loader := t.loader, free := t.free, waiting := t.waiting } ∧
        (t.waiting = (portGrant s).waiting ∨ s.loader ≠ none ∧ s.grants .profileLoader = true ∧
          t.waiting = (portGrant s).waiting.filter (· != .profileLoader)) ∧
        (s.engine = .passThrough → t.loader = some ⟨.commit, []⟩) ∧
        (s.engine = .active → s.loader = none → t.loader = none)) ∧
    (be ≠ BitVec.allOnes 8 → s.badWords.contains 0x1FF = true →
      exec (.profileCommitWrite be d) s = .next { portGrant s with responses := s.responses ++ [.error] })) ∧
  ∀ (s : State) (a : Addr) (be : Enables) (d : Beat), s.held = none → be ≠ 0 →
    let b := 8 * (a.toNat / 8)
    b < 0x1000 → ¬ (s.engine = .passThrough ∧ b = 0xFF8 ∧ be &&& 0xF0#8 ≠ 0) →
    (be = BitVec.allOnes 8 ∨ s.badWords.contains (b / 8) = false →
      ∃ t, exec (.passingAccess (.write a be d)) s = .next t ∧
        t = { portGrant s with
          mem := mergeBeat s.mem b be d
          badWords := if be = BitVec.allOnes 8 then s.badWords.filter (fun w => w != b / 8) else s.badWords
          responses := s.responses ++ [.ok], loader := t.loader, free := t.free
          waiting := stillWaiting s t (portGrant s).waiting } ∧
        (s.loader = none → t.free = s.free) ∧ LoaderReadOn s t) ∧
    (be ≠ BitVec.allOnes 8 → s.badWords.contains (b / 8) = true →
      exec (.passingAccess (.write a be d)) s = .next { portGrant s with responses := s.responses ++ [.error] })

/-- A proof read in ACTIVE (R75, R111): zeros without a bound page or beyond its tiles; otherwise the 8 bytes of the
span at the beat's place, each bit the composed pixel in POSITIVE polarity with attempt digit 0 of the applied profile.
A span that reads memory is composed once the memory port grants its reads, after the requests of class 1 that wait
(R156). Where the reads meet no uncorrectable error nothing else changes but the response. Where they meet one the beat
shows the hatch, and the tile is damaged and counted: by its STORE flag for line art or tone (R72), and for a patch slot
by SPOILT in the entry that names the slot (R73). Model choices: notes/assumptions/13.md, notes/assumptions/14.md. -/
def Obligations.ProofReadShowsComposedPixels : Prop :=
  ∀ (s : State) (off : BitVec 26), s.held = none → s.engine = .active →
    (s.proof = none → exec (.proofRead off) s = .next { portTaken s with responses := s.responses ++ [.data 0] }) ∧
    (∀ (k : Key) (f : Nat) (p : Page) (pr : Profile), s.proof = some (k, f) → s.page f = some p →
      s.profile = some pr →
      let o := 8 * (off.toNat / 8)
      (p.tw * p.th * 8192 ≤ o →
        exec (.proofRead off) s = .next { portTaken s with responses := s.responses ++ [.data 0] }) ∧
      (o < p.tw * p.th * 8192 →
        let tx := o / 8192 % p.tw
        let y := o / 8192 / p.tw * 256 + o % 8192 / 32
        let c : Context := { key := k, frame := f, tw := p.tw, th := p.th, version := p.version,
                             generation := pr.generation, slot := pr.slots.get (Fin.ofNat 4 p.screenSlot),
                             marks := pr.marks, polarity := .positive, attempt := 0 }
        let src := spanSource s f p tx (y / 256)
        let granted := if src.reads then portGrant s else portTaken s
        let shows (v : Beat) (from_ : SpanSource) : Prop := ∀ j b, j < 8 → b < 8 →
          v.getLsbD (8 * j + 7 - b) = composedPixel s c p from_ (tx * 256 + 8 * (o % 32) + 8 * j + b) y
        (spanError s f p tx y src = none →
          ∃ v, exec (.proofRead off) s = .next { granted with responses := s.responses ++ [.data v] } ∧ shows v src) ∧
        ∀ e, spanError s f p tx y src = some e → p.key = k → ∃ v, shows v .hatch ∧
          (e = .lineArt ∨ e = .tone → exec (.proofRead off) s =
            .next { granted with
              responses := s.responses ++ [.data v]
              pages := s.pages.set f (some (Page.recounted
                (p.modFlags (fun x => { x with store := true }) (tx, y / 256)) p s f [(tx, y / 256)])) }) ∧
          ∀ n, e = .patchSlot n →
            let patches := s.patches.map fun x =>
              if x.frame = f ∧ x.tx = tx ∧ x.ty = y / 256 ∧ x.slot = n then { x with spoilt := true } else x
            let damaged (ps : List PatchEntry) : Nat := if tileDamaged ps f p tx (y / 256) then 1 else 0
            exec (.proofRead off) s =
              .next { granted with
                responses := s.responses ++ [.data v], patches := patches
                pages := s.pages.set f (some
                  { p with damaged := p.damaged + damaged patches - damaged s.patches }) }))

/-- What a pixel is (R86, R87, R91 to R93, R98, R102 to R105), and the proof is the plate (R113). A composed pixel is
the base pixel or the mark pixel, inverted in NEGATIVE polarity. The base pixel of a patched tile is its slot's bit; of
a page, its line-art bit, or ink where the sample under a photo, if its row has come, has a tone of at least the
threshold at the pixel's cell coordinates, a threshold of 0 being read as 1. A mark inks within its rectangle: SOLID all
of it, CROSS its two bars, SLUG the dots of its 11 characters. So on the same page, slot and marks, a pixel outside
every SLUG mark is the same for any two attempt digits in POSITIVE polarity, and a NEGATIVE plate has its inverse. -/
def Obligations.PlatePixelEqualsProofPixel : Prop :=
  (∀ (s : State) (c : Context) (p : Page) (src : SpanSource) (x y : Nat),
    composedPixel s c p src x y = ((c.polarity == .negative) ^^
      (basePixel s c.frame p c.slot src x y || markPixel c.marks (slugText c.key c.attempt) x y))) ∧
  (∀ (s : State) (f : Nat) (p : Page) (q : ScreenSlot) (x y : Nat),
    (∀ n, basePixel s f p q (.patch n) x y =
      (memRead s.mem (0x4000000 + n * 8192 + 32 * (y % 256) + x % 256 / 8)).getLsbD (7 - x % 8)) ∧
    ∀ photo,
      let art := (memRead s.mem (0x8000000 + f * 0x6000000 + (y / 256 * p.tw + x / 256) * 8192 + 32 * (y % 256)
        + x % 256 / 8)).getLsbD (7 - x % 8)
      (photo = none → basePixel s f p q (.page photo) x y = art) ∧
      ∀ r, photo = some r →
        let i := (x - 256 * r.tx0) / r.scale
        let j := (y - 256 * r.ty0) / r.scale
        let sample := (memRead s.mem (0x8000000 + f * 0x6000000 + 0x4000000 + r.base + j * (r.w * 256 / r.scale)
          + i)).toNat
        let n := q.a * q.a + q.b * q.b
        let u := (q.a * x + q.b * y) % n
        let v := (((q.a * y : Nat) : Int) - ((q.b * x : Nat) : Int)).emod (n : Int) |>.toNat
        let least := max (q.thr.getD (16 * (16 * v / n) + 16 * u / n) 0).toNat 1
        (r.state = .receiving ∧ r.nextRow ≤ j → basePixel s f p q (.page photo) x y = art) ∧
        (r.state = .complete ∨ j < r.nextRow →
          basePixel s f p q (.page photo) x y = (art || decide ((least : Int) ≤ toneCurve q.knots sample)))) ∧
  (∀ (marks : List Mark) (k : Key) (attempt x y : Nat),
    (markPixel marks (slugText k attempt) x y = true ↔
      ∃ m ∈ marks, m.x ≤ x ∧ x < m.x + m.w ∧ m.y ≤ y ∧ y < m.y + m.h ∧
        (m.kind = .solid ∨
          (m.kind = .cross ∧
            (let top : Int := m.y + ((m.h : Int) - m.stroke) / 2
             let left : Int := m.x + ((m.w : Int) - m.stroke) / 2
             (top ≤ y ∧ (y : Int) < top + m.stroke) ∨ (left ≤ x ∧ (x : Int) < left + m.stroke))) ∨
          (m.kind = .slug ∧
            (let col := (x - m.x) / m.dot
             let row := (y - m.y) / m.dot
             col < 66 ∧ row < 7 ∧ col % 6 < 5 ∧
               ((glyph ((slugText k attempt).getD (col / 6) .dash)).getD row 0).getLsbD (4 - col % 6) = true)))) ∧
    slugText k attempt =
      [.digit (k.edition.toNat / 100), .digit (k.edition.toNat / 10 % 10), .digit (k.edition.toNat % 10), .dash,
       .digit (k.page.toNat / 100), .digit (k.page.toNat / 10 % 10), .digit (k.page.toNat % 10), .dash,
       if k.separation = 0 then .k else if k.separation = 1 then .c else if k.separation = 2 then .m else .y, .dash,
       .digit attempt]) ∧
  ∀ (s : State) (c proofCtx : Context) (p : Page) (src : SpanSource) (x y : Nat),
    proofCtx = { c with polarity := .positive, attempt := 0 } →
    (∀ m ∈ c.marks, m.kind = .slug → m.holds x y = false) →
    (c.polarity = .positive → composedPixel s c p src x y = composedPixel s proofCtx p src x y) ∧
    (c.polarity = .negative → composedPixel s c p src x y = !composedPixel s proofCtx p src x y)

/-- The tone lies between the two knots that bracket its sample, inclusive, and so within 0 to 255 (R90); with the
rule's three consequences: the last knot, a falling piece, a flat piece. -/
def Obligations.ToneLiesBetweenItsKnots : Prop :=
  ∀ (K : List Byte) (c : Nat), c ≤ 255 →
    min (knot K (c / 16)) (knot K (c / 16 + 1)) ≤ toneCurve K c ∧
    toneCurve K c ≤ max (knot K (c / 16)) (knot K (c / 16 + 1)) ∧
    0 ≤ toneCurve K c ∧ toneCurve K c ≤ 255 ∧
    (c = 255 → toneCurve K c = knot K 15 + (15 * (knot K 16 - knot K 15) + 8) / 16) ∧
    (c = 255 → knot K 15 = 255 → knot K 16 = 255 → toneCurve K c = 255) ∧
    (knot K (c / 16 + 1) - knot K (c / 16) = -1 → c % 16 = 15 → toneCurve K c = knot K (c / 16 + 1)) ∧
    (knot K (c / 16 + 1) = knot K (c / 16) → toneCurve K c = knot K (c / 16))

/-- A damaged tile is composed as the hatch, without reading memory (R78): a span looked up in it raises no flag and
does not depend on what memory holds; its pixels with (x + y) mod 16 of 0 or 1 are inked, with the marks over them, and
NEGATIVE polarity inverts both; without marks its raster repeats the two bytes of the rule's table for y mod 16. -/
def Obligations.DamagedTileIsHatched : Prop :=
  ∀ (s : State) (c : Context) (p : Page) (tx y : Nat), tileDamaged s.patches c.frame p tx (y / 256) = true →
    let w := lookUpSpan s c.frame p tx y
    let bytes := (composeSpan s c p tx y w).bytes
    (composeSpan s c p tx y w).request = none ∧ spanAddrs c.frame p tx y w.source = [] ∧
    (∀ (m : Memory) (bad : List Nat),
      composeSpan { s with mem := m, badWords := bad } c p tx y w = composeSpan s c p tx y w) ∧
    (∀ j b, j < 32 → b < 8 →
      let x := tx * 256 + 8 * j + b
      let ink := decide ((x + y) % 16 = 0 ∨ (x + y) % 16 = 1) || markPixel c.marks (slugText c.key c.attempt) x y
      (bytes.getD j 0).getLsbD (7 - b) = if c.polarity = .negative then !ink else ink) ∧
    (c.marks = [] → c.polarity = .positive → ∀ j, j < 16 →
      [bytes.getD (2 * j) 0, bytes.getD (2 * j + 1) 0] =
        [[0xC0, 0x00], [0x80, 0x01], [0x00, 0x03], [0x00, 0x06], [0x00, 0x0C], [0x00, 0x18], [0x00, 0x30], [0x00, 0x60],
         [0x00, 0xC0], [0x01, 0x80], [0x03, 0x00], [0x06, 0x00], [0x0C, 0x00], [0x18, 0x00], [0x30, 0x00],
         [0x60, 0x00]].getD (y % 16) [])

/-! ## The memory port -/

/-- Requests at the memory port (R156, R99). A request for words of a payload or of a row is one access of 1 to 8
consecutive words, at most as many as it was made for; its grant reads them, as memory holds them. The fewest requests
for some words are counted by the longest accesses, and a row not begun takes one for every span that reads memory, at
the least. Of the requests that wait the arbiter grants one of the highest class, and among the lane composers of a
class the first of lanes 0 to 3 after the one last granted in it. Requests are granted one after another, each as the
next has arrived behind those that wait: so, while another lane of its class waits, a lane has one grant and then the
other its turn, and so with the Unpacker and the profile loader. A host request is granted after the requests of class 1
that wait, whose words are read and the last of which their class remembers. In a tick a request that waits leaves by
such a grant alone, those that arrive wait behind it, and none of classes 4 to 6 is granted while the Lander's request
waits; a host request waits for its command; and of rows and payload the words granted are read, in order. Model
choices: notes/assumptions/13.md, notes/assumptions/42.md. -/
def Obligations.ArbiterGrantsRequestsInTurn : Prop :=
  (∀ (s : State) (addrs : List Nat) (n : Nat) (r : Reading), r.words < addrs.length → 0 < n →
    let q := r.ask addrs n
    (1 ≤ q.asked ∧ q.asked ≤ min n 8 ∧ r.words + q.asked ≤ addrs.length ∧ q.words = r.words ∧ q.failed = r.failed ∧
      ∀ i, i < q.asked → addrs.getD (r.words + i) 0 = addrs.getD r.words 0 + 8 * i) ∧
    ((q.granted addrs s).words = r.words + q.asked ∧ (q.granted addrs s).asked = 0 ∧
      (r.failed = none → ((q.granted addrs s).failed = none ↔
        ∀ i, i < q.asked → s.badWords.contains (addrs.getD (r.words + i) 0 / 8) = false))) ∧
    (r.asked = 0 → r.requestsLeft addrs ≤ (q.granted addrs s).requestsLeft addrs + 1 ∧
      (8 ≤ n → r.requestsLeft addrs = (q.granted addrs s).requestsLeft addrs + 1))) ∧
  (∀ (s : State) (c : Latched) (p : Page), s.page c.ctx.frame = some p → c.row = [] →
    ((List.range c.ctx.tw).countP fun tx => (spanSource s c.ctx.frame p tx (c.composed / 256)).reads) ≤
      rowAccesses s c) ∧
  (∀ (s : State) (waiting : List Requester),
    (waiting ≠ [] → ∃ r, arbiterGrant s waiting = some r) ∧
    ∀ r, arbiterGrant s waiting = some r → r ∈ waiting ∧
      (∀ q ∈ waiting, requestClass s r ≤ requestClass s q) ∧
      ∀ l k, r = .composer l → .composer k ∈ waiting → composerClass s k = composerClass s l →
        let last := if composerClass s l = 1 then s.arbLast1 else s.arbLast4
        (l.val + 3 - last.val) % 4 ≤ (k.val + 3 - last.val) % 4) ∧
  (∀ (s : State) (l : LaneId),
    let last := if composerClass s l = 1 then s.arbLast1 else s.arbLast4
    (composerClass s l =
      if (s.lane l).exposing = true ∧ (s.lane l).buffer.length < s.preload l then 1 else 4) ∧
    (s.grants (.composer l) = true ↔ (∀ q ∈ s.requests, composerClass s l ≤ requestClass s q) ∧
      ∀ k, .composer k ∈ s.requests → composerClass s k = composerClass s l →
        (l.val + 3 - last.val) % 4 ≤ (k.val + 3 - last.val) % 4)) ∧
  (∀ (s : State) (l : LaneId) (n : Nat),
    let t := grantLane l s
    let asks (u : State) (r : Requester) : State := { u with waiting := u.waiting.filter (· != r) ++ [r] }
    s.grantsRun (.composer l) 1 = s.grants (.composer l) ∧ s.grantsRun .unpacker 1 = s.grants .unpacker ∧
    s.grantsRun (.composer l) (n + 2) =
      (s.grants (.composer l) && (asks t (.composer l)).grantsRun (.composer l) (n + 1)) ∧
    s.grantsRun .unpacker (n + 2) = (s.grants .unpacker && (asks s .unpacker).grantsRun .unpacker (n + 1)) ∧
    (∀ k, .composer k ∈ s.waiting → k ≠ l → composerClass s k = composerClass s l →
      s.grantsRun (.composer l) (n + 2) = false) ∧
    (.profileLoader ∈ s.waiting → s.grantsRun .unpacker (n + 2) = false)) ∧
  (∀ s : State,
    let t := portGrant s
    let first (l : LaneId) : Prop := .composer l ∈ s.requests ∧ composerClass s l = 1
    t = { s with arbLast1 := t.arbLast1, waiting := t.waiting, lanes := t.lanes } ∧
    (∀ l, (first l → t.lane l = Lane.rowsRead s (s.lane l)) ∧ (¬ first l → t.lane l = s.lane l)) ∧
    (∀ q, q ∈ t.waiting ↔ q ∈ s.waiting ∧ 2 < requestClass s q) ∧
    ((∀ l, ¬ first l) → t.arbLast1 = s.arbLast1) ∧
    ∀ l, first l → first t.arbLast1 ∧
      (l.val + 3 - s.arbLast1.val) % 4 ≤ (t.arbLast1.val + 3 - s.arbLast1.val) % 4) ∧
  ∀ s : State, ∃ left came, PortRan left came s (tick s)

/-! ## Reports and resets -/

/-- A submitted report (R159, R170, R173): stamped and placed at the tail of the pending list, nothing else changing;
or, with 64 pending, dropped, which changes nothing when the overflow flag is set, and otherwise sets it and asks for
one more write of 1 to the overflow word, which waits for its grant (R156). -/
def Obligations.SubmissionQueuesOrDropsReport : Prop :=
  ∀ (r : Report) (s : State),
    (s.reports.length < 64 → submit r s = { s with reports := s.reports ++ [{ r with stamp := s.clock }] }) ∧
    (64 ≤ s.reports.length → s.overflowFlag = true → submit r s = s) ∧
    (64 ≤ s.reports.length → s.overflowFlag = false →
      submit r s = { s with overflowFlag := true, overflowOwed := s.overflowOwed + 1 })

/-- The report writer (R171, R173, R174): with fewer than 256 unconsumed the head report is written at its entry, the
write count rises by 1 and is written to its word, ATTN is asserted, and at most 256 records are unconsumed; with 256
the report is dropped, the write count stays and R173 applies. Its writes, of the record and of the overflow word, wait
while any other request waits, as each is of a higher class (R156; which requests wait, and that a write of the overflow
word that waits goes before the head report, are the model's choices, notes/assumptions/13.md). With none pending
nothing happens, the model's choice, notes/assumptions/2.md. A report's record is 32 bytes, kind first, its fields least
significant byte first, the last four 0 (R159). -/
def Obligations.ReportIsWrittenOrDropped : Prop :=
  ∀ (s : State), Memory.wf s.mem = true →
    (s.grants .reportWriter = true ↔ ∀ q ∈ s.requests, q = .reportWriter) ∧
    let waiting := s.waiting.filter (· != .reportWriter)
    (0 < s.overflowOwed →
      (s.grants .reportWriter = false → exec .reportWrite s = .next s) ∧
      (s.grants .reportWriter = true → ∃ t, exec .reportWrite s = .next t ∧
        t = { s with mem := t.mem, badWords := t.badWords, overflowOwed := s.overflowOwed - 1
                     waiting := waiting } ∧
        (∀ w, w ∈ t.badWords ↔ w ∈ s.badWords ∧ w ≠ 0x20402) ∧
        ∀ x, memRead t.mem x =
          if x = 0x102010 then 1 else if 0x102010 < x ∧ x < 0x102018 then 0 else memRead s.mem x)) ∧
    (∀ (r : Report) (rs : List Report), s.overflowOwed = 0 → s.reports = r :: rs →
      (s.writeCount - s.consumed).toNat < 256 →
      (s.grants .reportWriter = false → exec .reportWrite s = .next s) ∧
      (s.grants .reportWriter = true →
        let e := 0x100000 + 32 * (s.writeCount.toNat % 256)
        ∃ t, exec .reportWrite s = .next t ∧
          t = { s with mem := t.mem, badWords := t.badWords, reports := rs, writeCount := s.writeCount + 1,
                       attn := true, waiting := waiting } ∧
          (∀ i, i < 32 → memRead t.mem (e + i) = (recordBytes r).getD i 0) ∧
          leNat (memReadBytes t.mem 0x102000 8) = (s.writeCount + 1).toNat ∧
          (∀ x, ¬ (e ≤ x ∧ x < e + 32) → ¬ (0x102000 ≤ x ∧ x < 0x102008) → memRead t.mem x = memRead s.mem x) ∧
          (∀ w ∈ t.badWords, w ∈ s.badWords) ∧ (t.writeCount - t.consumed).toNat ≤ 256)) ∧
    (∀ (r : Report) (rs : List Report), s.overflowOwed = 0 → s.reports = r :: rs →
      (s.writeCount - s.consumed).toNat = 256 →
      (s.overflowFlag = true → exec .reportWrite s = .next { s with reports := rs }) ∧
      (s.overflowFlag = false → s.grants .reportWriter = false →
        exec .reportWrite s = .next { s with reports := rs, overflowFlag := true, overflowOwed := 1 }) ∧
      (s.overflowFlag = false → s.grants .reportWriter = true → ∃ t, exec .reportWrite s = .next t ∧
        t = { s with mem := t.mem, badWords := t.badWords, reports := rs, overflowFlag := true
                     waiting := waiting } ∧
        ∀ x, memRead t.mem x =
          if x = 0x102010 then 1 else if 0x102010 < x ∧ x < 0x102018 then 0 else memRead s.mem x)) ∧
    (s.overflowOwed = 0 → s.reports = [] → exec .reportWrite s = .next s) ∧
    ∀ r : Report, (recordBytes r).length = 32 ∧
      (recordBytes r).getD 0 0 = r.kind.code ∧ (recordBytes r).getD 1 0 = r.code ∧
      leNat (((recordBytes r).drop 2).take 2) = r.tag.toNat ∧ leNat (((recordBytes r).drop 4).take 4) = r.stamp.toNat ∧
      (recordBytes r).getD 8 0 = r.key.edition ∧ (recordBytes r).getD 9 0 = r.key.page ∧
      (recordBytes r).getD 10 0 = r.key.separation ∧ (recordBytes r).getD 11 0 = r.lane ∧
      leNat (((recordBytes r).drop 12).take 4) = r.detailA.toNat ∧
      leNat (((recordBytes r).drop 16).take 4) = r.detailB.toNat ∧
      leNat (((recordBytes r).drop 20).take 4) = r.detailC.toNat ∧
      leNat (((recordBytes r).drop 24).take 4) = r.detailD.toNat ∧ leNat ((recordBytes r).drop 28) = 0

/-- Both resets clear every piece of on-chip state (R167, R168): the values of `State.reset`, but for the commands
waiting and the count of free values, which are the model's own. A warm reset keeps memory outside the two count words,
which it writes 0 (R176), the words of a Lander write in flight, and the words that the writes under way besides it
would change, which have reached memory or not (R156): the head report's record, and the rows of a segment the Unpacker
has in hand. Its loader is LOADING with cause WARM RESET (R161). That a power-on reset leaves memory with nothing listed
and no word with an error, and that either reset leaves every lane's last-sent time at 0, are the model's choices,
notes/assumptions/4.md, 5.md and 21.md. Further model choices: notes/assumptions/6.md, notes/assumptions/10.md,
notes/assumptions/28.md, notes/assumptions/39.md. -/
def Obligations.ResetsClearOnChipState : Prop :=
  ∀ s : State,
    exec .powerOnReset s = .next { State.reset with pending := s.pending, free := s.free } ∧
    ∃ t, exec .warmReset s = .next t ∧
      t = { State.reset with pending := s.pending, free := t.free, mem := t.mem, badWords := t.badWords,
                             loader := some ⟨.warmReset, []⟩ } ∧
      (Memory.wf s.mem = true →
        (∀ x, 0x102000 ≤ x → x < 0x102008 → memRead t.mem x = 0) ∧
        (∀ x, 0x102010 ≤ x → x < 0x102018 → memRead t.mem x = 0) ∧
        ∀ x, ¬ (0x102000 ≤ x ∧ x < 0x102008) → ¬ (0x102010 ≤ x ∧ x < 0x102018) →
          (∀ b q, s.lander = .body b → b.request = some q →
            ¬ (ringAddr q.offset ≤ x ∧ x < ringAddr q.offset + q.bytes.length)) →
          (memRead t.mem x = memRead s.mem x ∨ memRead t.mem x = memRead (writesMade s).mem x) ∧
          ((∀ g, s.unpacker ≠ .working g .claimed) → (∀ g n, s.unpacker ≠ .working g (.decoding n)) →
            (∀ g o b, s.unpacker ≠ .stalled g .patches o b) →
            (s.reports ≠ [] → (s.writeCount - s.consumed).toNat < 256 →
              ¬ (0x100000 + 32 * (s.writeCount.toNat % 256) ≤ x ∧
                x < 0x100000 + 32 * (s.writeCount.toNat % 256) + 32)) →
            memRead t.mem x = memRead s.mem x))

/-! ## The inflow chute and the Lander -/

/-- Bytes of an inflow write in SEEK (R28, R29, R31): up to 3 wait for their group; a fourth completes it, and the
group begins a header if it has the marker, with the write's bytes after it, or is discarded if it has not, and the
bytes after it wait or make the next group in the same way. The write completes with OK. Model choices:
notes/assumptions/13.md, notes/assumptions/14.md. -/
def Obligations.SeekExaminesGroupsOfFour : Prop :=
  ∀ (s : State) (off : BitVec 12) (be : Enables) (d : Beat) (g : List Byte), s.held = none → s.engine = .active →
    be ≠ 0 → s.lander = .seek g → g.length < 4 →
    let bs := g ++ enabledBytes be d
    let leaves (m : Lander) (discarded : Nat) : Prop := exec (.inflowChuteWrite off be d) s =
      .next { portTaken s with lander := m, discarded := discarded, responses := s.responses ++ [.ok] }
    (bs.length < 4 → leaves (.seek bs) s.discarded) ∧
    (4 ≤ bs.length → bs.take 2 = [0xD2, 0x5A] → leaves (.header bs) s.discarded) ∧
    (4 ≤ bs.length → bs.length < 8 → bs.take 2 ≠ [0xD2, 0x5A] →
      leaves (.seek (bs.drop 4)) (min (s.discarded + 4) 4294967295)) ∧
    (8 ≤ bs.length → bs.take 2 ≠ [0xD2, 0x5A] → (bs.drop 4).take 2 = [0xD2, 0x5A] →
      leaves (.header (bs.drop 4)) (min (s.discarded + 4) 4294967295)) ∧
    (8 ≤ bs.length → bs.take 2 ≠ [0xD2, 0x5A] → (bs.drop 4).take 2 ≠ [0xD2, 0x5A] →
      leaves (.seek (bs.drop 8)) (min (s.discarded + 8) 4294967295))

/-- Bytes of an inflow write in HEADER. Fewer than 16 wait. A header whose 16th byte arrives and passes the three tests
of R30 is BODY with the arrival stamp, and a RESYNC notice exactly when bytes had been discarded (R31); with a place and
room it is admitted at the tail, the ring's occupancy raised by the segment's total length (R24, R33), and its first
ring word requested (R34), before which a profile load may have read on (R156, R162). Bytes of the write after the
header are held, their timer starting (R35). A header that fails the tests has its first 4 bytes discarded and its
others examined as groups of 4 (R30): the first with the marker begins a header with the bytes after it. Where that
header is whole too, with 20 bytes or more in hand, it is tested in the same way: accepted, with the RESYNC notice, or
refused and the groups after its first examined. Model choices: notes/assumptions/11.md, notes/assumptions/13.md,
notes/assumptions/14.md, notes/assumptions/17.md, notes/assumptions/18.md. -/
def Obligations.AcceptedHeaderIsAdmitted : Prop :=
  ∀ (s : State) (off : BitVec 12) (be : Enables) (d : Beat) (g : List Byte), s.held = none → s.engine = .active →
    s.lander = .header g → g.length < 16 → be ≠ 0 →
    let bs := g ++ enabledBytes be d
    let passes (hb : List Byte) : Prop :=
      (hb.take 12 |>.map BitVec.toNat).sum % 65536 = fieldAt hb 12 2 ∧ fieldAt hb 6 2 ≤ 65520 ∧ fieldAt hb 14 2 = 0
    let accepts (hb rest : List Byte) (discarded : Nat) : Prop :=
      let total := 16 + fieldAt hb 6 2 + 4 + (4 - fieldAt hb 6 2 % 4) % 4
      ∃ t b u, exec (.inflowChuteWrite off be d) s = .next t ∧ t.lander = .body b ∧
        b.raw = hb ∧ b.header = headerOf hb ∧ b.stamp = s.clock ∧ b.landed = 0 ∧
        u = (if 0 < discarded then submit (segmentNotice .resync (headerOf hb) s.clock discarded) (portTaken s)
          else portTaken s) ∧
        t = { u with lander := .body b, discarded := 0, ringUsed := t.ringUsed, ringTail := t.ringTail,
                     held := t.held, responses := t.responses, loader := t.loader, free := t.free,
                     waiting := t.waiting } ∧
        RequestLetsLoaderRead b (portTaken s).waiting s t ∧
        (rest = [] → t.held = none ∧ t.responses = s.responses ++ [.ok]) ∧
        (rest ≠ [] → t.responses = s.responses ∧
          t.held = some { chute := .inflow, addr := BitVec.ofNat 35 (0x200000 + 8 * (off.toNat / 8)), rest := rest,
                          since := s.clock }) ∧
        (s.landed.length < 1024 → s.ringUsed + total ≤ 33554432 →
          b.start = some s.ringTail ∧ t.ringUsed = s.ringUsed + total ∧
          t.ringTail = (s.ringTail + total) % 33554432 ∧
          b.request = some ⟨s.ringTail % 33554432, hb.take (8 - s.ringTail % 8), 0⟩) ∧
        (1024 ≤ s.landed.length ∨ 33554432 < s.ringUsed + total →
          b.start = none ∧ b.request = none ∧ t.ringUsed = s.ringUsed ∧ t.ringTail = s.ringTail)
    (bs.length < 16 → exec (.inflowChuteWrite off be d) s =
      .next { portTaken s with lander := .header bs, responses := s.responses ++ [.ok] }) ∧
    (16 ≤ bs.length → passes (bs.take 16) → accepts (bs.take 16) (bs.drop 16) s.discarded) ∧
    (16 ≤ bs.length → ¬ passes (bs.take 16) →
      let leaves (m : Lander) (n : Nat) : Prop := exec (.inflowChuteWrite off be d) s =
        .next { portTaken s with lander := m, discarded := min (s.discarded + n) 4294967295,
                                 responses := s.responses ++ [.ok] }
      let marked (i : Nat) : Prop := (bs.drop i).take 2 = [0xD2, 0x5A]
      let second := (bs.drop 4).take 16
      (bs.length < 20 → marked 4 → leaves (.header (bs.drop 4)) 4) ∧
      (20 ≤ bs.length → marked 4 → passes second →
        accepts second (bs.drop 20) (min (s.discarded + 4) 4294967295)) ∧
      (¬ marked 4 ∨ 20 ≤ bs.length ∧ ¬ passes second →
        (marked 8 → leaves (.header (bs.drop 8)) 8) ∧
        (¬ marked 8 → marked 12 → leaves (.header (bs.drop 12)) 12) ∧
        (¬ marked 8 → ¬ marked 12 →
          (bs.length < 20 → leaves (.seek (bs.drop 16)) 16) ∧
          (20 ≤ bs.length → marked 16 → leaves (.header (bs.drop 16)) 16) ∧
          (20 ≤ bs.length → ¬ marked 16 → leaves (.seek (bs.drop 20)) 20))))

/-- Waiting, the ring requests and admission. An inflow write that finds the segment in BODY is held with all its bytes,
and its hold timer starts (R34, R35). Admitted and with no request outstanding, its next ring word is requested: the
word at start + landed modulo 33,554,432, with the header's bytes left for it first, then the write's bytes that fall in
it, up to the segment's end, while a word of header bytes alone waits for no write (R34). ADMISSION (R33, R35): with a
place and room the segment in BODY is reserved at the tail, the occupancy and the tail move by its total length (R24),
its first ring word is requested, and a held inflow write's timer starts afresh. Before a request a profile load may
have read on (R156, R162). That a word takes the header's last bytes and the write's first together is the model's
choice, notes/assumptions/18.md, and so is that an ADMISSION without a place or room changes nothing,
notes/assumptions/2.md. Further model choices: notes/assumptions/11.md, notes/assumptions/13.md,
notes/assumptions/14.md. -/
def Obligations.BodyWaitsForAdmission : Prop :=
  (∀ (b : Body) (start : Nat) (rest : List Byte),
    let o := (start + b.landed) % 33554432
    let room := 8 - (start + b.landed) % 8
    let shared := rest.take (room - (16 - b.landed))
    let part := rest.take (min room (16 + b.header.length + 4 + (4 - b.header.length % 4) % 4 - b.landed))
    (b.landed + room ≤ 16 → nextRequest b start rest = some ⟨o, (b.raw.drop b.landed).take room, 0⟩) ∧
    (16 < b.landed + room → rest = [] → nextRequest b start rest = none) ∧
    (b.landed < 16 → 16 < b.landed + room → rest ≠ [] →
      nextRequest b start rest = some ⟨o, b.raw.drop b.landed ++ shared, shared.length⟩) ∧
    (16 ≤ b.landed → rest ≠ [] → nextRequest b start rest = some ⟨o, part, part.length⟩)) ∧
  ∀ (s : State) (b : Body), s.lander = .body b →
    (∀ (off : BitVec 12) (be : Enables) (d : Beat), s.held = none → s.engine = .active → be ≠ 0 →
      let held : Option HeldWrite :=
        some { chute := .inflow, addr := BitVec.ofNat 35 (0x200000 + 8 * (off.toNat / 8)), rest := enabledBytes be d,
               since := s.clock }
      (b.start = none ∨ b.request.isSome →
        exec (.inflowChuteWrite off be d) s = .next { portTaken s with held := held }) ∧
      ∀ start, b.start = some start → b.request = none →
        let c := { b with request := nextRequest b start (enabledBytes be d) }
        ∃ t, exec (.inflowChuteWrite off be d) s = .next t ∧ RequestLetsLoaderRead c (portTaken s).waiting s t ∧
          t = { portTaken s with held := held, lander := .body c, loader := t.loader, free := t.free,
                                 waiting := t.waiting }) ∧
    (b.start = none →
      let total := 16 + b.header.length + 4 + (4 - b.header.length % 4) % 4
      (s.landed.length < 1024 → total ≤ 33554432 - s.ringUsed →
        ∃ t c, exec .admission s = .next t ∧ t.lander = .body c ∧
          c = { b with start := some s.ringTail, request := c.request } ∧
          (b.landed = 0 → b.request = none →
            c.request = some ⟨s.ringTail % 33554432, b.raw.take (8 - s.ringTail % 8), 0⟩) ∧
          t = { s with lander := t.lander, ringUsed := s.ringUsed + total,
                       ringTail := (s.ringTail + total) % 33554432, held := t.held,
                       loader := t.loader, free := t.free, waiting := t.waiting } ∧
          RequestLetsLoaderRead c s.waiting s t ∧
          (∀ h, s.held = some h → h.chute = .inflow → t.held = some { h with since := s.clock }) ∧
          ((∀ h, s.held = some h → h.chute ≠ .inflow) → t.held = s.held)) ∧
      (1024 ≤ s.landed.length ∨ 33554432 - s.ringUsed < total → exec .admission s = .next s))

/-- RING_WRITE_DONE. It waits while a request of class 1 or 2 waits, which the arbiter grants before the Lander's
(R156). Before a segment's last byte (R34, R155): the request's bytes lie in the ring, unless it is a part of a word
with an uncorrectable error, no other byte changes, and the count of bytes landed rises by them. A request of the held
write's bytes takes them from it: with none left the write completes with OK, otherwise it is held with its timer
started again. The next ring word is requested of the bytes still held, before which a profile load may have read on
(R156, R162). Model choices: notes/assumptions/11.md, notes/assumptions/13.md, notes/assumptions/18.md. -/
def Obligations.RingWriteLandsItsBytes : Prop :=
  (∀ s : State, (s.grants .lander = true ↔ ∀ q ∈ s.requests, 3 ≤ requestClass s q) ∧
    (s.grants .lander = false → exec .ringWriteDone s = .next s)) ∧
  ∀ (s : State) (b : Body) (start : Nat) (q : RingRequest), Memory.wf s.mem = true → s.grants .lander = true →
    s.lander = .body b → b.start = some start → b.request = some q →
    (0 < q.stream → ∃ h, s.held = some h ∧ h.chute = .inflow) →
    b.landed + q.bytes.length < 16 + b.header.length + 4 + (4 - b.header.length % 4) % 4 →
    ∃ t c, exec .ringWriteDone s = .next t ∧ t.lander = .body c ∧
      c = { b with landed := b.landed + q.bytes.length, request := c.request } ∧
      (∀ h, t.held = some h → h.chute = .inflow → c.request = nextRequest c start h.rest) ∧
      ((∀ h, t.held = some h → h.chute ≠ .inflow) → c.request = nextRequest c start []) ∧
      t = { s with mem := t.mem, badWords := t.badWords, lander := t.lander, held := t.held,
                   responses := t.responses, loader := t.loader, free := t.free, waiting := t.waiting } ∧
      RequestLetsLoaderRead c s.waiting s t ∧
      (∀ x, ¬ (ringAddr q.offset ≤ x ∧ x < ringAddr q.offset + q.bytes.length) →
        memRead t.mem x = memRead s.mem x) ∧
      (q.bytes.length = 8 ∨ s.badWords.contains (ringAddr q.offset / 8) = false →
        ∀ i, i < q.bytes.length → memRead t.mem (ringAddr q.offset + i) = q.bytes.getD i 0) ∧
      (q.stream = 0 → t.held = s.held ∧ t.responses = s.responses) ∧
      (∀ h, 0 < q.stream → s.held = some h → h.rest.length ≤ q.stream →
        t.held = none ∧ t.responses = s.responses ++ [.ok]) ∧
      (∀ h, 0 < q.stream → s.held = some h → q.stream < h.rest.length →
        t.held = some { h with rest := h.rest.drop q.stream, since := s.clock } ∧ t.responses = s.responses)

/-- RING_WRITE_DONE of a segment's last byte (R34, R37): the reservation becomes the newest LANDED entry with the
segment's header fields and arrival stamp. When the held write had no byte beyond the segment it completes with OK,
the Lander is in SEEK, and what the Unpacker and the lanes then do is a reaction. The request is granted: none of class
1 or 2 waits (R156). Model choices: notes/assumptions/13.md, notes/assumptions/26.md. -/
def Obligations.LastRingWriteLandsSegment : Prop :=
  ∀ (s : State) (b : Body) (start : Nat) (q : RingRequest) (h : HeldWrite), Memory.wf s.mem = true →
    s.grants .lander = true → s.lander = .body b → b.start = some start → b.request = some q → s.held = some h →
    h.chute = .inflow → 0 < q.stream →
    16 + b.header.length + 4 + (4 - b.header.length % 4) % 4 ≤ b.landed + q.bytes.length →
    ∃ t, exec .ringWriteDone s = .next t ∧
      t.landed = s.landed ++ [⟨⟨start, b.header, b.stamp⟩, .landed⟩] ∧
      BytesKeptBut (ringAddr q.offset) q.bytes.length s t ∧
      (q.bytes.length = 8 ∨ s.badWords.contains (ringAddr q.offset / 8) = false →
        ∀ i, i < q.bytes.length → memRead t.mem (ringAddr q.offset + i) = q.bytes.getD i 0) ∧
      (h.rest.length ≤ q.stream →
        t.steady = { s with lander := .seek [], held := none, responses := s.responses ++ [.ok],
                            landed := s.landed ++ [⟨⟨start, b.header, b.stamp⟩, .landed⟩] : State }.steady)

/-- INFLOW_HOLD_TIMEOUT (R35, R36): an inflow write held longer than the hold limit of the profile applied completes
with an error and its bytes are discarded; the segment in BODY is cut with a CUT notice of the bytes landed, its ring
place is given back, and the Lander is in SEEK with a discard count of 0. Of a ring word outstanding then, which may
have been granted before (R156), the bytes alone are left open. That a timeout not yet due changes nothing is
the model's choice, notes/assumptions/2.md. Further model choices: notes/assumptions/10.md, notes/assumptions/17.md. -/
def Obligations.InflowTimeoutCutsSegment : Prop :=
  ∀ (s : State) (h : HeldWrite) (pr : Profile) (b : Body), s.held = some h → h.chute = .inflow → s.profile = some pr →
    s.lander = .body b →
    ((s.clock - h.since).toNat ≤ 10 * pr.holdLimit → exec .inflowHoldTimeout s = .next s) ∧
    (10 * pr.holdLimit < (s.clock - h.since).toNat →
      let cut := submit (segmentNotice .cut b.header b.stamp b.landed)
        { s with held := none, responses := s.responses ++ [.error], lander := .seek [], discarded := 0,
                 ringTail := b.start.getD s.ringTail,
                 ringUsed := if b.start.isSome then
                     s.ringUsed - (16 + b.header.length + 4 + (4 - b.header.length % 4) % 4)
                   else s.ringUsed }
      (b.request = none → exec .inflowHoldTimeout s = .next cut) ∧
      ∀ q, b.request = some q →
        ∃ t, exec .inflowHoldTimeout s = .next t ∧
          t = { cut with mem := t.mem, badWords := t.badWords, free := t.free } ∧
          (∀ w ∈ t.badWords, w ∈ s.badWords) ∧
          (Memory.wf s.mem = true → BytesKeptBut (ringAddr q.offset) q.bytes.length s t))

/-! ## The order chute and the executor -/

/-- An order write (R152): its enabled bytes join the assembly buffer in ascending order and it completes with OK; the
32nd byte makes a record, which joins the order queue, or is taken at once by an idle executor with an empty queue,
and the bytes after it begin the next; with the queue full the write is held at its next byte or before its response,
its timer starting. Model choices: notes/assumptions/13.md, notes/assumptions/14.md, notes/assumptions/26.md. -/
def Obligations.OrderBytesAssembleRecords : Prop :=
  ∀ (s : State) (off : BitVec 12) (be : Enables) (d : Beat), s.held = none → s.engine = .active → be ≠ 0 →
    s.assembly.length < 32 →
    let bs := s.assembly ++ enabledBytes be d
    (bs.length < 32 → exec (.orderChuteWrite off be d) s =
      .next { portTaken s with assembly := bs, responses := s.responses ++ [.ok] }) ∧
    (32 ≤ bs.length → s.orderQueue.length < 32 → s.inHand.isSome → exec (.orderChuteWrite off be d) s =
      .next { portTaken s with assembly := bs.drop 32, orderQueue := s.orderQueue ++ [orderOf (bs.take 32)],
                               responses := s.responses ++ [.ok] }) ∧
    (32 ≤ bs.length → s.orderQueue = [] → s.inHand = none → exec (.orderChuteWrite off be d) s =
      .next { portTaken s with assembly := bs.drop 32, inHand := some (orderOf (bs.take 32)),
                               responses := s.responses ++ [.ok] }) ∧
    (32 ≤ bs.length → 32 ≤ s.orderQueue.length → exec (.orderChuteWrite off be d) s =
      .next { portTaken s with assembly := bs.take 32,
                               held := some { chute := .order, rest := bs.drop 32, since := s.clock,
                                              addr := BitVec.ofNat 35 (0x300000 + 8 * (off.toNat / 8)) } })

/-- A record waiting for the queue (R152): with a place free it enters the queue, the write goes on with its bytes
left and completes with OK; the expiry of the hold instead answers an error, empties the buffer, and gives one ACCESS
report with the write's address and the count of bytes discarded. That a timeout not yet due, and a record that finds no
place, change nothing is the model's choice, notes/assumptions/2.md. Further model choices: notes/assumptions/14.md. -/
def Obligations.HeldOrderIsQueuedOrDiscarded : Prop :=
  ∀ (s : State) (h : HeldWrite) (o : Order) (pr : Profile), s.held = some h → h.chute = .order →
    s.assembly.length = 32 → h.rest.length < 32 → s.inHand = some o → s.profile = some pr →
    (s.orderQueue.length < 32 → exec .orderRecordQueued s =
      .next { s with held := none, assembly := h.rest, orderQueue := s.orderQueue ++ [orderOf s.assembly],
                     responses := s.responses ++ [.ok] }) ∧
    (32 ≤ s.orderQueue.length → exec .orderRecordQueued s = .next s) ∧
    ((s.clock - h.since).toNat ≤ 10 * pr.holdLimit → exec .orderHoldTimeout s = .next s) ∧
    (10 * pr.holdLimit < (s.clock - h.since).toNat → exec .orderHoldTimeout s =
      .next (submit
        { kind := .access, code := 7, tag := 0, stamp := 0, key := ⟨0, 0, 0⟩, lane := 0,
          detailA := BitVec.ofNat 32 h.addr.toNat, detailB := BitVec.ofNat 32 (h.addr.toNat / 4294967296),
          detailC := BitVec.ofNat 32 (32 + h.rest.length), detailD := 0 }
        { s with held := none, assembly := [], responses := s.responses ++ [.error] }))

/-- The orders answered with no effect of their own (R18, R20, R21, R110, R116, R125, R145, R153): the ORDER DONE of
each case, after which the executor takes the oldest order of the queue, if there is one. Model choices:
notes/assumptions/19.md, notes/assumptions/26.md. -/
def Obligations.OrdersWithoutEffectAreAnswered : Prop :=
  (∀ s : State, (∀ o os, s.orderQueue = o :: os → finishOrder s = { s with inHand := some o, orderQueue := os }) ∧
    (s.orderQueue = [] → finishOrder s = { s with inHand := none })) ∧
  ∀ (s : State) (o : Order), s.inHand = some o →
    let done (oc : OrderOutcome) := Host.Outcome.next (φ := Fault) (ρ := Refusal)
      (finishOrder (submit (orderDone o oc 0 0) s))
    (o.kind.toNat = 0 ∨ 9 < o.kind.toNat → exec .unknownOrder s = done .unknownOrder) ∧
    (o.kind = 1 → 3 < o.lane.toNat → exec .queuePlate s = done .badField) ∧
    (o.kind = 1 → o.lane.toNat ≤ 3 → s.findPage o.key = none → exec .queuePlate s = done .noPage) ∧
    (o.kind = 1 → o.lane.toNat ≤ 3 → (s.findPage o.key).isSome → o.tag ∈ liveTags s →
      exec .queuePlate s = done .duplicateTag) ∧
    (∀ l : LaneId, o.kind = 1 → o.lane.toNat = l.val → (s.findPage o.key).isSome → o.tag ∉ liveTags s →
      16 ≤ (s.lane l).queue.length → exec .queuePlate s = done .queueFull) ∧
    (o.kind = 2 → o.tag ∉ liveTags s → exec .withdrawPlate s = done .noPlate) ∧
    (o.kind = 3 → s.findPage o.key = none → exec .purgePage s = done .noPage) ∧
    (∀ f p, o.kind = 3 → s.present o.key = some (f, p) → (0 < p.lockCount ∨ p.purgePending.isSome) →
      exec .purgePage s = done .busy) ∧
    (o.kind = 4 → (s.findPage o.key).isSome → exec .openLocalPage s = done .duplicatePage) ∧
    (o.kind = 4 → s.findPage o.key = none → s.freeFrame = none → exec .openLocalPage s = done .noFrame) ∧
    (o.kind = 5 → s.findPage o.key = none → exec .closeLocalPage s = done .noPage) ∧
    (∀ f p, o.kind = 5 → s.present o.key = some (f, p) → p.state ≠ .localPage →
      exec .closeLocalPage s = done .noPage) ∧
    (o.kind = 6 → o.key ≠ ⟨0, 0, 0⟩ → s.findPage o.key = none → exec .setProof s = done .noPage) ∧
    (o.kind = 7 → 3 < o.lane.toNat → exec .runLane s = done .badField) ∧
    (o.kind = 8 → 3 < o.lane.toNat → exec .stopLane s = done .badField) ∧
    (∀ l : LaneId, o.kind = 7 → o.lane.toNat = l.val → (s.lane l).mode = .fault → exec .runLane s = done .linkDown) ∧
    (∀ l : LaneId, o.kind = 7 → o.lane.toNat = l.val → (s.lane l).mode = .run → exec .runLane s = done .done) ∧
    (∀ l : LaneId, o.kind = 8 → o.lane.toNat = l.val → (s.lane l).mode ≠ .run → exec .stopLane s = done .done)

/-- QUEUE PLATE accepted (R116, R154): ORDER DONE ACCEPTED with the clamped allowance comes first, then the plate's LATE
report if its latest start has passed (R121). A record with the order's fields stands in the lane's queue, QUEUED or
already LOADING: a rush plate behind the last rush plate, or at the front if there is none, any other at the back (R118;
that a returned plate also keeps its place before it is the model's reading, notes/assumptions/23.md). The queue's other
plates keep their order, the other lanes' queues and all that no reaction touches stay. Further model choices:
notes/assumptions/19.md, notes/assumptions/26.md. -/
def Obligations.AcceptedPlateIsQueued : Prop :=
  ∀ (s : State) (o : Order) (l : LaneId), s.inHand = some o → o.kind = 1 → o.lane.toNat = l.val →
    (s.findPage o.key).isSome → o.tag ∉ liveTags s → (s.lane l).queue.length < 16 →
    let said := submit (orderDone o .accepted (max 1 (min 3 o.allowance.toNat)) 0) s
    let tags (q : List Plate) := q.map Plate.tag
    ∃ t p, exec .queuePlate s = .next t ∧ p ∈ (t.lane l).queue ∧
      p.tag = o.tag ∧ p.key = o.key ∧ p.lane = l ∧ p.allowance = max 1 (min 3 o.allowance.toNat) ∧ p.attempt = 1 ∧
      p.rush = o.rush ∧ p.release = o.release ∧ p.latestStart = o.latestStart ∧ p.withdrawPending = false ∧
      p.spoil = none ∧ (p.state = .queued ∨ p.state = .loading) ∧ said.reports <+: t.reports ∧
      (2147483648 ≤ (s.clock - o.latestStart).toNat → p.lateReported = false) ∧
      ((s.clock - o.latestStart).toNat < 2147483648 → p.lateReported = true ∧
        (submit { kind := .late, code := 0, tag := o.tag, stamp := 0, key := o.key, lane := o.lane,
                  detailA := o.latestStart, detailB := 1, detailC := 0, detailD := 0 } said).reports <+: t.reports) ∧
      (o.rush = false → tags (t.lane l).queue = tags (s.lane l).queue ++ [o.tag]) ∧
      (o.rush = true → ∀ before after, (s.lane l).queue = before ++ after →
        (∀ x ∈ after, x.rush = false ∧ x.returned = false) →
        (∀ x, before.getLast? = some x → x.rush = true ∨ x.returned = true) →
        tags (t.lane l).queue = tags before ++ o.tag :: tags after) ∧
      OtherLanesKept l s t ∧ t.steady = (finishOrder s).steady ∧ (Memory.wf s.mem = true → BytesKeptBut 0 0 s t)

/-- Local pages. OPEN LOCAL PAGE done (R20, R2, R4): the lowest-numbered FREE frame takes a LOCAL page with the
order's key and size, every strip GOOD, no flag set, version 1, no lock, and the open stamp of the clock; nothing else
changes but the order and its answer. CLOSE LOCAL PAGE done (R21): the page is CLOSED with the close stamp of the
clock, with its PAGE CLOSED report of code 1 and then ORDER DONE DONE; what the lanes then choose is a reaction. Model
choices: notes/assumptions/19.md, notes/assumptions/26.md. -/
def Obligations.LocalPagesOpenAndClose : Prop :=
  (∀ (s : State) (o : Order) (f : Nat), s.inHand = some o → o.kind = 4 → s.findPage o.key = none →
    f < s.pages.length → s.page f = none → (∀ g, g < f → s.page g ≠ none) →
    (1 ≤ o.tw.toNat ∧ o.tw.toNat ≤ 64 ∧ 1 ≤ o.th.toNat ∧ o.th.toNat ≤ 128 ∧ 1 ≤ o.key.page.toNat ∧
      o.key.separation.toNat ≤ 3 →
      exec .openLocalPage s = .next (finishOrder (submit (orderDone o .done 0 0)
        { s with pages := s.pages.set f (some
          { key := o.key, state := .localPage, localFlag := true, tw := o.tw.toNat, th := o.th.toNat, screenSlot := 0,
            version := 1, lockCount := 0, strips := List.replicate (o.th.toNat * 16) .good,
            tiles := List.replicate (o.tw.toNat * o.th.toNat) ⟨false, false⟩, damaged := 0, photos := [],
            photoFill := 0, deferred := [], purgePending := none, openStamp := s.clock, closeStamp := none }) }))) ∧
    (¬ (1 ≤ o.tw.toNat ∧ o.tw.toNat ≤ 64 ∧ 1 ≤ o.th.toNat ∧ o.th.toNat ≤ 128 ∧ 1 ≤ o.key.page.toNat ∧
      o.key.separation.toNat ≤ 3) →
      exec .openLocalPage s = .next (finishOrder (submit (orderDone o .badField 0 0) s)))) ∧
  ∀ (s : State) (o : Order) (f : Nat) (p : Page), s.inHand = some o → o.kind = 5 → s.present o.key = some (f, p) →
    p.state = .localPage →
    let q := { p with state := PageState.closed, closeStamp := some s.clock }
    ∃ t, exec .closeLocalPage s = .next t ∧
      t.steady = (finishOrder { s with pages := s.pages.set f (some q) }).steady ∧
      (submit (orderDone o .done 0 0) (submit
        { kind := .pageClosed, code := 1, tag := 0, stamp := 0, key := p.key, lane := 0,
          detailA := BitVec.ofNat 32 p.damaged, detailB := p.openStamp, detailC := p.version,
          detailD := BitVec.ofNat 32 f } s)).reports <+: t.reports ∧
      (Memory.wf s.mem = true → BytesKeptBut 0 0 s t)

/-- SET PROOF done (R110): the zero key unbinds, and a present page's key binds it, with no other effect than the
answer. Model choices: notes/assumptions/19.md, notes/assumptions/26.md. -/
def Obligations.ProofBindingIsSet : Prop :=
  ∀ (s : State) (o : Order), s.inHand = some o → o.kind = 6 →
    (o.key = ⟨0, 0, 0⟩ → exec .setProof s =
      .next (finishOrder (submit (orderDone o .done 0 0) { s with proof := none }))) ∧
    (∀ f, o.key ≠ ⟨0, 0, 0⟩ → s.findPage o.key = some f → exec .setProof s =
      .next (finishOrder (submit (orderDone o .done 0 0) { s with proof := some (o.key, f) })))

/-- WITHDRAW PLATE of a plate that is not on the drum (R124, R125): its PLATE OUTCOME WITHDRAWN with cause ORDER, then
ORDER DONE WITHDRAWN; its record is gone and its tag free. A LOADING plate also gives back its rows, its context and its
back place, which a lane in RUN may fill again with its next plate, and its page has one lock less (R12), which a lane
in RUN may take. A plate with a withdraw pending is answered BUSY. Model choices: notes/assumptions/19.md,
notes/assumptions/26.md. -/
def Obligations.WithdrawnPlateLeavesQueue : Prop :=
  ∀ (s : State) (o : Order) (l : LaneId) (p : Plate), QueuesSafe s → s.inHand = some o → o.kind = 2 →
    p ∈ (s.lane l).queue → p.tag = o.tag →
    (p.withdrawPending = true → exec .withdrawPlate s = .next (finishOrder (submit (orderDone o .busy 0 0) s))) ∧
    (p.withdrawPending = false → p.state = .queued ∨ p.state = .loading →
      let said := submit (orderDone o .withdrawn 0 0) (submit (plateOutcome p 4 5) s)
      ∃ t, exec .withdrawPlate s = .next t ∧ o.tag ∉ liveTags t ∧ said.reports <+: t.reports ∧
        (p.state = .queued → t = finishOrder (submit (orderDone o .withdrawn 0 0)
          (removePlate l o.tag (submit (plateOutcome p 4 5) s)))) ∧
        (p.state = .loading →
          (∀ r ∈ (t.lane l).buffer, r.mark = .front) ∧
          (t.lane l).queue.map Plate.tag = ((s.lane l).queue.filter fun x => x.tag != o.tag).map Plate.tag ∧
          ((s.lane l).mode ≠ .run → (t.lane l).back = none ∧ (t.lane l).backCtx = none ∧
            (t.lane l).queue = (s.lane l).queue.filter fun x => x.tag != o.tag) ∧
          (NoLaneRuns s → t.reports = said.reports ∧
            ∀ f g, s.present p.key = some (f, g) → ∃ h, t.page f = some h ∧ h.lockCount = g.lockCount - 1 ∧
              h.content = g.content)))

/-- WITHDRAW PLATE of a plate on the drum (R125, R138): withdraw pending is set and the order waits; in EXPOSING or
FINISHING the lane also sends CANCEL, the plate enters CANCELLING, the owed rows become 0 and its rows and context are
dropped; in CANCELLING no second CANCEL is sent. -/
def Obligations.WithdrawOnDrumCancels : Prop :=
  ∀ (s : State) (o : Order) (l : LaneId) (p : Plate), QueuesSafe s → s.inHand = some o → o.kind = 2 →
    p ∈ (s.lane l).queue → p.tag = o.tag → p.withdrawPending = false → p.state.onDrum = true →
    ∃ t q, exec .withdrawPlate s = .next t ∧ (t.lane l).front = some q ∧
      q = { p with state := .cancelling, withdrawPending := true } ∧ t.reports = s.reports ∧
      OtherLanesKept l s t ∧ t.steady.pages = s.steady.pages ∧ t.mem = s.mem ∧
      (p.state ≠ .cancelling → (t.lane l).sent = (s.lane l).sent ++ [.cancel p.tag] ∧ (t.lane l).owed = 0 ∧
        (t.lane l).frontCtx = none ∧ (t.lane l).buffer = (s.lane l).buffer.filter fun r => r.mark != .front) ∧
      (p.state = .cancelling → (t.lane l).sent = (s.lane l).sent ∧ (t.lane l).buffer = (s.lane l).buffer)

/-- PURGE PAGE and PURGE_COMPLETE (R18, R19, R68, R127). With no lock and no segment of the page in the Unpacker the
purge is done at once; while the Unpacker holds the page, a remake that has its slot and waits for its reads among its
segments, it waits, with the order's tag, but for a PATCHES stall, which it ends. A purge done gives, in this order, a
PLATE OUTCOME PURGED for every QUEUED plate of the page, which is gone, PAGE PURGED, and ORDER DONE DONE; the page's
deferred entries are DONE and leave the ring as far as reclaim goes, its patches and their slots are free, the proof is
unbound from it, and its record is FREE. PURGE_COMPLETE does so for the purge that waited, at the end of the segment
that held the page (R14), which is DONE too. Model choices: notes/assumptions/8.md, notes/assumptions/26.md,
notes/assumptions/33.md; the key and lane of the ORDER DONE are notes/assumptions/19.md. -/
def Obligations.PurgeFreesPageOrWaits : Prop :=
  (∀ (s : State) (o : Order) (f : Nat) (p : Page), QueuesSafe s → s.inHand = some o → o.kind = 3 →
    s.present o.key = some (f, p) → p.lockCount = 0 → p.purgePending = none →
    (s.unpackerPage ≠ some f →
      exec .purgePage s = .next (finishOrder (purged f p o.tag p.deferred s))) ∧
    (s.unpackerPage = some f → (∀ g h i, s.unpacker ≠ .stalled g .patches h i) →
      exec .purgePage s =
        .next (finishOrder { s with pages := s.pages.set f (some { p with purgePending := some o.tag }) })) ∧
    (∀ g h i, s.unpackerPage = some f → s.unpacker = .stalled g .patches h i →
      let u := purged f p o.tag (g.offset :: p.deferred) s
      ∃ t, exec .purgePage s = .next t ∧ t.steady = (finishOrder u).steady ∧ u.reports <+: t.reports ∧
        (NoLaneRuns s → t.reports = u.reports) ∧
        (∀ l, (t.lane l).queue.map Plate.tag = (u.lane l).queue.map Plate.tag) ∧
        (Memory.wf s.mem = true → BytesKeptBut 0 0 s t))) ∧
  ∀ (s : State) (g : Segment) (f : Nat) (p : Page) (tag : Tag), QueuesSafe s → s.unpacker = .working g .applied →
    s.unpackerPage = some f → s.page f = some p → p.purgePending = some tag →
    let u := purged f p tag (g.offset :: p.deferred) s
    ∃ t, exec .purgeComplete s = .next t ∧ t.steady = u.steady ∧ u.reports <+: t.reports ∧
      (NoLaneRuns s → t.reports = u.reports) ∧
      (∀ l, (t.lane l).queue.map Plate.tag = (u.lane l).queue.map Plate.tag) ∧
      (Memory.wf s.mem = true → BytesKeptBut 0 0 s t)

/-- RUN LANE and STOP LANE that change the mode (R132, R145): the MODE notice with cause ORDER, then DONE. STOP forgets
the last held notice (R120). RUN then makes the START test (R134): with no front plate, drum-ready set and the back
plate buffered up to the preload, START is sent and the plate is EXPOSING; after it the lane chooses a plate for an
empty back place (R119). Model choices: notes/assumptions/19.md, notes/assumptions/26.md. -/
def Obligations.LaneOrdersChangeMode : Prop :=
  ∀ (s : State) (o : Order) (l : LaneId), s.inHand = some o → o.lane.toNat = l.val →
    (o.kind = 8 → (s.lane l).mode = .run → exec .stopLane s =
      .next (finishOrder (submit (orderDone o .done 0 0) (submit (modeByOrder l .stop)
        (modLane l (fun L => { L with mode := .stop, lastHeld := none }) s))))) ∧
    (o.kind = 7 → (s.lane l).mode = .stop →
      let said := submit (orderDone o .done 0 0) (submit (modeByOrder l .run)
        (modLane l (fun L => { L with mode := .run }) s))
      ((s.lane l).front ≠ none ∨ (s.lane l).drumReady = false ∨
        (∃ c, (s.lane l).backCtx = some c ∧
          (rowsOf .back (s.lane l).buffer).length < min (s.preload l) (c.ctx.th * 256)) →
        (s.lane l).back ≠ none → exec .runLane s = .next (finishOrder said)) ∧
      ((s.lane l).back = none → exec .runLane s = .next (finishOrder (choose l said))) ∧
      ((s.lane l).queue = [] → exec .runLane s =
        .next (finishOrder (modLane l (fun L => { L with lastHeld := none }) said))) ∧
      ∀ p c, (s.lane l).front = none → (s.lane l).drumReady = true → (s.lane l).back = some p →
        (s.lane l).backCtx = some c → min (s.preload l) (c.ctx.th * 256) ≤ (rowsOf .back (s.lane l).buffer).length →
        exec .runLane s = .next (finishOrder (choose l (modLane l (fun L => { L with
          sent := L.sent ++ [.start p.tag (c.ctx.th * 256) (c.ctx.tw * 32)], lastSent := s.clock
          queue := L.queue.map fun x =>
            if x.tag = p.tag then { x with state := .exposing, returned := false } else x
          drumReady := false, owed := 0, frontCtx := some c, backCtx := none
          buffer := L.buffer.map fun r => { r with mark := .front } }) said))))

/-- A load judged (R162 to R165, R168), from the words read before and those memory still holds: a valid COMMIT or WARM
RESET latches the profile and makes the engine ACTIVE; a valid RELOAD latches it and is answered DONE; a rejected load
changes neither engine nor profile, and a RELOAD is answered REJECTED with the same reason and offset. Each gives its
report, and the loader is IDLE. Words still to be read wait while a request of classes 1 to 4 waits, or the Unpacker's
that came before, or the Unpacker's that comes before the load's second request from now (R156; the model's choice of
what waits, notes/assumptions/13.md), but for a load that has read a word with an uncorrectable error, which is judged
at once. No request of the loader's waits afterwards. RELOAD PROFILE starts its load from byte 0 and stays in hand.
Further model choices: notes/assumptions/19.md, notes/assumptions/26.md, notes/assumptions/36.md. -/
def Obligations.ProfileLoadIsJudged : Prop :=
  (∀ (s : State) (o : Order), s.inHand = some o → o.kind = 9 → s.loader = none →
    exec .reloadProfile s = .next { s with loader := some ⟨.reload, []⟩ }) ∧
  (∀ s : State, s.grants .profileLoader = true ↔ (∀ q ∈ s.requests, 5 ≤ requestClass s q) ∧
    s.requests.idxOf .profileLoader ≤ s.requests.idxOf .unpacker) ∧
  (∀ (s : State) (ld : Load), s.loader = some ld → ld.got.length < 512 → none ∉ ld.got →
    s.grants .profileLoader = false ∨
      .unpacker ∈ s.waiting ∧ ld.got.length < 511 ∧ s.badWords.contains ld.got.length = false →
    exec .profileLoadJudged s = .next s) ∧
  ∀ (s : State) (ld : Load), s.loader = some ld →
    512 ≤ ld.got.length ∨ none ∈ ld.got ∨ s.grants .profileLoader = true ∧
      (.unpacker ∉ s.waiting ∨ 511 ≤ ld.got.length ∨ s.badWords.contains ld.got.length = true) →
    let u : State := { s with waiting := s.waiting.filter (· != .profileLoader) }
    (∀ p, judge (ld.readTo 512 s).got = .valid p → ld.cause ≠ .reload → exec .profileLoadJudged s =
      .next (submit (profileLoadedReport ld.cause p.generation)
        { u with loader := none, profile := some p, engine := .active })) ∧
    (∀ p o, judge (ld.readTo 512 s).got = .valid p → ld.cause = .reload → s.inHand = some o → o.kind = 9 →
      ∃ t, exec .profileLoadJudged s = .next t ∧ t.profile = some p ∧ t.engine = s.engine ∧ t.loader = none ∧
        (submit (orderDone o .done 0 0) (submit (profileLoadedReport .reload p.generation) s)).reports <+: t.reports ∧
        ((∀ l, (s.lane l).back = none) → t = finishOrder (submit (orderDone o .done 0 0)
          (submit (profileLoadedReport .reload p.generation) { u with loader := none, profile := some p })))) ∧
    (∀ r off, judge (ld.readTo 512 s).got = .invalid r off → ld.cause ≠ .reload → exec .profileLoadJudged s =
      .next (submit (profileRejectedReport ld.cause r off) { u with loader := none })) ∧
    (∀ r off o, judge (ld.readTo 512 s).got = .invalid r off → ld.cause = .reload → s.inHand = some o → o.kind = 9 →
      exec .profileLoadJudged s = .next (finishOrder (submit (orderDone o .rejected r off)
        (submit (profileRejectedReport .reload r off) { u with loader := none }))))

/-- The order of the judging (R162): an unreadable word, then signature, version, checksum, and then the fields in
ascending order of byte offset, the first out of its range (R161) being reported by its offset (R160): the hold limit;
each lane's polarity, preload and high-water level; each slot's cell vector; each mark's kind, stroke and dot size. A
record with no field out of range is valid, and its profile holds the record's fields. -/
def Obligations.JudgingFollowsTestOrder : Prop :=
  ∀ (got : List (Option (List Byte))),
    (none ∈ got → judge got = .invalid 3 0) ∧
    (none ∉ got →
      let bs := got.flatMap fun w => w.getD []
      let byte (i : Nat) : Nat := (bs.getD i 0).toNat
      let half (i : Nat) : Nat := leNat ((bs.drop i).take 2)
      (bs.take 4 ≠ [0x44, 0x48, 0x34, 0x36] → judge got = .invalid 1 0) ∧
      (bs.take 4 = [0x44, 0x48, 0x34, 0x36] → half 4 ≠ 1 → judge got = .invalid 2 0) ∧
      (bs.take 4 = [0x44, 0x48, 0x34, 0x36] → half 4 = 1 →
        (crc32 (bs.take 4092)).toNat ≠ leNat ((bs.drop 4092).take 4) → judge got = .invalid 3 0) ∧
      (bs.take 4 = [0x44, 0x48, 0x34, 0x36] → half 4 = 1 →
        (crc32 (bs.take 4092)).toNat = leNat ((bs.drop 4092).take 4) →
        let laneFails (o e : Nat) : Prop :=
          o = e ∧ 1 < byte e ∨
          o = e + 2 ∧ (half (e + 2) = 0 ∨ 256 < half (e + 2) ∨ half (e + 4) < half (e + 2)) ∨
          o = e + 4 ∧ (half (e + 4) < 16 ∨ 256 < half (e + 4))
        let slotFails (o e : Nat) : Prop :=
          o = e ∧ (15 < byte e ∨ byte e = 0 ∧ byte (e + 1) = 0) ∨ o = e + 1 ∧ 15 < byte (e + 1)
        let markFails (o e : Nat) : Prop :=
          o = e ∧ 3 < byte e ∨
          o = e + 10 ∧ byte e = 2 ∧ (byte (e + 10) = 0 ∨ 64 < byte (e + 10)) ∨
          o = e + 11 ∧ byte e = 3 ∧ (byte (e + 11) = 0 ∨ 32 < byte (e + 11))
        let fails (o : Nat) : Prop :=
          o = 6 ∧ (half 6 = 0 ∨ 250 < half 6) ∨ (∃ n, n < 4 ∧ laneFails o (16 + 8 * n)) ∨
          (∃ n, n < 4 ∧ slotFails o (48 + 288 * n)) ∨ (∃ m, m < 8 ∧ markFails o (1200 + 16 * m))
        (∀ o, fails o → (∀ i, i < o → ¬ fails i) → judge got = .invalid 4 o) ∧
        ((∀ o, ¬ fails o) → ∃ p, judge got = .valid p ∧ p.holdLimit = half 6 ∧
          p.generation.toNat = leNat ((bs.drop 8).take 4) ∧
          (∀ l : LaneId,
            p.levels.get l = ⟨if byte (16 + 8 * l.val) = 0 then .positive else .negative,
              half (18 + 8 * l.val), half (20 + 8 * l.val)⟩) ∧
          (∀ n : Fin 4,
            p.slots.get n = ⟨byte (48 + 288 * n.val), byte (49 + 288 * n.val),
              (bs.drop (50 + 288 * n.val)).take 17, (bs.drop (80 + 288 * n.val)).take 256⟩) ∧
          p.marks = (List.range 8).map fun m =>
            let e := 1200 + 16 * m
            { kind := if byte e = 1 then MarkKind.solid else if byte e = 2 then .cross else if byte e = 3 then .slug
                else .off
              x := half (e + 2), y := half (e + 4), w := half (e + 6), h := half (e + 8)
              stroke := byte (e + 10), dot := byte (e + 11) })) ∧
      (∀ p, judge got = .valid p →
        1 ≤ p.holdLimit ∧ p.holdLimit ≤ 250 ∧
        (∀ l, 1 ≤ (p.levels.get l).preload ∧ (p.levels.get l).preload ≤ (p.levels.get l).highWater ∧
          16 ≤ (p.levels.get l).highWater ∧ (p.levels.get l).highWater ≤ 256) ∧
        (∀ n, (p.slots.get n).a ≤ 15 ∧ (p.slots.get n).b ≤ 15 ∧ 0 < (p.slots.get n).a + (p.slots.get n).b) ∧
        ∀ m ∈ p.marks, (m.kind = .cross → 1 ≤ m.stroke ∧ m.stroke ≤ 64) ∧ (m.kind = .slug → 1 ≤ m.dot ∧ m.dot ≤ 32)))

/-! ## Lane queues and lanes -/

/-- PLATE_LATE (R121): a QUEUED plate whose latest start the clock has passed gives its one LATE report and is marked;
otherwise nothing happens. Model choices: notes/assumptions/1.md, notes/assumptions/2.md. -/
def Obligations.LatePlateIsReportedOnce : Prop :=
  ∀ (s : State) (l : LaneId) (p : Plate), QueuesSafe s → p ∈ (s.lane l).queue →
    (p.state = .queued → p.lateReported = false → (s.clock - p.latestStart).toNat < 2147483648 →
      exec (.plateLate p.tag) s = .next (modLane l
        (fun L => { L with queue := L.queue.map fun x => if x.tag = p.tag then { x with lateReported := true } else x })
        (submit { kind := .late, code := 0, tag := p.tag, stamp := 0, key := p.key, lane := BitVec.ofNat 8 l.val,
                  detailA := p.latestStart, detailB := BitVec.ofNat 32 p.attempt, detailC := 0, detailD := 0 } s))) ∧
    (p.state ≠ .queued ∨ p.lateReported = true ∨ 2147483648 ≤ (s.clock - p.latestStart).toNat →
      exec (.plateLate p.tag) s = .next s)

/-- The page table's answer to a load request (R13, R79), with the reason of the first test that fails, and a lane's
choice (R12, R106, R119). Of the QUEUED plates in order, each refused one takes its held reason, and the first that is
granted is LOADING with the page's version and the profile's generation, its context latched by the lane's composer and
its page with one lock more. With none granted the first QUEUED plate's HELD notice is given, unless it is the last one
given (R120); with none QUEUED that last one is forgotten; outside RUN, or with a back plate, nothing is chosen. That a
first plate refused without a reason gives no HELD notice is the model's choice, notes/assumptions/25.md. -/
def Obligations.ChoiceLoadsEligiblePlate : Prop :=
  (∀ (s : State) (k : Key) (release : Bool),
    (s.findPage k = none → loadRequest s k release = .refused none) ∧
    ∀ f p, s.present k = some (f, p) →
      let tests : List (Bool × HeldReason) :=
        [(p.state != .closed, .pageOpen),
         (p.photos.any (·.state == .receiving) || s.unpackerPage == some f || p.purgePending.isSome, .revising),
         (p.deferred != [], .deferred), (p.damaged != 0 && !release, .damaged), (decide (4 ≤ p.lockCount), .lockLimit)]
      (∀ r, loadRequest s k release = .refused (some r) ↔ (tests.find? Prod.fst).map Prod.snd = some r) ∧
      (loadRequest s k release = .granted f ↔
        p.state = .closed ∧ (∀ r ∈ p.photos, r.state = .complete) ∧ s.unpackerPage ≠ some f ∧ p.purgePending = none ∧
        p.deferred = [] ∧ (p.damaged = 0 ∨ release = true) ∧ p.lockCount < 4)) ∧
  ∀ (s : State) (l : LaneId), QueuesSafe s →
    let held (x : Plate) : Option HeldReason :=
      match loadRequest s x.key x.release with
      | .refused (some r) => some r
      | _ => x.held
    ((s.lane l).mode ≠ .run ∨ (s.lane l).back ≠ none → choose l s = s) ∧
    ((s.lane l).mode = .run → (s.lane l).back = none →
      (∀ (qs ps : List Plate) (pl : Plate) (f : Nat) (p : Page) (pr : Profile),
        (s.lane l).queued = qs ++ pl :: ps → s.profile = some pr →
        (∀ x ∈ qs, ∃ r, loadRequest s x.key x.release = .refused r) →
        loadRequest s pl.key pl.release = .granted f → s.page f = some p →
        ∃ t, choose l s = t ∧ t.page f = some { p with lockCount := p.lockCount + 1 } ∧ OtherPagesKept f s t ∧
          (t.lane l).back = some { pl with state := .loading, held := none, version := some p.version,
                                           generation := some pr.generation } ∧
          (t.lane l).queue.filter (fun x => x.tag != pl.tag) =
            ((s.lane l).queue.filter fun x => x.tag != pl.tag).map
              (fun x => if x ∈ qs then { x with held := held x } else x) ∧
          (t.lane l).queue.map Plate.tag = (s.lane l).queue.map Plate.tag ∧ (t.lane l).lastHeld = none ∧
          (t.lane l).backCtx = some
            { ctx := { key := p.key, frame := f, tw := p.tw, th := p.th, version := p.version,
                       generation := pr.generation, slot := pr.slots.get (Fin.ofNat 4 p.screenSlot), marks := pr.marks,
                       polarity := (pr.levels.get l).polarity, attempt := pl.attempt }
              composed := 0, row := [] } ∧
          OtherLanesKept l s t ∧ t.reports = s.reports ∧ t.mem = s.mem) ∧
      ((s.lane l).queued = [] → choose l s = modLane l (fun L => { L with lastHeld := none }) s) ∧
      ∀ (pl : Plate) (ps : List Plate), (s.lane l).queued = pl :: ps →
        (∀ x ∈ (s.lane l).queued, ∃ r, loadRequest s x.key x.release = .refused r) →
        let refused := modLane l (fun L => { L with
          queue := L.queue.map fun x => if x.state = .queued then { x with held := held x } else x }) s
        (held pl = none → choose l s = refused) ∧
        ∀ r, held pl = some r →
          ((s.lane l).lastHeld = some (pl.tag, r) → choose l s = refused) ∧
          ((s.lane l).lastHeld ≠ some (pl.tag, r) → choose l s =
            modLane l (fun L => { L with lastHeld := some (pl.tag, r) }) (submit (heldNotice l pl r) refused)))

/-- LANE_ROW_COMPOSED where no span of the row meets a memory error (R107, R133, R136): the row of the front plate, or
of the back plate when the front plate has none left, joins the end of the buffer, each bit of it the composed pixel
from its span's lookup (R98, R99, R105); a front row placed in an empty buffer while rows are owed is sent at once, and
after the plate's last row FINISH (R138); a back row that fills the preload in RUN with drum-ready and no front plate
starts its plate (R134). A row with requests still to make or to be granted ends with the last of their grants, which
its class remembers; it waits as long as a request of a higher class waits, or that of a lane before it in its class,
or, with more than one request left, of any lane of its class, whose turn comes between (R156). Model choices:
notes/assumptions/13.md, notes/assumptions/42.md. -/
def Obligations.ComposedRowEntersBuffer : Prop :=
  ∀ (s : State) (l : LaneId) (c : Latched) (p : Page), s.engine = .active → s.page c.ctx.frame = some p →
    let span (tx : Nat) : SpanWork := c.row.getD tx (lookUpSpan s c.ctx.frame p tx c.composed)
    (∀ tx, tx < c.ctx.tw → (span tx).error s c.ctx.frame p tx c.composed = none) →
    (s.lane l).buffer.length < s.highWater l → c.composed < c.ctx.th * 256 →
    ((s.grantsRun (.composer l) (rowRequestsLeft s l c) = true ↔ rowRequestsLeft s l c = 0 ∨
      (∀ q ∈ s.requests, composerClass s l ≤ requestClass s q) ∧
        ∀ k, .composer k ∈ s.requests → composerClass s k = composerClass s l → k = l ∨ rowRequestsLeft s l c = 1 ∧
          let last := if composerClass s l = 1 then s.arbLast1 else s.arbLast4
          (l.val + 3 - last.val) % 4 ≤ (k.val + 3 - last.val) % 4)) ∧
    (s.grantsRun (.composer l) (rowRequestsLeft s l c) = false →
      (s.lane l).frontCtx = some c ∨ ((∀ d, (s.lane l).frontCtx = some d → d.ctx.th * 256 ≤ d.composed) ∧
        (s.lane l).backCtx = some c) →
      exec (.laneRowComposed l) s = .next s) ∧
    (s.grantsRun (.composer l) (rowRequestsLeft s l c) = true →
      ∃ (t : State) (bytes : List Byte), bytes.length = 32 * c.ctx.tw ∧
        (∀ tx j b, tx < c.ctx.tw → j < 32 → b < 8 → (bytes.getD (32 * tx + j) 0).getLsbD (7 - b) =
          composedPixel s c.ctx p (span tx).source (tx * 256 + 8 * j + b) c.composed) ∧
        let reads := 0 < rowAccesses s c
        let granted :=
          t.waiting = (if reads then s.waiting.filter (· != .composer l) else s.waiting) ∧
          t.arbLast1 = (if reads ∧ composerClass s l = 1 then l else s.arbLast1) ∧
          t.arbLast4 = if reads ∧ composerClass s l = 4 then l else s.arbLast4
        let put (L : Lane) := exec (.laneRowComposed l) s = .next t ∧ granted ∧
          t = { s with lanes := s.lanes.set l L, arbLast1 := t.arbLast1, arbLast4 := t.arbLast4, waiting := t.waiting }
        ((s.lane l).frontCtx = some c → (s.lane l).owed = 0 →
          put { s.lane l with buffer := (s.lane l).buffer ++ [⟨.front, bytes⟩]
                              frontCtx := some { c with composed := c.composed + 1, row := [] } }) ∧
        (∀ q, (s.lane l).frontCtx = some c → (s.lane l).front = some q → q.state = .exposing →
          (s.lane l).buffer = [] → 0 < (s.lane l).owed → c.composed + 1 < c.ctx.th * 256 →
          put { s.lane l with owed := (s.lane l).owed - 1, sent := (s.lane l).sent ++ [.row bytes], lastSent := s.clock
                              frontCtx := some { c with composed := c.composed + 1, row := [] } }) ∧
        (∀ q, (s.lane l).frontCtx = some c → (s.lane l).front = some q → q.state = .exposing →
          (s.lane l).buffer = [] → 0 < (s.lane l).owed → c.composed + 1 = c.ctx.th * 256 →
          put { s.lane l with owed := 0, sent := (s.lane l).sent ++ [.row bytes, .finish q.tag], lastSent := s.clock
                              frontCtx := some { c with composed := c.composed + 1, row := [] }
                              queue := (s.lane l).queue.map fun x =>
                                if x.tag = q.tag then { x with state := .finishing } else x }) ∧
        ((∀ d, (s.lane l).frontCtx = some d → d.ctx.th * 256 ≤ d.composed) → (s.lane l).backCtx = some c →
          ((s.lane l).mode ≠ .run ∨ (s.lane l).front ≠ none ∨ (s.lane l).drumReady = false ∨
            (rowsOf .back (s.lane l).buffer).length + 1 < min (s.preload l) (c.ctx.th * 256)) →
          put { s.lane l with buffer := (s.lane l).buffer ++ [⟨.back, bytes⟩]
                              backCtx := some { c with composed := c.composed + 1, row := [] } }) ∧
        (∀ q, QueuesSafe s → (∀ d, (s.lane l).frontCtx = some d → d.ctx.th * 256 ≤ d.composed) →
          (s.lane l).backCtx = some c → (s.lane l).mode = .run → (s.lane l).front = none →
          (s.lane l).drumReady = true → (s.lane l).back = some q →
          min (s.preload l) (c.ctx.th * 256) ≤ (rowsOf .back (s.lane l).buffer).length + 1 →
          exec (.laneRowComposed l) s = .next t ∧ granted ∧ OtherLanesKept l s t ∧
          (t.lane l).front = some { q with state := .exposing, returned := false } ∧
          (t.lane l).sent = (s.lane l).sent ++ [.start q.tag (c.ctx.th * 256) (c.ctx.tw * 32)] ∧
          (t.lane l).drumReady = false ∧ (t.lane l).owed = 0 ∧
          (t.lane l).frontCtx = some { c with composed := c.composed + 1, row := [] } ∧
          (t.lane l).buffer =
            ((s.lane l).buffer ++ [(⟨.back, bytes⟩ : BufferedRow)]).map fun r => { r with mark := .front }))

/-- An uncorrectable error met by a span is one in the words it reads (R74, R99): the patch slot's, or the line art's,
or else, under a photo whose row has come, the samples'; a span of a damaged tile meets none. A span in composition
keeps the error that a word read had when it was read, and meets those of the words it still reads (R155); a grant
changes nothing of it. LANE_ROW_COMPOSED with such errors in any tiles of the row (R109): each tile of line art or tone
has its STORE flag set (R72), and each patch entry is SPOILT (R73). A front plate in EXPOSING is spoiled with cause
STORE and cancelled (R122, R146). A back plate is given back (R123, R146): its rows and context are gone and it is
QUEUED first with its attempt unchanged, or chosen again at once where its lane is in RUN. Model choices:
notes/assumptions/13.md, notes/assumptions/35.md, notes/assumptions/42.md. -/
def Obligations.StoreErrorSpoilsFrontPlate : Prop :=
  (∀ (s : State) (f : Nat) (p : Page) (tx y : Nat),
    let bad (a n : Nat) : Prop := ∃ i, i < n ∧ s.badWords.contains ((a + i) / 8) = true
    let art := bad (frameBase f + spanOffset p.tw tx y) 32
    spanError s f p tx y .hatch = none ∧
    (∀ n e, spanError s f p tx y (.patch n) = some e ↔
      e = .patchSlot n ∧ bad (0x4000000 + n * 8192 + y % 256 * 32) 32) ∧
    (∀ e, spanError s f p tx y (.page none) = some e ↔ e = .lineArt ∧ art) ∧
    ∀ r e, spanError s f p tx y (.page (some r)) = some e ↔
      e = .lineArt ∧ art ∨
      e = .tone ∧ ¬ art ∧ ¬ (r.state = .receiving ∧ r.nextRow ≤ (y - r.ty0 * 256) / r.scale) ∧
        bad (r.sampleAddr f ((tx * 256 - r.tx0 * 256) / r.scale) ((y - r.ty0 * 256) / r.scale)) (256 / r.scale)) ∧
  (∀ (s : State) (f : Nat) (p : Page) (tx y : Nat) (w : SpanWork),
    let addrs := spanAddrs f p tx y w.source
    (w.read.failed = none → (w.error s f p tx y = none ↔
      ∀ i, w.read.words ≤ i → i < addrs.length → s.badWords.contains (addrs.getD i 0 / 8) = false)) ∧
    (∀ k, w.read.failed = some k → w.error s f p tx y = ((spanReads f p tx y w.source)[k]?).map Prod.snd) ∧
    SpanWork.error s f p tx y { w with read := w.read.granted addrs s } = w.error s f p tx y) ∧
  ∀ (s : State) (l : LaneId) (c : Latched) (p : Page), QueuesSafe s → s.engine = .active →
    s.grantsRun (.composer l) (rowRequestsLeft s l c) = true → s.page c.ctx.frame = some p →
    (s.lane l).buffer.length < s.highWater l →
    c.composed < c.ctx.th * 256 → p.key = c.ctx.key → p.tw = c.ctx.tw → p.th = c.ctx.th →
    let ty := c.composed / 256
    let span (tx : Nat) : SpanWork := c.row.getD tx (lookUpSpan s c.ctx.frame p tx c.composed)
    let meets (tx : Nat) (e : ReadSource) : Prop :=
      tx < c.ctx.tw ∧ (span tx).error s c.ctx.frame p tx c.composed = some e
    let flagged (t : State) : Prop := ∀ tx e, meets tx e →
      (e = .lineArt ∨ e = .tone → ty * p.tw + tx < p.tiles.length →
        ∃ r, t.page c.ctx.frame = some r ∧ (r.flags tx ty).store = true) ∧
      ∀ n b, e = .patchSlot n → findPatch s.patches c.ctx.frame tx ty = some ⟨c.ctx.frame, tx, ty, n, b⟩ →
        findPatch t.patches c.ctx.frame tx ty = some ⟨c.ctx.frame, tx, ty, n, true⟩
    (∃ tx e, meets tx e) →
    (∀ q, (s.lane l).frontCtx = some c → (s.lane l).front = some q → q.state = .exposing →
      ∃ t, exec (.laneRowComposed l) s = .next t ∧ flagged t ∧
        (t.lane l).front = some { q with state := .cancelling, spoil := some .store } ∧
        (t.lane l).sent = (s.lane l).sent ++ [.cancel q.tag] ∧ (t.lane l).owed = 0 ∧ (t.lane l).frontCtx = none ∧
        (∀ r ∈ (t.lane l).buffer, r.mark = .back) ∧ OtherLanesKept l s t ∧
        (submit (plateOutcome q 2 4) s).reports <+: t.reports) ∧
    (∀ q, (∀ d, (s.lane l).frontCtx = some d → d.ctx.th * 256 ≤ d.composed) → (s.lane l).backCtx = some c →
      (s.lane l).back = some q →
      ∃ t, exec (.laneRowComposed l) s = .next t ∧ flagged t ∧ (t.lane l).sent = (s.lane l).sent ∧
        (t.lane l).front = (s.lane l).front ∧ (∀ r ∈ (t.lane l).buffer, r.mark = .front) ∧
        (∃ x ∈ (t.lane l).queue, x.tag = q.tag ∧ x.attempt = q.attempt ∧ x.spoil = none ∧
          (x.state = .queued ∨ (s.lane l).mode = .run ∧ x.state = .loading)) ∧
        (NoLaneRuns s → (t.lane l).backCtx = none ∧
          ∃ x, (t.lane l).queue = x :: (s.lane l).queue.filter (fun y => y.tag != q.tag) ∧
            x = { q with state := .queued, spoil := none, returned := true, lateReported := x.lateReported }))

/-- READY that fits (R134, R135): drum-ready is set; in RUN with the back plate buffered up to the preload the lane
sends START with tag, rows and row bytes, and the plate is EXPOSING with drum-ready clear, no rows owed and its rows
and context in the front place. -/
def Obligations.ReadyStartsBufferedPlate : Prop :=
  ∀ (s : State) (l : LaneId), (s.lane l).front = none → (s.lane l).drumReady = false → (s.lane l).mode ≠ .fault →
    ((s.lane l).mode = .stop ∨ (s.lane l).back = none ∨
      (∃ c, (s.lane l).backCtx = some c ∧
        (rowsOf .back (s.lane l).buffer).length < min (s.preload l) (c.ctx.th * 256)) →
      exec (.ready l) s =
        .next (modLane l (fun L => { L with lastMessage := some s.clock, drumReady := true }) s)) ∧
    (∀ p c, QueuesSafe s → (s.lane l).mode = .run → (s.lane l).back = some p → (s.lane l).backCtx = some c →
      min (s.preload l) (c.ctx.th * 256) ≤ (rowsOf .back (s.lane l).buffer).length →
      ∃ t, exec (.ready l) s = .next t ∧
        (t.lane l).front = some { p with state := .exposing, returned := false } ∧
        (t.lane l).sent = (s.lane l).sent ++ [.start p.tag (c.ctx.th * 256) (c.ctx.tw * 32)] ∧
        (t.lane l).drumReady = false ∧ (t.lane l).owed = 0 ∧ (t.lane l).frontCtx = some c ∧
        (t.lane l).buffer = (s.lane l).buffer.map (fun r => { r with mark := .front }) ∧ OtherLanesKept l s t)

/-- PULL for a front plate (R136, R137, R138, R142): with no row owed, the first of the buffered front rows up to n
are sent and the rest of n stays owed, or after the plate's last row FINISH is sent, the plate is FINISHING and
nothing is owed; with rows owed it is an underrun, which spoils the plate and sends CANCEL; while CANCELLING it is
absorbed. Model choices: notes/assumptions/20.md. -/
def Obligations.PullFeedsFrontPlate : Prop :=
  ∀ (s : State) (l : LaneId) (n : BitVec 16) (p : Plate), QueuesSafe s → (s.lane l).mode ≠ .fault →
    (s.lane l).front = some p → 1 ≤ n.toNat → n.toNat ≤ 64 →
    let buf := (s.lane l).buffer
    let m := min n.toNat (buf.takeWhile fun r => r.mark == .front).length
    let rows := (buf.take m).map fun r => SetterMsg.row r.bytes
    (∀ c, p.state = .exposing → (s.lane l).owed = 0 → (s.lane l).frontCtx = some c →
      (c.composed < c.ctx.th * 256 ∨ m = 0 ∨ rowsOf .front (buf.drop m) ≠ [] →
        exec (.pull l n) s = .next (modLane l (fun L => { L with
          lastMessage := some s.clock, owed := n.toNat - m, buffer := buf.drop m, sent := L.sent ++ rows,
          lastSent := if 0 < m then s.clock else L.lastSent }) s)) ∧
      (c.ctx.th * 256 ≤ c.composed → 0 < m → rowsOf .front (buf.drop m) = [] →
        exec (.pull l n) s = .next (modLane l (fun L => { L with
          lastMessage := some s.clock, owed := 0, buffer := buf.drop m, sent := L.sent ++ rows ++ [.finish p.tag],
          lastSent := s.clock,
          queue := L.queue.map fun x => if x.tag = p.tag then { x with state := .finishing } else x }) s))) ∧
    (p.state = .exposing → 0 < (s.lane l).owed →
      ∃ t, exec (.pull l n) s = .next t ∧
        (t.lane l).front = some { p with state := .cancelling, spoil := some .underrun } ∧
        (t.lane l).sent = (s.lane l).sent ++ [.cancel p.tag] ∧ (t.lane l).owed = 0 ∧ (t.lane l).frontCtx = none ∧
        (t.lane l).backCtx = (s.lane l).backCtx ∧ (t.lane l).buffer = buf.filter (fun r => r.mark != .front) ∧
        t.reports = (submit (plateOutcome p 2 1) s).reports ∧ OtherLanesKept l s t) ∧
    (p.state = .cancelling → exec (.pull l n) s =
      .next (modLane l (fun L => { L with lastMessage := some s.clock }) s))

/-- EXPOSED for the front plate in FINISHING or CANCELLING (R12, R124, R126, R139): its PLATE OUTCOME EXPOSED, then
TOO LATE for a withdraw that waited; the plate is gone and its tag free. The front place is then empty and no START is
sent, as drum-ready is clear while there is a front plate (R134, R135); and where no lane runs, which may take the lock
again, its page has one lock less. Model choices: notes/assumptions/12.md; the zero key and lane of the withdraw's
answer are notes/assumptions/19.md. -/
def Obligations.ExposedPlateLeavesLane : Prop :=
  ∀ (s : State) (l : LaneId) (p : Plate), QueuesSafe s → (s.lane l).mode ≠ .fault → (s.lane l).front = some p →
    p.state = .finishing ∨ p.state = .cancelling →
    ∃ t, exec (.exposed l p.tag) s = .next t ∧ p.tag ∉ liveTags t ∧
      (submit (plateOutcome p 1 0) s).reports <+: t.reports ∧
      (p.withdrawPending = true →
        (submit (withdrawDone p.tag .tooLate) (submit (plateOutcome p 1 0) s)).reports <+: t.reports) ∧
      (NoLaneRuns s ∨ (s.lane l).drumReady = false → (t.lane l).front = none ∧ (t.lane l).frontCtx = none ∧
        (∀ r ∈ (t.lane l).buffer, r.mark = .back) ∧ (t.lane l).sent = (s.lane l).sent) ∧
      (NoLaneRuns s → ∀ f g, s.present p.key = some (f, g) →
        ∃ h, t.page f = some h ∧ h.lockCount = g.lockCount - 1)

/-- EJECTED for the front plate in CANCELLING (R118, R122, R126, R140): a withdraw that waited makes it WITHDRAWN and
is answered; below its allowance the plate returns to the front of the queue with its next attempt, where the lane may
choose it again at once; at its allowance it is FAILED with the cause of its spoil. Model choices:
notes/assumptions/12.md; the zero key and lane of the withdraw's answer are notes/assumptions/19.md. -/
def Obligations.EjectedPlateIsResolved : Prop :=
  ∀ (s : State) (l : LaneId) (p : Plate), QueuesSafe s → (s.lane l).mode ≠ .fault → (s.lane l).front = some p →
    p.state = .cancelling →
    ∃ t, exec (.ejected l p.tag) s = .next t ∧
      (p.withdrawPending = true → p.tag ∉ liveTags t ∧
        (submit (withdrawDone p.tag .withdrawn) (submit (plateOutcome p 4 5) s)).reports <+: t.reports) ∧
      (p.withdrawPending = false → p.attempt < p.allowance → NoLaneRuns s →
        ∃ q, (t.lane l).queue = q :: (s.lane l).queue.filter (fun x => x.tag != p.tag) ∧
          q = { p with state := .queued, attempt := p.attempt + 1, spoil := none, returned := true,
                       lateReported := q.lateReported } ∧
          (t.lane l).frontCtx = none ∧ ∀ r ∈ (t.lane l).buffer, r.mark = .back) ∧
      (p.withdrawPending = false → p.attempt < p.allowance → (s.lane l).drumReady = false →
        ∃ q ∈ (t.lane l).queue, q.tag = p.tag ∧ q.attempt = p.attempt + 1 ∧ q.spoil = none ∧
          (q.state = .queued ∨ (s.lane l).mode = .run ∧ (s.lane l).back = none ∧ q.state = .loading)) ∧
      (p.withdrawPending = false → p.attempt = p.allowance → p.tag ∉ liveTags t ∧
        ∀ c, p.spoil = some c → (submit (plateOutcome p 3 c.code) s).reports <+: t.reports)

/-- FAULT (R132, R141, R144): the lane is in STOP with drum-ready clear and a MODE notice of the cause. A front plate in
EXPOSING or FINISHING is first spoiled with cause MEDIA, one in CANCELLING is not spoiled again, and it is resolved at
once with no CANCEL sent (R122, R126): a withdraw that waited makes it WITHDRAWN and is answered; at its allowance it is
FAILED with the cause of its spoil; otherwise it returns for its next attempt, with a LATE report if it is found late,
and the lane, which is only then in STOP, may choose it again. Taken where drum-ready is clear, as it is while there is
a front plate. In mode FAULT the LINK UP notice comes first. Model choices: notes/assumptions/12.md,
notes/assumptions/38.md; the zero key and lane of the withdraw's answer are notes/assumptions/19.md. -/
def Obligations.SetterFaultStopsLane : Prop :=
  ∀ (s : State) (l : LaneId) (c : FaultCause),
    ((s.lane l).front = none → exec (.setterFault l c) s =
      .next (submit (modeByMedia l .stop c) (modLane l (fun L => { L with
          lastMessage := some s.clock, drumReady := false, mode := .stop,
          lastHeld := none })
        (if (s.lane l).mode = .fault then submit (linkUpNotice l) s else s)))) ∧
    (∀ p, QueuesSafe s → (s.lane l).mode ≠ .fault → (s.lane l).front = some p → (s.lane l).drumReady = false →
      (p.withdrawPending = true → p.state = .cancelling) →
      let mode := modeByMedia l .stop c
      let spoiled := if p.state = .cancelling then s else submit (plateOutcome p 2 2) s
      let cause := if p.state = .cancelling then p.spoil else some .media
      ∃ t, exec (.setterFault l c) s = .next t ∧ (t.lane l).mode = .stop ∧ (t.lane l).drumReady = false ∧
        (t.lane l).owed = 0 ∧ (t.lane l).front = none ∧ (t.lane l).frontCtx = none ∧
        (t.lane l).sent = (s.lane l).sent ∧ spoiled.reports <+: t.reports ∧
        (p.withdrawPending = true → p.tag ∉ liveTags t ∧
          (submit mode (submit (withdrawDone p.tag .withdrawn) (submit (plateOutcome p 4 5) spoiled))).reports
            <+: t.reports) ∧
        (p.withdrawPending = false → p.attempt = p.allowance → p.tag ∉ liveTags t ∧
          ∀ k, cause = some k → (submit mode (submit (plateOutcome p 3 k.code) spoiled)).reports <+: t.reports) ∧
        (p.withdrawPending = false → p.attempt < p.allowance →
          (s.reports.length + 4 ≤ 64 → { mode with stamp := s.clock } ∈ t.reports) ∧
          (NoLaneRuns s → t.reports = (submit mode (
            if p.lateReported = false ∧ (s.clock - p.latestStart).toNat < 2147483648 then
              submit (lateReport { p with attempt := p.attempt + 1 }) spoiled
            else spoiled)).reports) ∧
          ∃ q ∈ (t.lane l).queue, q.tag = p.tag ∧
            (q.state = .queued ∨ (s.lane l).mode = .run ∧ (s.lane l).back = none ∧ q.state = .loading) ∧
            q.attempt = p.attempt + 1 ∧ q.spoil = none))

/-- Every message, of every kind and whether it fits or not, restarts the lane's link timer and leaves the lane in a
mode other than FAULT: in mode FAULT the lane is in STOP, and LINK UP is the first report (R129, R144); otherwise no
message but FAULT changes the mode (R132). An IDLE does nothing else. In mode FAULT with no front plate READY sets
drum-ready, and a PULL, an EXPOSED and an EJECTED are stray. A message that does not fit gives one STRAY notice with
the front plate's tag and state and changes nothing else (R142). Model choices: notes/assumptions/20.md. -/
def Obligations.MessagesRestartLinkTimer : Prop :=
  ∀ (s : State) (l : LaneId),
    let heard := modLane l (fun L => { L with lastMessage := some s.clock }) s
    let front := (s.lane l).front
    let up := submit
      { kind := .laneNotice, code := 3, tag := 0, stamp := 0, key := ⟨0, 0, 0⟩, lane := BitVec.ofNat 8 l.val,
        detailA := 1, detailB := 0, detailC := 0, detailD := 0 }
      (modLane l (fun L => { L with lastMessage := some s.clock, mode := .stop }) s)
    (∀ (c : FaultCause) (n : BitVec 16) (tag : Tag),
      ∀ m ∈ [Instr.ready l, .pull l n, .exposed l tag, .ejected l tag, .setterFault l c, .setterIdle l],
        ∃ t, exec m s = .next t ∧ (t.lane l).lastMessage = some s.clock ∧ (t.lane l).mode ≠ .fault ∧
          ((s.lane l).mode = .fault → (t.lane l).mode = .stop ∧ up.reports <+: t.reports) ∧
          ((s.lane l).mode ≠ .fault → m ≠ .setterFault l c → (t.lane l).mode = (s.lane l).mode)) ∧
    ((s.lane l).mode = .fault →
      exec (.setterIdle l) s = .next up ∧
      (front = none →
        ((s.lane l).drumReady = false →
          exec (.ready l) s = .next (modLane l (fun L => { L with drumReady := true }) up)) ∧
        (∀ n : BitVec 16, exec (.pull l n) s = .next (submit (strayNotice l 2 n.toNat none) up)) ∧
        ∀ tag, exec (.exposed l tag) s = .next (submit (strayNotice l 3 tag.toNat none) up) ∧
          exec (.ejected l tag) s = .next (submit (strayNotice l 4 tag.toNat none) up))) ∧
    ((s.lane l).mode ≠ .fault →
      exec (.setterIdle l) s = .next heard ∧
      (front ≠ none ∨ (s.lane l).drumReady = true →
        exec (.ready l) s = .next (submit (strayNotice l 1 0 front) heard)) ∧
      (∀ n : BitVec 16, (n.toNat = 0 ∨ 64 < n.toNat ∨ ∀ p, front = some p → p.state = .finishing) →
        exec (.pull l n) s = .next (submit (strayNotice l 2 n.toNat front) heard)) ∧
      (∀ tag, (∀ p, front = some p → p.tag ≠ tag ∨ p.state = .exposing) →
        exec (.exposed l tag) s = .next (submit (strayNotice l 3 tag.toNat front) heard)) ∧
      (∀ tag, (∀ p, front = some p → p.tag ≠ tag ∨ p.state = .exposing ∨ p.state = .finishing) →
        exec (.ejected l tag) s = .next (submit (strayNotice l 4 tag.toNat front) heard)))

/-- The link timers. LINK_LOSS (R143): 1000 ticks after the last message a lane in RUN or STOP is in FAULT with a LINK
LOST notice first; its buffer, drum-ready and owed rows are cleared and nothing is sent. A back plate returns to the
front of the queue with its attempt unchanged (R123); a front plate, spoiled with cause LINK unless its attempt is
spoiled already (R122), then returns before it for its next attempt, or is WITHDRAWN for a withdraw that waited, with
its answer (R126), or FAILED at its allowance. LANE_IDLE_SEND (R130): after 100 ticks without a message sent the lane
sends IDLE, in every mode. Model choices: notes/assumptions/1.md, notes/assumptions/2.md, notes/assumptions/38.md; the
zero key and lane of the withdraw's answer are notes/assumptions/19.md. -/
def Obligations.LinkTimersAreKept : Prop :=
  ∀ (s : State) (l : LaneId),
    (∀ m, QueuesSafe s → (s.lane l).mode ≠ .fault → (s.lane l).lastMessage = some m → 1000 ≤ (s.clock - m).toNat →
      let lost := submit (linkLostNotice l) s
      ∃ t fronts backs, exec (.linkLoss l) s = .next t ∧ (t.lane l).mode = .fault ∧ (t.lane l).lastMessage = none ∧
        (t.lane l).buffer = [] ∧ (t.lane l).drumReady = false ∧ (t.lane l).owed = 0 ∧
        ((s.lane l).front.isSome → (t.lane l).frontCtx = none) ∧
        ((s.lane l).back.isSome → (t.lane l).backCtx = none) ∧ (t.lane l).sent = (s.lane l).sent ∧
        (∀ p ∈ (t.lane l).queue, p.state = .queued) ∧ lost.reports <+: t.reports ∧
        (t.lane l).queue = fronts ++ backs ++ (s.lane l).queue.filter (fun x => x.state == .queued) ∧
        ((s.lane l).back = none → backs = []) ∧ ((s.lane l).front = none → fronts = []) ∧
        (∀ p, (s.lane l).back = some p → ∃ q, backs = [q] ∧
          q = { p with state := .queued, spoil := none, returned := true, lateReported := q.lateReported }) ∧
        ∀ p, (s.lane l).front = some p →
          let spoiled := if p.spoil = none then submit (plateOutcome p 2 3) lost else lost
          (p.withdrawPending = false → p.attempt < p.allowance → ∃ q, fronts = [q] ∧
            q = { p with state := .queued, attempt := p.attempt + 1, spoil := none, returned := true,
                         lateReported := q.lateReported }) ∧
          (p.withdrawPending = true ∨ p.attempt = p.allowance → fronts = []) ∧
          ((∀ q, (s.lane l).back = some q →
              q.lateReported = true ∨ 2147483648 ≤ (s.clock - q.latestStart).toNat) →
            spoiled.reports <+: t.reports ∧
            (p.withdrawPending = true → (submit (withdrawDone p.tag .withdrawn)
              (submit (plateOutcome p 4 5) spoiled)).reports <+: t.reports) ∧
            (p.withdrawPending = false → p.attempt = p.allowance →
              (submit (plateOutcome p 3 (p.spoil.getD .link).code) spoiled).reports <+: t.reports))) ∧
    (((s.lane l).mode = .fault ∨ ∀ m, (s.lane l).lastMessage = some m → (s.clock - m).toNat < 1000) →
      exec (.linkLoss l) s = .next s) ∧
    (100 ≤ (s.clock - (s.lane l).lastSent).toNat → exec (.laneIdleSend l) s =
      .next (modLane l (fun L => { L with sent := L.sent ++ [.idle], lastSent := s.clock }) s)) ∧
    ((s.clock - (s.lane l).lastSent).toNat < 100 → exec (.laneIdleSend l) s = .next s)

/-! ## Segments -/

/-- FILLER and segments of an undefined kind (R38, R39, R45): the entry becomes DONE with the reclaim that follows; an
undefined kind gives its notice with the kind received, and FILLER gives none. What the Unpacker and the lanes then do
is a reaction, and where no lane runs there is no report but that notice. Model choices: notes/assumptions/2.md,
notes/assumptions/26.md. -/
def Obligations.PlainSegmentsAreMarkedDone : Prop :=
  ∀ (s : State) (g : Segment), Memory.wf s.mem = true → s.unpacker = .working g .taken → s.unpackerPage = none →
    (g.header.kind = 7 →
      ∃ t, exec .filler s = .next t ∧ t.steady = (markDone g.offset s).steady ∧ s.reports <+: t.reports ∧
        (NoLaneRuns s → t.reports = s.reports) ∧ BytesKeptBut 0 0 s t) ∧
    (g.header.kind.toNat = 0 ∨ 7 < g.header.kind.toNat →
      let told := submit (segmentNotice .unknownKind g.header g.stamp g.header.kind.toNat) s
      ∃ t, exec .unknownKind s = .next t ∧ t.steady = (markDone g.offset s).steady ∧ BytesKeptBut 0 0 s t ∧
        told.reports <+: t.reports ∧ (NoLaneRuns s → t.reports = told.reports))

/-- The claim of a segment with a page (R14, R16, R43, R46, R47): a segment out of place ends with its notice; with no
lock on the page the claim is granted, and a segment with words to read or rows to write then waits while a request of
classes 1 to 4 waits, or the profile loader's that came before its own, or, with more than one request left, the profile
loader's at all, whose turn comes between (R156); with the page locked the entry is deferred, or with 8
deferred already the Unpacker stalls, until DEFERRAL_STALL_END finds no lock and the Unpacker works on. Model choices:
notes/assumptions/7.md, notes/assumptions/13.md, notes/assumptions/26.md, notes/assumptions/44.md. -/
def Obligations.SegmentsClaimTheirPage : Prop :=
  (∀ s : State, s.grants .unpacker = true ↔ (∀ q ∈ s.requests, 5 ≤ requestClass s q) ∧
    s.requests.idxOf .unpacker ≤ s.requests.idxOf .profileLoader) ∧
  (∀ (s : State) (g : Segment) (n : Nat),
    let left := s.payloadRead.requestsLeft (segmentWords g) + n
    segmentGranted s g n = true ↔ left = 0 ∨ s.grants .unpacker = true ∧ (left = 1 ∨ .profileLoader ∉ s.waiting)) ∧
  (∀ (s : State) (g : Segment) (f : Nat) (p : Page) (c : Instr), s.unpacker = .working g .claimed →
    s.unpackerPage = some f → s.page f = some p →
    segmentGranted s g (if g.header.kind = 2 then stripWrites g p s else 0) = false →
    (g.header.kind.toNat, c) ∈ [(2, Instr.strip .whole), (3, .photoHead .whole), (5, .pageClose .whole)] →
    exec c s = .next s) ∧
  ∀ (s : State) (g : Segment), Memory.wf s.mem = true → s.unpackerPage = none →
    (∀ (c : Instr) (u : SegPart), s.unpacker = .working g .taken →
      (g.header.kind.toNat, c) ∈ [(2, Instr.strip u), (3, .photoHead u), (4, .photoPart u), (5, .pageClose u),
        (6, .remakeTile u)] →
      (s.findPage g.header.key = none ∨ (∃ f p, s.present g.header.key = some (f, p) ∧ headerTest p g.header = false) →
        ∃ t, exec c s = .next t ∧ t.steady = (markDone g.offset s).steady ∧ BytesKeptBut 0 0 s t ∧
          (submit (segmentNotice .outOfPlace g.header g.stamp 0) s).reports <+: t.reports) ∧
      ∀ f p, s.present g.header.key = some (f, p) → headerTest p g.header = true →
        (p.lockCount = 0 → u = .claim ∨ g.header.kind.toNat ∈ [2, 3, 5] ∧
            segmentGranted s g (if g.header.kind = 2 then stripWrites g p s else 0) = false →
          exec c s = .next { s with unpackerPage := some f, unpacker := .working g .claimed }) ∧
        (0 < p.lockCount → p.deferred.length < 8 → (∃ e ∈ s.landed, e.seg = g) →
          ∃ t q, exec c s = .next t ∧ t.page f = some q ∧ g.offset ∈ q.deferred ∧
            t.landed = s.landed.map fun e =>
              if e.seg.offset = g.offset then { e with state := EntryState.deferred } else e) ∧
        (0 < p.lockCount → 8 ≤ p.deferred.length → exec c s =
          .next (submit (segmentNotice .stall g.header g.stamp 3)
            { s with unpacker := .stalled g .deferral none true }))) ∧
    (∀ h b, s.unpacker = .stalled g .deferral h b →
      (∀ f p, s.present g.header.key = some (f, p) → 0 < p.lockCount → exec .deferralStallEnd s = .next s) ∧
      (∀ f p e, s.present g.header.key = some (f, p) → p.lockCount = 0 → e ∈ s.landed → e.seg = g →
        e.state = .landed → ∃ t k ph, exec .deferralStallEnd s = .next t ∧ t.unpacker = .working k ph ∧
          t.steady = s.steady))

/-- PAGE OPEN and the end of its FRAMES stall (R2, R4, R48, R49, R63): a key not present, a good CRC and good fields
create an OPEN page in the lowest-numbered FREE frame; with none the Unpacker stalls and waits; a present key, a bad CRC
or bad fields end the segment with their notice. The payload's reads wait for the arbiter's grants (R156), the test for
a present key being made already. Model choices: notes/assumptions/7.md, notes/assumptions/13.md,
notes/assumptions/26.md, notes/assumptions/42.md. -/
def Obligations.PageOpenCreatesPage : Prop :=
  (∀ (s : State) (g : Segment) (u : SegPart), Memory.wf s.mem = true → s.unpackerPage = none → g.header.kind = 1 →
    let ends (k : NoticeKind) : Prop := ∃ t, exec (.pageOpen u) s = .next t ∧
      SegmentEnds g [segmentNotice k g.header g.stamp 0] s t ∧ BytesKeptBut 0 0 s t
    (s.unpacker = .working g .taken → (s.findPage g.header.key).isSome → ends .duplicatePage) ∧
    (s.unpacker = .working g .taken ∧ s.findPage g.header.key = none ∨ s.unpacker = .working g .opening →
      (segmentGranted s g 0 = false → exec (.pageOpen u) s = .next { s with unpacker := .working g .opening }) ∧
      (segmentGranted s g 0 = true →
        (crcGood s g = false → ends .crc) ∧
        (crcGood s g = true → openGood s g = false → ends .outOfPlace) ∧
        (crcGood s g = true → openGood s g = true → u = .claim →
          exec (.pageOpen u) s = .next { s with unpacker := .working g (.judged (openFields s g))
                                                payloadRead := ⟨(segmentWords g).length, none, 0⟩
                                                waiting := s.waiting.filter (· != .unpacker) })))) ∧
  ∀ (s : State) (g : Segment) (o : OpenFields) (c : Instr), Memory.wf s.mem = true → s.unpackerPage = none →
    (c = .pageOpen .whole ∧ (s.unpacker = .working g .taken ∨ s.unpacker = .working g .opening) ∧ g.header.kind = 1 ∧
        segmentGranted s g 0 = true ∧ crcGood s g = true ∧ openGood s g = true ∧ o = openFields s g ∨
      c = .pageOpen .whole ∧ s.unpacker = .working g (.judged o) ∨
      c = .framesStallEnd ∧ ∃ b, s.unpacker = .stalled g .frames (some o) b) →
    (s.findPage g.header.key = none → ∀ f, f < s.pages.length → s.page f = none → (∀ k, k < f → s.page k ≠ none) →
      ∃ t, exec c s = .next t ∧ BytesKeptBut 0 0 s t ∧
        SegmentEnds g [] { s with pages := s.pages.set f (some
          { key := g.header.key, state := .opened, localFlag := false, tw := o.tw, th := o.th, screenSlot := o.slot,
            version := 1, lockCount := 0, strips := List.replicate (o.th * 16) .absent,
            tiles := List.replicate (o.tw * o.th) ⟨false, false⟩, damaged := 0, photos := [], photoFill := 0,
            deferred := [], purgePending := none, openStamp := s.clock, closeStamp := none }) } t) ∧
    (s.findPage g.header.key = none → s.freeFrame = none →
      (c = .framesStallEnd → exec c s = .next s) ∧
      (c = .pageOpen .whole → exec c s = .next (submit (segmentNotice .stall g.header g.stamp 1)
        { s with unpacker := .stalled g .frames (some o) true
                 payloadRead := if s.unpacker = .working g (.judged o) then s.payloadRead
                   else ⟨(segmentWords g).length, none, 0⟩
                 waiting := if s.unpacker = .working g (.judged o) then s.waiting
                   else s.waiting.filter (· != .unpacker) }))) ∧
    ((s.findPage g.header.key).isSome → ∃ t, exec c s = .next t ∧
      SegmentEnds g [segmentNotice .duplicatePage g.header g.stamp 0] s t ∧ BytesKeptBut 0 0 s t)

/-- A STRIP with a good CRC and a good decode on an OPEN page (R6, R7, R52, R70, R77): its 16 rows lie in the frame,
pixel by pixel, no byte outside the strip changes, its strip is GOOD, and the damaged-tile count follows the tile row.
The segment is taken up, or its claim was granted before, and its requests are granted (R156). Model choices:
notes/assumptions/7.md, notes/assumptions/13.md, notes/assumptions/26.md, notes/assumptions/42.md,
notes/assumptions/44.md. -/
def Obligations.GoodStripIsDecodedIntoFrame : Prop :=
  ∀ (s : State) (g : Segment) (f : Nat) (p : Page), Memory.wf s.mem = true → UnpackerHas g f s →
    g.header.kind = 2 → s.present g.header.key = some (f, p) → p.state = .opened →
    p.localFlag = false → p.lockCount = 0 → p.purgePending = none → g.header.locator < p.th * 16 →
    segmentGranted s g (stripWrites g p s) = true →
    crcGood s g = true → (lineDecode (p.tw * 256) 16 (payloadOf s g)).error = false →
    let k := g.header.locator
    let rows := (lineDecode (p.tw * 256) 16 (payloadOf s g)).rows
    let q := { p with strips := p.strips.set k .good }
    let count (r : Page) := (rectTiles 0 (k / 16) p.tw 1).countP fun t => tileDamaged s.patches f r t.1 t.2
    let q' := { q with damaged := p.damaged + count q - count p }
    ∃ t, exec (.strip .whole) s = .next t ∧
      t.steady = (markDone g.offset { s with pages := s.pages.set f (some q') }).steady ∧
      (∀ i x, i < 16 → x < p.tw * 256 →
        pixelBit (memRead t.mem (frameBase f + pixelOffset p.tw x (16 * k + i))) x = (rows.getD i []).getD x false) ∧
      (∀ a, (∀ tx, tx < p.tw → ¬ (frameBase f + spanOffset p.tw tx (16 * k) ≤ a ∧
          a < frameBase f + spanOffset p.tw tx (16 * k) + 512)) →
        memRead t.mem a = memRead s.mem a)

/-- A STRIP refused (R44, R52, R70, R77). Its CRC fails: a CRC notice, no byte of the frame changes, and an ABSENT strip
becomes BAD while any other keeps its state. Its decode fails: a DECODE notice with the number of rows completed, which
are written, pixel by pixel, no other byte changing, and its strip is BAD. The damaged-tile count follows the tile row.
The segment is taken up, or its claim was granted before, and its requests are granted (R156). Model choices:
notes/assumptions/7.md, notes/assumptions/13.md, notes/assumptions/26.md, notes/assumptions/42.md,
notes/assumptions/44.md. -/
def Obligations.BadCrcStripIsRefused : Prop :=
  ∀ (s : State) (g : Segment) (f : Nat) (p : Page), Memory.wf s.mem = true → UnpackerHas g f s →
    g.header.kind = 2 → s.present g.header.key = some (f, p) → p.state = .opened →
    p.localFlag = false → p.lockCount = 0 → p.purgePending = none → g.header.locator < p.th * 16 →
    segmentGranted s g (stripWrites g p s) = true →
    let k := g.header.locator
    let d := lineDecode (p.tw * 256) 16 (payloadOf s g)
    let withStrips (v : List StripState) : Page :=
      Page.recounted { p with strips := v } p s f (rectTiles 0 (k / 16) p.tw 1)
    (crcGood s g = false →
      ∃ t, exec (.strip .whole) s = .next t ∧ BytesKeptBut 0 0 s t ∧
        SegmentEnds g [segmentNotice .crc g.header g.stamp 0]
          { s with pages := s.pages.set f (some
            (if p.strips.getD k .absent = .absent then withStrips (p.strips.set k .bad) else p)) } t) ∧
    (crcGood s g = true → d.error = true →
      ∃ t, exec (.strip .whole) s = .next t ∧
        SegmentEnds g [segmentNotice .decode g.header g.stamp d.rows.length]
          { s with pages := s.pages.set f (some (withStrips (p.strips.set k .bad))) } t ∧
        (∀ i x, i < d.rows.length → x < p.tw * 256 →
          pixelBit (memRead t.mem (frameBase f + pixelOffset p.tw x (16 * k + i))) x =
            (d.rows.getD i []).getD x false) ∧
        ∀ a, (∀ tx, tx < p.tw → ¬ (frameBase f + spanOffset p.tw tx (16 * k) ≤ a ∧
            a < frameBase f + spanOffset p.tw tx (16 * k) + 32 * d.rows.length)) →
          memRead t.mem a = memRead s.mem a)

/-- PHOTO HEAD (R8, R10, R53, R54, R62, R77). A new photo that fits: the record, RECEIVING from row 0, stands at the
photo fill, which moves by its size. A photo of the same rectangle and scale again: the record starts afresh at its
base, the photo fill staying. In both its tiles' PHOTO flags are clear. No room: no record, its tiles' PHOTO flags set,
and a PHOTO SPACE notice of the size. In all three the tiles are recounted and a CLOSED page's version is raised. A bad
CRC, bad fields, a changed rectangle or scale, or a tile shared with another photo change nothing but give their notice.
No byte of memory changes. The segment is taken up, or its claim was granted before, and its requests are granted
(R156). Model choices: notes/assumptions/7.md, notes/assumptions/13.md, notes/assumptions/26.md,
notes/assumptions/42.md. -/
def Obligations.NewPhotoIsPlaced : Prop :=
  ∀ (s : State) (g : Segment) (f : Nat) (p : Page), Memory.wf s.mem = true → UnpackerHas g f s →
    g.header.kind = 3 → s.present g.header.key = some (f, p) → headerTest p g.header = true →
    p.lockCount = 0 → p.purgePending = none → segmentGranted s g 0 = true →
    let r := headRecord s g
    let size := (r.w * 256 / r.scale) * (r.h * 256 / r.scale)
    let tiles := rectTiles r.tx0 r.ty0 r.w r.h
    let revised (photos : List PhotoRecord) (fill : Nat) (flag : Bool) : Page :=
      Page.recounted
        { p.modFlagsOf (fun x => { x with photo := flag }) tiles with
          photos := photos, photoFill := fill,
          version := if p.state = .closed then (if p.version = BitVec.allOnes 32 then 1 else p.version + 1)
            else p.version } p s f tiles
    let ends (q : Page) (notices : List Report) : Prop := ∃ t, exec (.photoHead .whole) s = .next t ∧
      SegmentEnds g notices { s with pages := s.pages.set f (some q) } t ∧ BytesKeptBut 0 0 s t
    let tells (k : NoticeKind) (detail : Nat) : List Report := [segmentNotice k g.header g.stamp detail]
    (crcGood s g = false → ends p (tells .crc 0)) ∧
    (crcGood s g = true → headGood s g p = false → ends p (tells .outOfPlace 0)) ∧
    (crcGood s g = true → headGood s g p = true →
      (∀ o, p.photo g.header.locator = some o →
        let same := o.tx0 = r.tx0 ∧ o.ty0 = r.ty0 ∧ o.w = r.w ∧ o.h = r.h ∧ o.scale = r.scale
        (same → ends (revised (putPhoto { r with base := o.base } p.photos) p.photoFill false) []) ∧
        (¬ same → ends p (tells .outOfPlace 0))) ∧
      (p.photo g.header.locator = none →
        ((∃ o ∈ p.photos, r.shares o = true) → ends p (tells .outOfPlace 0)) ∧
        ((∀ o ∈ p.photos, r.shares o = false) →
          (p.photoFill + size ≤ 33554432 →
            ends (revised (putPhoto { r with base := p.photoFill } p.photos) (p.photoFill + size) false) []) ∧
          (33554432 < p.photoFill + size →
            ends (revised p.photos p.photoFill true) (tells .photoSpace size)))))

/-- PHOTO PART (R8, R55, R56, R57, R77). With a good CRC, for the next row expected or one after it: the samples of its
whole rows lie in the photo area from the row it names, no other byte changes, and the record expects the row after
them, or is COMPLETE at the photo's height; the tiles that the rows passed over touch have their PHOTO flags set and are
recounted; a decode error gives a DECODE notice of the number of rows. A record that is absent or COMPLETE, a row before
the next or beyond the photo, or a bad CRC change nothing but give their notice. The part is taken up, or its claim was
granted before; while the requests it still takes are not granted, it waits with its page claimed (R14, R156). How the
samples of a literal cut short are placed is notes/assumptions/27.md. Further model choices: notes/assumptions/7.md,
notes/assumptions/13.md, notes/assumptions/26.md, notes/assumptions/40.md, notes/assumptions/42.md,
notes/assumptions/44.md. -/
def Obligations.PhotoRowsAreWritten : Prop :=
  (∀ (r : PhotoRecord) (a b x y : Nat), r.scale = 4 ∨ r.scale = 8 → a < b →
    ((x, y) ∈ missingTiles r a b ↔
      r.tx0 ≤ x ∧ x < r.tx0 + r.w ∧ ∃ i, a ≤ i ∧ i < b ∧ y = r.ty0 + i * r.scale / 256)) ∧
  ∀ (s : State) (g : Segment) (f : Nat) (p : Page), Memory.wf s.mem = true →
    UnpackerHas g f s → g.header.kind = 4 →
    s.present g.header.key = some (f, p) → headerTest p g.header = true → p.lockCount = 0 → p.purgePending = none →
    let first := g.header.arg
    let refused (k : NoticeKind) : Prop := ∃ t, exec (.photoPart .whole) s = .next t ∧
      SegmentEnds g [segmentNotice k g.header g.stamp 0] s t ∧ BytesKeptBut 0 0 s t
    (p.photo g.header.locator = none → refused .outOfPlace) ∧
    ∀ r, p.photo g.header.locator = some r →
      (r.state = .complete ∨ first < r.nextRow ∨ photoHeight r.h r.scale ≤ first → refused .outOfPlace) ∧
      (r.state = .receiving → r.nextRow ≤ first → first < photoHeight r.h r.scale →
        (segmentGranted s g (partWrites g r s) = false → exec (.photoPart .whole) s =
          .next { s with unpackerPage := some f, unpacker := .working g .claimed }) ∧
        (segmentGranted s g (partWrites g r s) = true → crcGood s g = false → refused .crc) ∧
        (segmentGranted s g (partWrites g r s) = true → crcGood s g = true → 0 < photoWidth r.w r.scale →
          let width := photoWidth r.w r.scale
          let d := toneDecode ((photoHeight r.h r.scale - first) * width) (payloadOf s g)
          let n := d.samples.length / width
          let base := photoBase f + r.base + first * width
          let r1 := { r with
            nextRow := first + n,
            state := if photoHeight r.h r.scale ≤ first + n then PhotoState.complete else .receiving }
          let missing := if r.nextRow < first then missingTiles r r.nextRow first else []
          let q := Page.recounted
            { p.modFlagsOf (fun x => { x with photo := true }) missing with photos := putPhoto r1 p.photos }
            p s f missing
          ∃ t, exec (.photoPart .whole) s = .next t ∧
            t.steady = (markDone g.offset { s with pages := s.pages.set f (some q) }).steady ∧
            (∀ i, i < n * width → memRead t.mem (base + i) = d.samples.getD i 0) ∧
            BytesKeptBut base (n * width) s t ∧ s.reports <+: t.reports ∧
            (NoLaneRuns s ∨ first + n < photoHeight r.h r.scale → d.error = true →
              (submit (segmentNotice .decode g.header g.stamp n) s).reports <+: t.reports) ∧
            (NoLaneRuns s → t.reports =
              (if d.error then submit (segmentNotice .decode g.header g.stamp n) s else s).reports)))

/-- PAGE CLOSE (R57, R58, R59, R77). With a good CRC an OPEN page is CLOSED with the close stamp of the clock and every
ABSENT strip BAD, and a CLOSED page only ends its revision. Either way every photo is COMPLETE, the tiles that the rows
missing from a photo touch have their PHOTO flags set, the damaged tiles are counted again, and one page report of the
page as it then stands is the first report. A bad CRC changes nothing but gives its notice. No byte of memory changes.
The segment is taken up, or its claim was granted before, and its requests are granted (R156). Model choices:
notes/assumptions/7.md, notes/assumptions/13.md, notes/assumptions/32.md, notes/assumptions/42.md. -/
def Obligations.PageCloseEndsPageOrRevision : Prop :=
  ∀ (s : State) (g : Segment) (f : Nat) (p : Page), Memory.wf s.mem = true → UnpackerHas g f s →
    g.header.kind = 5 → s.present g.header.key = some (f, p) → headerTest p g.header = true →
    p.lockCount = 0 → p.purgePending = none → segmentGranted s g 0 = true →
    let missing := p.photos.flatMap fun r =>
      if r.state = .receiving ∧ r.nextRow < photoHeight r.h r.scale then
        missingTiles r r.nextRow (photoHeight r.h r.scale) else []
    let ended (strips : List StripState) (stamp : Option Tick) : Page :=
      Page.recounted
        { p.modFlagsOf (fun x => { x with photo := true }) missing with
          state := .closed, closeStamp := stamp, strips := strips,
          photos := p.photos.map fun r => if r.state = .receiving then
            { r with nextRow := photoHeight r.h r.scale, state := .complete } else r } p s f (allTiles p.tw p.th)
    let ends (q : Page) (r : Report) : Prop := ∃ t, exec (.pageClose .whole) s = .next t ∧
      SegmentEnds g [r] { s with pages := s.pages.set f (some q) } t ∧ BytesKeptBut 0 0 s t
    (crcGood s g = false → ends p (segmentNotice .crc g.header g.stamp 0)) ∧
    (crcGood s g = true → (p.photos.map PhotoRecord.index).Pairwise (· < ·) →
      (p.state = .opened →
        let q := ended (p.strips.map fun v => if v = .absent then .bad else v) (some s.clock)
        ends q (pageClosedReport 0 f q)) ∧
      (p.state = .closed →
        let q := ended p.strips p.closeStamp
        ends q (pageRevisedReport f q)))

/-- REMAKE TILE and the end of its PATCHES stall (R10, R60, R61, R64, R65, R67, R77). With a place for the tile, the
first free slot from the pointer on is taken and in use before the payload is read, the pointer moves past it, and a
stall is over; the remake, taken up, claimed before or stalled, then waits with its slot until its requests are granted
(R156), and goes on from there. With a good CRC and a good decode, the tile's entry names the slot, clean, with the
tile's rows in it pixel by pixel and no byte outside it changed; the slot it replaces is free, the version is raised,
and a tile that was damaged leaves the count. A bad CRC or a decode error gives its notice and frees the slot, and
nothing but the slot's bytes changes. Without a place or a slot the Unpacker stalls and waits, or with a purge pending
abandons the segment, to be ended with the purge. Model choices: notes/assumptions/7.md, notes/assumptions/13.md,
notes/assumptions/29.md, notes/assumptions/34.md, notes/assumptions/42.md, notes/assumptions/44.md. -/
def Obligations.RemakeMovesTileToNewSlot : Prop :=
  ∀ (s : State) (g : Segment) (f : Nat) (p : Page) (c : Instr), Memory.wf s.mem = true → s.page f = some p →
    let tx := g.header.locator
    let ty := g.header.arg
    let d := lineDecode 256 256 (payloadOf s g)
    let starts : Prop :=
      c = .remakeTile .whole ∧ UnpackerHas g f s ∧ g.header.kind = 6 ∧
        s.present g.header.key = some (f, p) ∧ headerTest p g.header = true ∧ p.lockCount = 0 ∨
      c = .patchesStallEnd ∧ s.unpackerPage = some f ∧ ∃ h i, s.unpacker = .stalled g .patches h i
    let begun (n : Nat) : State :=
      { s with unpackerPage := some f, unpacker := .working g (.decoding n)
               slotsInUse := insertSorted n s.slotsInUse, slotPointer := (n + 1) % 4096 }
    (∀ n, remakeSlot s f tx ty = some n →
      ((findPatch s.patches f tx ty).isSome ∨ s.patches.length < 4000) ∧ n ∉ s.slotsInUse ∧
      ∃ k, k < 4096 ∧ n = (s.slotPointer + k) % 4096 ∧ ∀ m, m < k → (s.slotPointer + m) % 4096 ∈ s.slotsInUse) ∧
    (∀ (n : Nat) (b : State),
      starts ∧ remakeSlot s f tx ty = some n ∧ b = begun n ∨
        c = .remakeTile .whole ∧ s.unpackerPage = some f ∧ s.unpacker = .working g (.decoding n) ∧
          n ∈ s.slotsInUse ∧ b = s →
      (segmentGranted s g (remakeWrites g s) = false → exec c s = .next b) ∧
      (segmentGranted s g (remakeWrites g s) = true → p.purgePending = none →
        (crcGood s g = true → d.error = false → (∀ e ∈ s.patches, e.slot ∈ b.slotsInUse ∧ e.slot ≠ n) →
          ∃ t q, exec c s = .next t ∧ findPatch t.patches f tx ty = some ⟨f, tx, ty, n, false⟩ ∧
            (∀ f' x y, ¬ (f' = f ∧ x = tx ∧ y = ty) → findPatch t.patches f' x y = findPatch s.patches f' x y) ∧
            t.slotPointer = b.slotPointer ∧ n ∈ t.slotsInUse ∧
            (∀ m, m ∈ t.slotsInUse ↔ m ∈ b.slotsInUse ∧ ∀ e, findPatch s.patches f tx ty = some e → m ≠ e.slot) ∧
            t.page f = some q ∧ q.version = (if p.version = BitVec.allOnes 32 then 1 else p.version + 1) ∧
            q.tiles = p.tiles ∧ q.strips = p.strips ∧
            q.damaged = (if tileDamaged s.patches f p tx ty then p.damaged - 1 else p.damaged) ∧
            t.landed = (markDone g.offset s).landed ∧ s.reports <+: t.reports ∧
            (NoLaneRuns s → t.reports = s.reports) ∧
            (∀ x y, x < 256 → y < 256 →
              pixelBit (memRead t.mem (0x4000000 + n * 8192 + 32 * y + x / 8)) x = (d.rows.getD y []).getD x false) ∧
            BytesKeptBut (0x4000000 + n * 8192) 8192 s t) ∧
        (crcGood s g = false ∨ d.error = true →
          ∃ t, exec c s = .next t ∧ BytesKeptBut (0x4000000 + n * 8192) 8192 s t ∧
            SegmentEnds g
              [if crcGood s g then segmentNotice .decode g.header g.stamp d.rows.length
                else segmentNotice .crc g.header g.stamp 0]
              { b with slotsInUse := b.slotsInUse.filter (· != n) } t))) ∧
    (starts → remakeSlot s f tx ty = none →
      (c = .patchesStallEnd → p.purgePending = none → exec c s = .next s) ∧
      (c = .remakeTile .whole → p.purgePending = none →
        exec c s = .next (submit (segmentNotice .stall g.header g.stamp 2)
          { s with unpackerPage := some f, unpacker := .stalled g .patches none true })) ∧
      (c = .remakeTile .whole → p.purgePending.isSome →
        exec c s = .next { s with unpackerPage := some f, unpacker := .working g .applied }))
end

