-- ==== Sys2Proof/Laws/Arbiter.lean ====
section
/-! SUPPORT. What the arbiter answers for the requests that wait (R156), and what a grant changes. -/

namespace Sys2Proof.Machine

/-! ## Rotation and classes -/

/-- A rotation finds a lane where one waits. -/
theorem rotate_isSome {last l : LaneId} {w : List LaneId} (h : l ∈ w) : (rotate last w).isSome = true := by
  have hl : ∀ a b : LaneId, b ∈ rotation a := by decide
  exact List.find?_isSome.2 ⟨l, hl last l, by simpa using h⟩

/-- What a rotation finds is a lane that waits. -/
theorem rotate_mem {last l : LaneId} {w : List LaneId} (h : rotate last w = some l) : l ∈ w := by
  simpa using List.find?_some h

/-- A lane composer is in class 1 or in class 4 (R156). -/
theorem composerClass_cases (s : State) (l : LaneId) : composerClass s l = 1 ∨ composerClass s l = 4 := by
  unfold composerClass; split <;> simp

/-- Every requester is of one of the six classes. -/
theorem requestClass_mem (s : State) (r : Requester) : requestClass s r ∈ [1, 2, 3, 4, 5, 6] := by
  cases r with
  | composer l => rcases composerClass_cases s l with h | h <;> simp [requestClass, h]
  | _ => simp [requestClass]

/-- The lanes of a class are those whose composers wait in it. -/
theorem mem_lanesOfClass {s : State} {c : Nat} {l : LaneId} {w : List Requester} :
    l ∈ lanesOfClass s c w ↔ .composer l ∈ w ∧ composerClass s l = c := by
  simp only [lanesOfClass, List.mem_filterMap]
  constructor
  · rintro ⟨r, hr, h⟩
    cases r with
    | composer k => obtain ⟨rfl, rfl⟩ : composerClass s k = c ∧ k = l := by simpa using h
                    exact ⟨hr, rfl⟩
    | _ => simp at h
  · rintro ⟨h, rfl⟩
    exact ⟨_, h, by simp⟩

/-- Only a composer is of a class that rotates. -/
theorem composer_of_class {s : State} {r : Requester} (h : requestClass s r = 1 ∨ requestClass s r = 4) :
    ∃ l, r = .composer l := by
  cases r with
  | composer l => exact ⟨l, rfl⟩
  | _ => simp [requestClass] at h

/-- Within a class a request that waits in it is granted, and no other. -/
theorem grantInClass_mem {s : State} {c : Nat} {r : Requester} {w : List Requester}
    (h : grantInClass s c w = some r) : r ∈ w ∧ requestClass s r = c := by
  have lanes {last : LaneId} {d : Nat} (h : (rotate last (lanesOfClass s d w)).map .composer = some r) :
      r ∈ w ∧ requestClass s r = d := by
    obtain ⟨l, hl, rfl⟩ := Option.map_eq_some_iff.1 h
    exact mem_lanesOfClass.1 (rotate_mem hl)
  unfold grantInClass at h
  split at h
  · next hc => exact hc ▸ lanes h
  · split at h
    · next hc => exact hc ▸ lanes h
    · exact ⟨List.mem_of_find?_eq_some h, by simpa using List.find?_some h⟩

/-- A class in which a request waits has a grant. -/
theorem grantInClass_isSome {s : State} {q : Requester} {w : List Requester} (h : q ∈ w) :
    (grantInClass s (requestClass s q) w).isSome = true := by
  unfold grantInClass
  split
  · next hc =>
    obtain ⟨l, rfl⟩ := composer_of_class (.inl hc)
    simpa using rotate_isSome (mem_lanesOfClass.2 ⟨h, hc⟩)
  · split
    · next hc =>
      obtain ⟨l, rfl⟩ := composer_of_class (.inr hc)
      simpa using rotate_isSome (mem_lanesOfClass.2 ⟨h, hc⟩)
    · exact List.find?_isSome.2 ⟨q, h, by simp⟩

/-! ## Grants -/

/-- A requester that waits alone is granted. -/
theorem arbiterGrant_only (s : State) (r : Requester) : arbiterGrant s [r] = some r := by
  have hs : (arbiterGrant s [r]).isSome = true :=
    List.findSome?_isSome_iff.2 ⟨_, requestClass_mem s r, grantInClass_isSome (by simp)⟩
  obtain ⟨q, hq⟩ := Option.isSome_iff_exists.1 hs
  obtain ⟨c, -, hc⟩ := List.exists_of_findSome?_eq_some hq
  rw [hq, List.mem_singleton.1 (grantInClass_mem hc).1]

/-- With no request waiting, every request is granted. -/
theorem grants_alone {s : State} (h : s.requests = []) (r : Requester) : s.grants r = true := by
  simp [State.grants, h, arbiterGrant_only]

/-- What waits at the memory port: the Lander's request, if it is outstanding, and those of `waiting` (R34, R156). -/
theorem mem_requests {s : State} {q : Requester} : q ∈ s.requests ↔
    (q = .lander ∧ ∃ b, s.lander = .body b ∧ b.request.isSome = true) ∨ q ∈ s.waiting := by
  have : q ∈ landerRequest s ↔ q = .lander ∧ ∃ b, s.lander = .body b ∧ b.request.isSome = true := by
    unfold landerRequest
    cases h : s.lander with
    | body b => by_cases hb : b.request.isSome = true <;> simp [hb]
    | _ => simp
  simp [State.requests, this]

/-! ## What waits and what runs -/

/-- With no request waiting, any number of requests is granted one after another. -/
theorem grantsRun_alone {s : State} (h : s.requests = []) (r : Requester) (n : Nat) : s.grantsRun r n = true := by
  simp [State.grantsRun, grants_alone h, h]

/-- With no request waiting, a segment's requests are granted. -/
theorem segmentGranted_alone {s : State} (h : s.requests = []) (g : Segment) (n : Nat) :
    segmentGranted s g n = true := grantsRun_alone h _ _

/-- A segment whose requests are granted goes on with its payload read (R44). -/
theorem whenRead_granted {s : State} {g : Segment} {n : Nat} (h : segmentGranted s g n = true) (next : State → State) :
    whenRead g n next s = next (payloadDone g s) := by
  simp [whenRead, h]

/-- A segment whose requests wait changes nothing (R156). -/
theorem whenRead_waiting {s : State} {g : Segment} {n : Nat} (h : segmentGranted s g n = false) (next : State → State) :
    whenRead g n next s = s := by
  simp [whenRead, h]

/-- A request that does not wait leaves the others waiting. -/
theorem served_of_not_mem {s : State} {r : Requester} (h : r ∉ s.waiting) : s.served r = s := by
  have : s.waiting.filter (· != r) = s.waiting := List.filter_eq_self.2 fun a ha => by
    simpa using fun e : a = r => h (e ▸ ha)
  simp [State.served, this]

/-- With no request waiting but the Lander's, a host request's grant moves nothing (R156). -/
theorem portGrant_alone {s : State} (h : s.waiting = []) : portGrant s = s := by
  have hn : lanesOfClass s 1 s.requests = [] := by
    rw [List.eq_nil_iff_forall_not_mem]
    intro l hl
    rcases mem_requests.1 (mem_lanesOfClass.1 hl).1 with ⟨h, -⟩ | h'
    · cases h
    · simp [h] at h'
  have : ∀ t : State, t.waiting = [] → { t with waiting := [] } = t := by
    rintro ⟨⟩ rfl; rfl
  simp only [portGrant, portTaken, lanesFirst, hn]
  simpa [h] using this s h

/-! ## A tick's port events -/

/-- What a grant within a tick can do: nothing, or the arbiter's choice is a composer, the Unpacker or the profile loader
(R156). -/
theorem grantNext_cases (s : State) :
    grantNext s = s ∨ (∃ l, arbiterGrant s s.requests = some (.composer l) ∧ grantNext s = grantLane l s) ∨
    (arbiterGrant s s.requests = some .unpacker ∧ grantNext s = grantPayload s) ∨
    (arbiterGrant s s.requests = some .profileLoader ∧ grantNext s = loaderGranted s) := by
  unfold grantNext
  split <;> simp_all

/-- What an arrival can do: nothing, or its requester notes what it asks for and the request joins those waiting, behind
them (R156). -/
theorem requestArrives_cases (r : Requester) (n : Nat) (s : State) :
    requestArrives r n s = s ∨
    (s.mayRequest r = true ∧ r ∉ s.waiting ∧
      requestArrives r n s = { noteAsked r n s with waiting := s.waiting ++ [r] }) := by
  unfold requestArrives
  split
  · rename_i h
    simp only [Bool.and_eq_true, Bool.not_eq_true', List.contains_eq_mem, decide_eq_false_iff_not] at h
    exact .inr ⟨h.1, h.2, rfl⟩
  · exact .inl rfl

/-- What holds of a state, and after every arrival and every grant of a tick, holds after the tick's port events. -/
theorem portRuns_induction {P : State → Prop} {s : State} (h : P s) (arrive : ∀ r n t, P t → P (requestArrives r n t))
    (grant : ∀ t, P t → P (grantNext t)) : P (portRuns s) := by
  unfold portRuns
  induction Config.portEvents s.free generalizing s with
  | nil => exact h
  | cons e es ih =>
    cases e with
    | arrives r n => exact ih (arrive r n s h)
    | grant => exact ih (grant s h)

end Sys2Proof.Machine
end

