-- ==== Sys2Proof/Laws/State.lean ====
section
/-! SUPPORT. Field lemmas of the named updates: what each sets and what it leaves. -/

namespace Sys2Proof.Machine

/-! ## Quads -/

@[simp] theorem Quad.get_set_self {α : Type} (q : Quad α) (i : Fin 4) (v : α) : (q.set i v).get i = v := by
  match i with
  | 0 => rfl
  | 1 => rfl
  | 2 => rfl
  | 3 => rfl

theorem Quad.get_set_ne {α : Type} (q : Quad α) {i j : Fin 4} (v : α) (h : j ≠ i) : (q.set i v).get j = q.get j := by
  match i, j with
  | 0, 0 | 1, 1 | 2, 2 | 3, 3 => exact absurd rfl h
  | 0, 1 | 0, 2 | 0, 3 | 1, 0 | 1, 2 | 1, 3 | 2, 0 | 2, 1 | 2, 3 | 3, 0 | 3, 1 | 3, 2 => rfl

theorem Quad.ext_get {α : Type} {p q : Quad α} (h : ∀ i, p.get i = q.get i) : p = q := by
  obtain ⟨a, b, c, d⟩ := p
  obtain ⟨a', b', c', d'⟩ := q
  have h0 : a = a' := h 0
  have h1 : b = b' := h 1
  have h2 : c = c' := h 2
  have h3 : d = d' := h 3
  rw [h0, h1, h2, h3]

theorem Quad.set_get {α : Type} (q : Quad α) (i : Fin 4) : q.set i (q.get i) = q := by
  match i with
  | 0 => rfl
  | 1 => rfl
  | 2 => rfl
  | 3 => rfl

/-! ## Lanes -/

@[simp] theorem lane_modLane (l : LaneId) (g : Lane → Lane) (s : State) : (modLane l g s).lane l = g (s.lane l) := by
  simp [State.lane, modLane]

theorem lane_modLane_ne {l k : LaneId} (g : Lane → Lane) (s : State) (h : k ≠ l) :
    (modLane l g s).lane k = s.lane k := by
  simp [State.lane, modLane, Quad.get_set_ne _ _ h]

/-! ## Page records -/

theorem page_setPage {f : Nat} (r : Option Page) (s : State) (h : f < s.pages.length) :
    (setPage f r s).page f = r := by
  simp [State.page, setPage, h]

theorem page_setPage_ne {f g : Nat} (r : Option Page) (s : State) (h : g ≠ f) :
    (setPage f r s).page g = s.page g := by
  simp [State.page, setPage, List.getD_eq_getElem?_getD, h.symm]

theorem page_lt {s : State} {f : Nat} {p : Page} (h : s.page f = some p) : f < s.pages.length := by
  by_contra hn
  have hnone : s.pages[f]? = none := List.getElem?_eq_none (by omega)
  simp [State.page, List.getD_eq_getElem?_getD, hnone] at h

theorem page_modPage {s : State} {f : Nat} {p : Page} (g : Page → Page) (h : s.page f = some p) :
    (modPage f g s).page f = some (g p) := by
  simp only [modPage, h]
  exact page_setPage _ _ (page_lt h)

theorem page_modPage_ne {f k : Nat} (g : Page → Page) (s : State) (h : k ≠ f) :
    (modPage f g s).page k = s.page k := by
  unfold modPage
  split
  · exact page_setPage_ne _ _ h
  · rfl

/-! ## withPending -/

@[simp] theorem withPending_mem (cs : List Instr) (s : State) : (s.withPending cs).mem = s.mem := rfl
@[simp] theorem withPending_badWords (cs : List Instr) (s : State) : (s.withPending cs).badWords = s.badWords := rfl
@[simp] theorem withPending_arbLast1 (cs : List Instr) (s : State) : (s.withPending cs).arbLast1 = s.arbLast1 := rfl
@[simp] theorem withPending_arbLast4 (cs : List Instr) (s : State) : (s.withPending cs).arbLast4 = s.arbLast4 := rfl
@[simp] theorem withPending_waiting (cs : List Instr) (s : State) : (s.withPending cs).waiting = s.waiting := rfl
@[simp] theorem withPending_clock (cs : List Instr) (s : State) : (s.withPending cs).clock = s.clock := rfl
@[simp] theorem withPending_engine (cs : List Instr) (s : State) : (s.withPending cs).engine = s.engine := rfl
@[simp] theorem withPending_loader (cs : List Instr) (s : State) : (s.withPending cs).loader = s.loader := rfl
@[simp] theorem withPending_profile (cs : List Instr) (s : State) : (s.withPending cs).profile = s.profile := rfl
@[simp] theorem withPending_held (cs : List Instr) (s : State) : (s.withPending cs).held = s.held := rfl
@[simp] theorem withPending_responses (cs : List Instr) (s : State) : (s.withPending cs).responses = s.responses := rfl
@[simp] theorem withPending_lander (cs : List Instr) (s : State) : (s.withPending cs).lander = s.lander := rfl
@[simp] theorem withPending_discarded (cs : List Instr) (s : State) : (s.withPending cs).discarded = s.discarded := rfl
@[simp] theorem withPending_ringHead (cs : List Instr) (s : State) : (s.withPending cs).ringHead = s.ringHead := rfl
@[simp] theorem withPending_ringTail (cs : List Instr) (s : State) : (s.withPending cs).ringTail = s.ringTail := rfl
@[simp] theorem withPending_ringUsed (cs : List Instr) (s : State) : (s.withPending cs).ringUsed = s.ringUsed := rfl
@[simp] theorem withPending_landed (cs : List Instr) (s : State) : (s.withPending cs).landed = s.landed := rfl
@[simp] theorem withPending_unpacker (cs : List Instr) (s : State) : (s.withPending cs).unpacker = s.unpacker := rfl
@[simp] theorem withPending_pages (cs : List Instr) (s : State) : (s.withPending cs).pages = s.pages := rfl
@[simp] theorem withPending_unpackerPage (cs : List Instr) (s : State) : (s.withPending cs).unpackerPage = s.unpackerPage := rfl
@[simp] theorem withPending_patches (cs : List Instr) (s : State) : (s.withPending cs).patches = s.patches := rfl
@[simp] theorem withPending_slotsInUse (cs : List Instr) (s : State) : (s.withPending cs).slotsInUse = s.slotsInUse := rfl
@[simp] theorem withPending_slotPointer (cs : List Instr) (s : State) : (s.withPending cs).slotPointer = s.slotPointer := rfl
@[simp] theorem withPending_proof (cs : List Instr) (s : State) : (s.withPending cs).proof = s.proof := rfl
@[simp] theorem withPending_lanes (cs : List Instr) (s : State) : (s.withPending cs).lanes = s.lanes := rfl
@[simp] theorem withPending_assembly (cs : List Instr) (s : State) : (s.withPending cs).assembly = s.assembly := rfl
@[simp] theorem withPending_orderQueue (cs : List Instr) (s : State) : (s.withPending cs).orderQueue = s.orderQueue := rfl
@[simp] theorem withPending_inHand (cs : List Instr) (s : State) : (s.withPending cs).inHand = s.inHand := rfl
@[simp] theorem withPending_writeCount (cs : List Instr) (s : State) : (s.withPending cs).writeCount = s.writeCount := rfl
@[simp] theorem withPending_consumed (cs : List Instr) (s : State) : (s.withPending cs).consumed = s.consumed := rfl
@[simp] theorem withPending_overflowFlag (cs : List Instr) (s : State) : (s.withPending cs).overflowFlag = s.overflowFlag := rfl
@[simp] theorem withPending_overflowOwed (cs : List Instr) (s : State) : (s.withPending cs).overflowOwed = s.overflowOwed := rfl
@[simp] theorem withPending_payloadRead (cs : List Instr) (s : State) : (s.withPending cs).payloadRead = s.payloadRead := rfl
@[simp] theorem withPending_reports (cs : List Instr) (s : State) : (s.withPending cs).reports = s.reports := rfl
@[simp] theorem withPending_attn (cs : List Instr) (s : State) : (s.withPending cs).attn = s.attn := rfl
@[simp] theorem withPending_free (cs : List Instr) (s : State) : (s.withPending cs).free = s.free := rfl

/-! ## loaderReadsOn -/

@[simp] theorem loaderReadsOn_pending (s : State) : (loaderReadsOn s).pending = s.pending := by unfold loaderReadsOn; split <;> rfl
@[simp] theorem loaderReadsOn_mem (s : State) : (loaderReadsOn s).mem = s.mem := by unfold loaderReadsOn; split <;> rfl
@[simp] theorem loaderReadsOn_badWords (s : State) : (loaderReadsOn s).badWords = s.badWords := by unfold loaderReadsOn; split <;> rfl
@[simp] theorem loaderReadsOn_arbLast1 (s : State) : (loaderReadsOn s).arbLast1 = s.arbLast1 := by unfold loaderReadsOn; split <;> rfl
@[simp] theorem loaderReadsOn_arbLast4 (s : State) : (loaderReadsOn s).arbLast4 = s.arbLast4 := by unfold loaderReadsOn; split <;> rfl
@[simp] theorem loaderReadsOn_clock (s : State) : (loaderReadsOn s).clock = s.clock := by unfold loaderReadsOn; split <;> rfl
@[simp] theorem loaderReadsOn_engine (s : State) : (loaderReadsOn s).engine = s.engine := by unfold loaderReadsOn; split <;> rfl
@[simp] theorem loaderReadsOn_profile (s : State) : (loaderReadsOn s).profile = s.profile := by unfold loaderReadsOn; split <;> rfl
@[simp] theorem loaderReadsOn_held (s : State) : (loaderReadsOn s).held = s.held := by unfold loaderReadsOn; split <;> rfl
@[simp] theorem loaderReadsOn_responses (s : State) : (loaderReadsOn s).responses = s.responses := by unfold loaderReadsOn; split <;> rfl
@[simp] theorem loaderReadsOn_lander (s : State) : (loaderReadsOn s).lander = s.lander := by unfold loaderReadsOn; split <;> rfl
@[simp] theorem loaderReadsOn_discarded (s : State) : (loaderReadsOn s).discarded = s.discarded := by unfold loaderReadsOn; split <;> rfl
@[simp] theorem loaderReadsOn_ringHead (s : State) : (loaderReadsOn s).ringHead = s.ringHead := by unfold loaderReadsOn; split <;> rfl
@[simp] theorem loaderReadsOn_ringTail (s : State) : (loaderReadsOn s).ringTail = s.ringTail := by unfold loaderReadsOn; split <;> rfl
@[simp] theorem loaderReadsOn_ringUsed (s : State) : (loaderReadsOn s).ringUsed = s.ringUsed := by unfold loaderReadsOn; split <;> rfl
@[simp] theorem loaderReadsOn_landed (s : State) : (loaderReadsOn s).landed = s.landed := by unfold loaderReadsOn; split <;> rfl
@[simp] theorem loaderReadsOn_unpacker (s : State) : (loaderReadsOn s).unpacker = s.unpacker := by unfold loaderReadsOn; split <;> rfl
@[simp] theorem loaderReadsOn_pages (s : State) : (loaderReadsOn s).pages = s.pages := by unfold loaderReadsOn; split <;> rfl
@[simp] theorem loaderReadsOn_unpackerPage (s : State) : (loaderReadsOn s).unpackerPage = s.unpackerPage := by unfold loaderReadsOn; split <;> rfl
@[simp] theorem loaderReadsOn_patches (s : State) : (loaderReadsOn s).patches = s.patches := by unfold loaderReadsOn; split <;> rfl
@[simp] theorem loaderReadsOn_slotsInUse (s : State) : (loaderReadsOn s).slotsInUse = s.slotsInUse := by unfold loaderReadsOn; split <;> rfl
@[simp] theorem loaderReadsOn_slotPointer (s : State) : (loaderReadsOn s).slotPointer = s.slotPointer := by unfold loaderReadsOn; split <;> rfl
@[simp] theorem loaderReadsOn_proof (s : State) : (loaderReadsOn s).proof = s.proof := by unfold loaderReadsOn; split <;> rfl
@[simp] theorem loaderReadsOn_lanes (s : State) : (loaderReadsOn s).lanes = s.lanes := by unfold loaderReadsOn; split <;> rfl
@[simp] theorem loaderReadsOn_assembly (s : State) : (loaderReadsOn s).assembly = s.assembly := by unfold loaderReadsOn; split <;> rfl
@[simp] theorem loaderReadsOn_orderQueue (s : State) : (loaderReadsOn s).orderQueue = s.orderQueue := by unfold loaderReadsOn; split <;> rfl
@[simp] theorem loaderReadsOn_inHand (s : State) : (loaderReadsOn s).inHand = s.inHand := by unfold loaderReadsOn; split <;> rfl
@[simp] theorem loaderReadsOn_writeCount (s : State) : (loaderReadsOn s).writeCount = s.writeCount := by unfold loaderReadsOn; split <;> rfl
@[simp] theorem loaderReadsOn_consumed (s : State) : (loaderReadsOn s).consumed = s.consumed := by unfold loaderReadsOn; split <;> rfl
@[simp] theorem loaderReadsOn_overflowFlag (s : State) : (loaderReadsOn s).overflowFlag = s.overflowFlag := by unfold loaderReadsOn; split <;> rfl
@[simp] theorem loaderReadsOn_overflowOwed (s : State) : (loaderReadsOn s).overflowOwed = s.overflowOwed := by unfold loaderReadsOn; split <;> rfl
@[simp] theorem loaderReadsOn_payloadRead (s : State) : (loaderReadsOn s).payloadRead = s.payloadRead := by unfold loaderReadsOn; split <;> rfl
@[simp] theorem loaderReadsOn_reports (s : State) : (loaderReadsOn s).reports = s.reports := by unfold loaderReadsOn; split <;> rfl
@[simp] theorem loaderReadsOn_attn (s : State) : (loaderReadsOn s).attn = s.attn := by unfold loaderReadsOn; split <;> rfl

/-- The loader's request waits no more once a word is read, and the others wait as they did (R156, R162). -/
theorem loaderReadsOn_waiting (s : State) : (loaderReadsOn s).waiting =
    if (loaderReadsOn s).loader = s.loader then s.waiting else s.waiting.filter (· != .profileLoader) := by
  unfold loaderReadsOn
  split <;> simp

/-- Without a load the loader reads nothing. -/
theorem loaderReadsOn_idle {s : State} (h : s.loader = none) : loaderReadsOn s = s := by simp [loaderReadsOn, h]

/-- While a request that goes before the loader's waits, it reads nothing (R156). -/
theorem loaderReadsOn_blocked {s : State} (h : s.grants .profileLoader = false) : loaderReadsOn s = s := by
  simp [loaderReadsOn, h]

/-! ## The memory port within a tick -/

/-- All that what happens at the memory port can move: the loader, the arbiter's pointers, the requests waiting, the rows
in composition and the reading of a payload. -/
structure PortMoves (s t : State) : Prop where
  state : t = { s with loader := t.loader, arbLast1 := t.arbLast1, arbLast4 := t.arbLast4, waiting := t.waiting
                       lanes := t.lanes, payloadRead := t.payloadRead }
  lanes : ∀ l, (t.lane l).withoutRows = (s.lane l).withoutRows

theorem PortMoves.refl (s : State) : PortMoves s s := ⟨rfl, fun _ => rfl⟩

theorem PortMoves.trans {s t u : State} (h : PortMoves s t) (k : PortMoves t u) : PortMoves s u :=
  ⟨k.state.trans (by rw [h.state]), fun l => (k.lanes l).trans (h.lanes l)⟩

/-- A change of one lane that leaves it but for the rows in composition as it was. -/
theorem modLane_moves (l : LaneId) (g : Lane → Lane) (s : State)
    (h : (g (s.lane l)).withoutRows = (s.lane l).withoutRows) : PortMoves s (modLane l g s) := by
  refine ⟨rfl, fun k => ?_⟩
  by_cases hk : k = l
  · rw [hk, lane_modLane]; exact h
  · rw [lane_modLane_ne g s hk]

theorem rowGranted_withoutRow (s : State) (c : Latched) : (rowGranted s c).withoutRow = c.withoutRow := by
  unfold rowGranted
  split <;> rfl

theorem rowAsks_withoutRow (s : State) (n : Nat) (c : Latched) : (rowAsks s n c).withoutRow = c.withoutRow := by
  unfold rowAsks
  split <;> rfl

theorem rowsRead_withoutRows (s : State) (L : Lane) : (L.rowsRead s).withoutRows = L.withoutRows := by
  simp [Lane.rowsRead, Lane.withoutRows, Function.comp_def, rowGranted_withoutRow]

theorem noteGrant_moves (l : LaneId) (s : State) : PortMoves s (noteGrant l s) := by
  unfold noteGrant
  split <;> exact ⟨rfl, fun _ => rfl⟩

theorem grantLane_moves (l : LaneId) (s : State) : PortMoves s (grantLane l s) :=
  ((noteGrant_moves l s).trans (u := (noteGrant l s).served (.composer l)) ⟨rfl, fun _ => rfl⟩).trans
    (modLane_moves l _ _ (rowsRead_withoutRows s _))

theorem loaderGranted_moves (s : State) : PortMoves s (loaderGranted s) := by
  unfold loaderGranted
  repeat' split
  all_goals exact ⟨rfl, fun _ => rfl⟩

/-- The row a lane composer composes next is of the context it is said to be of. -/
theorem rowInHand_ctx {s : State} {l : LaneId} {m : RowMark} {c : Latched} (h : rowInHand s l = some (m, c)) :
    match m with
    | .front => (s.lane l).frontCtx = some c
    | .back => (s.lane l).backCtx = some c := by
  unfold rowInHand composing at h
  split at h
  · split at h
    · split at h
      · cases h; assumption
      · split at h
        · split at h
          · cases h; assumption
          · cases h
        · cases h
    · split at h
      · split at h
        · cases h; assumption
        · cases h
      · cases h
  · cases h

theorem noteAsked_moves (r : Requester) (n : Nat) (s : State) : PortMoves s (noteAsked r n s) := by
  unfold noteAsked
  split
  · split
    · rename_i h
      exact modLane_moves _ _ s (by simp [Lane.withoutRows, show _ = _ from rowInHand_ctx h, rowAsks_withoutRow])
    · rename_i h
      exact modLane_moves _ _ s (by simp [Lane.withoutRows, show _ = _ from rowInHand_ctx h, rowAsks_withoutRow])
    · exact PortMoves.refl s
  · exact ⟨rfl, fun _ => rfl⟩
  · exact PortMoves.refl s

theorem requestArrives_moves (r : Requester) (n : Nat) (s : State) : PortMoves s (requestArrives r n s) := by
  unfold requestArrives
  split
  · exact (noteAsked_moves r n s).trans ⟨rfl, fun _ => rfl⟩
  · exact PortMoves.refl s

theorem grantNext_moves (s : State) : PortMoves s (grantNext s) := by
  unfold grantNext
  split
  · exact grantLane_moves _ s
  · exact ⟨rfl, fun _ => rfl⟩
  · exact loaderGranted_moves s
  all_goals exact PortMoves.refl s

theorem portEvent_moves (s : State) : ∀ e, PortMoves s (portEvent s e)
  | .arrives r n => requestArrives_moves r n s
  | .grant => grantNext_moves s

theorem portRuns_moves (s : State) : PortMoves s (portRuns s) := by
  unfold portRuns
  generalize Config.portEvents s.free = es
  induction es generalizing s with
  | nil => exact PortMoves.refl s
  | cons e es ih => exact (portEvent_moves s e).trans (ih _)

@[simp] theorem portRuns_pending (s : State) : (portRuns s).pending = s.pending := by rw [(portRuns_moves s).state]
@[simp] theorem portRuns_mem (s : State) : (portRuns s).mem = s.mem := by rw [(portRuns_moves s).state]
@[simp] theorem portRuns_badWords (s : State) : (portRuns s).badWords = s.badWords := by rw [(portRuns_moves s).state]
@[simp] theorem portRuns_clock (s : State) : (portRuns s).clock = s.clock := by rw [(portRuns_moves s).state]
@[simp] theorem portRuns_engine (s : State) : (portRuns s).engine = s.engine := by rw [(portRuns_moves s).state]
@[simp] theorem portRuns_profile (s : State) : (portRuns s).profile = s.profile := by rw [(portRuns_moves s).state]
@[simp] theorem portRuns_held (s : State) : (portRuns s).held = s.held := by rw [(portRuns_moves s).state]
@[simp] theorem portRuns_responses (s : State) : (portRuns s).responses = s.responses := by rw [(portRuns_moves s).state]
@[simp] theorem portRuns_lander (s : State) : (portRuns s).lander = s.lander := by rw [(portRuns_moves s).state]
@[simp] theorem portRuns_discarded (s : State) : (portRuns s).discarded = s.discarded := by rw [(portRuns_moves s).state]
@[simp] theorem portRuns_ringHead (s : State) : (portRuns s).ringHead = s.ringHead := by rw [(portRuns_moves s).state]
@[simp] theorem portRuns_ringTail (s : State) : (portRuns s).ringTail = s.ringTail := by rw [(portRuns_moves s).state]
@[simp] theorem portRuns_ringUsed (s : State) : (portRuns s).ringUsed = s.ringUsed := by rw [(portRuns_moves s).state]
@[simp] theorem portRuns_landed (s : State) : (portRuns s).landed = s.landed := by rw [(portRuns_moves s).state]
@[simp] theorem portRuns_unpacker (s : State) : (portRuns s).unpacker = s.unpacker := by rw [(portRuns_moves s).state]
@[simp] theorem portRuns_pages (s : State) : (portRuns s).pages = s.pages := by rw [(portRuns_moves s).state]
@[simp] theorem portRuns_unpackerPage (s : State) : (portRuns s).unpackerPage = s.unpackerPage := by rw [(portRuns_moves s).state]
@[simp] theorem portRuns_patches (s : State) : (portRuns s).patches = s.patches := by rw [(portRuns_moves s).state]
@[simp] theorem portRuns_slotsInUse (s : State) : (portRuns s).slotsInUse = s.slotsInUse := by rw [(portRuns_moves s).state]
@[simp] theorem portRuns_slotPointer (s : State) : (portRuns s).slotPointer = s.slotPointer := by rw [(portRuns_moves s).state]
@[simp] theorem portRuns_proof (s : State) : (portRuns s).proof = s.proof := by rw [(portRuns_moves s).state]
@[simp] theorem portRuns_assembly (s : State) : (portRuns s).assembly = s.assembly := by rw [(portRuns_moves s).state]
@[simp] theorem portRuns_orderQueue (s : State) : (portRuns s).orderQueue = s.orderQueue := by rw [(portRuns_moves s).state]
@[simp] theorem portRuns_inHand (s : State) : (portRuns s).inHand = s.inHand := by rw [(portRuns_moves s).state]
@[simp] theorem portRuns_writeCount (s : State) : (portRuns s).writeCount = s.writeCount := by rw [(portRuns_moves s).state]
@[simp] theorem portRuns_consumed (s : State) : (portRuns s).consumed = s.consumed := by rw [(portRuns_moves s).state]
@[simp] theorem portRuns_overflowFlag (s : State) : (portRuns s).overflowFlag = s.overflowFlag := by rw [(portRuns_moves s).state]
@[simp] theorem portRuns_overflowOwed (s : State) : (portRuns s).overflowOwed = s.overflowOwed := by rw [(portRuns_moves s).state]
@[simp] theorem portRuns_reports (s : State) : (portRuns s).reports = s.reports := by rw [(portRuns_moves s).state]
@[simp] theorem portRuns_attn (s : State) : (portRuns s).attn = s.attn := by rw [(portRuns_moves s).state]
@[simp] theorem portRuns_free (s : State) : (portRuns s).free = s.free := by rw [(portRuns_moves s).state]

/-- A lane but for the rows in composition, as the memory port's events leave it. -/
theorem portRuns_lanes (s : State) (k : LaneId) : ((portRuns s).lane k).withoutRows = (s.lane k).withoutRows :=
  (portRuns_moves s).lanes k

/-! ## tick -/

/-- A lane but for the rows in composition, as a tick leaves it. -/
theorem tick_lanes (s : State) (k : LaneId) : ((tick s).lane k).withoutRows = (s.lane k).withoutRows :=
  portRuns_lanes s k

@[simp] theorem tick_pending (s : State) : (tick s).pending = s.pending := portRuns_pending s
@[simp] theorem tick_mem (s : State) : (tick s).mem = s.mem := portRuns_mem s
@[simp] theorem tick_engine (s : State) : (tick s).engine = s.engine := portRuns_engine s
@[simp] theorem tick_profile (s : State) : (tick s).profile = s.profile := portRuns_profile s
@[simp] theorem tick_held (s : State) : (tick s).held = s.held := portRuns_held s
@[simp] theorem tick_responses (s : State) : (tick s).responses = s.responses := portRuns_responses s
@[simp] theorem tick_lander (s : State) : (tick s).lander = s.lander := portRuns_lander s
@[simp] theorem tick_discarded (s : State) : (tick s).discarded = s.discarded := portRuns_discarded s
@[simp] theorem tick_ringHead (s : State) : (tick s).ringHead = s.ringHead := portRuns_ringHead s
@[simp] theorem tick_ringTail (s : State) : (tick s).ringTail = s.ringTail := portRuns_ringTail s
@[simp] theorem tick_ringUsed (s : State) : (tick s).ringUsed = s.ringUsed := portRuns_ringUsed s
@[simp] theorem tick_landed (s : State) : (tick s).landed = s.landed := portRuns_landed s
@[simp] theorem tick_unpacker (s : State) : (tick s).unpacker = s.unpacker := portRuns_unpacker s
@[simp] theorem tick_pages (s : State) : (tick s).pages = s.pages := portRuns_pages s
@[simp] theorem tick_unpackerPage (s : State) : (tick s).unpackerPage = s.unpackerPage := portRuns_unpackerPage s
@[simp] theorem tick_patches (s : State) : (tick s).patches = s.patches := portRuns_patches s
@[simp] theorem tick_slotsInUse (s : State) : (tick s).slotsInUse = s.slotsInUse := portRuns_slotsInUse s
@[simp] theorem tick_slotPointer (s : State) : (tick s).slotPointer = s.slotPointer := portRuns_slotPointer s
@[simp] theorem tick_proof (s : State) : (tick s).proof = s.proof := portRuns_proof s
@[simp] theorem tick_assembly (s : State) : (tick s).assembly = s.assembly := portRuns_assembly s
@[simp] theorem tick_orderQueue (s : State) : (tick s).orderQueue = s.orderQueue := portRuns_orderQueue s
@[simp] theorem tick_inHand (s : State) : (tick s).inHand = s.inHand := portRuns_inHand s
@[simp] theorem tick_writeCount (s : State) : (tick s).writeCount = s.writeCount := portRuns_writeCount s
@[simp] theorem tick_consumed (s : State) : (tick s).consumed = s.consumed := portRuns_consumed s
@[simp] theorem tick_overflowFlag (s : State) : (tick s).overflowFlag = s.overflowFlag := portRuns_overflowFlag s
@[simp] theorem tick_overflowOwed (s : State) : (tick s).overflowOwed = s.overflowOwed := portRuns_overflowOwed s
@[simp] theorem tick_reports (s : State) : (tick s).reports = s.reports := portRuns_reports s
@[simp] theorem tick_attn (s : State) : (tick s).attn = s.attn := portRuns_attn s
@[simp] theorem tick_arbLast1 (s : State) : (tick s).arbLast1 = (portRuns s).arbLast1 := rfl
@[simp] theorem tick_arbLast4 (s : State) : (tick s).arbLast4 = (portRuns s).arbLast4 := rfl
@[simp] theorem tick_waiting (s : State) : (tick s).waiting = (portRuns s).waiting := rfl
@[simp] theorem tick_loader (s : State) : (tick s).loader = (portRuns s).loader := rfl
@[simp] theorem tick_clock (s : State) : (tick s).clock = s.clock + 1 := by simp [tick]
@[simp] theorem tick_free (s : State) : (tick s).free = s.free + 1 := by simp [tick]

/-! ## portTaken -/

@[simp] theorem portTaken_pending (s : State) : (portTaken s).pending = s.pending := rfl
@[simp] theorem portTaken_mem (s : State) : (portTaken s).mem = s.mem := rfl
@[simp] theorem portTaken_badWords (s : State) : (portTaken s).badWords = s.badWords := rfl
@[simp] theorem portTaken_clock (s : State) : (portTaken s).clock = s.clock := rfl
@[simp] theorem portTaken_engine (s : State) : (portTaken s).engine = s.engine := rfl
@[simp] theorem portTaken_profile (s : State) : (portTaken s).profile = s.profile := rfl
@[simp] theorem portTaken_held (s : State) : (portTaken s).held = s.held := rfl
@[simp] theorem portTaken_responses (s : State) : (portTaken s).responses = s.responses := rfl
@[simp] theorem portTaken_lander (s : State) : (portTaken s).lander = s.lander := rfl
@[simp] theorem portTaken_discarded (s : State) : (portTaken s).discarded = s.discarded := rfl
@[simp] theorem portTaken_ringHead (s : State) : (portTaken s).ringHead = s.ringHead := rfl
@[simp] theorem portTaken_ringTail (s : State) : (portTaken s).ringTail = s.ringTail := rfl
@[simp] theorem portTaken_ringUsed (s : State) : (portTaken s).ringUsed = s.ringUsed := rfl
@[simp] theorem portTaken_landed (s : State) : (portTaken s).landed = s.landed := rfl
@[simp] theorem portTaken_unpacker (s : State) : (portTaken s).unpacker = s.unpacker := rfl
@[simp] theorem portTaken_pages (s : State) : (portTaken s).pages = s.pages := rfl
@[simp] theorem portTaken_unpackerPage (s : State) : (portTaken s).unpackerPage = s.unpackerPage := rfl
@[simp] theorem portTaken_patches (s : State) : (portTaken s).patches = s.patches := rfl
@[simp] theorem portTaken_slotsInUse (s : State) : (portTaken s).slotsInUse = s.slotsInUse := rfl
@[simp] theorem portTaken_slotPointer (s : State) : (portTaken s).slotPointer = s.slotPointer := rfl
@[simp] theorem portTaken_proof (s : State) : (portTaken s).proof = s.proof := rfl
@[simp] theorem portTaken_lanes (s : State) : (portTaken s).lanes = s.lanes := rfl
@[simp] theorem portTaken_assembly (s : State) : (portTaken s).assembly = s.assembly := rfl
@[simp] theorem portTaken_orderQueue (s : State) : (portTaken s).orderQueue = s.orderQueue := rfl
@[simp] theorem portTaken_inHand (s : State) : (portTaken s).inHand = s.inHand := rfl
@[simp] theorem portTaken_writeCount (s : State) : (portTaken s).writeCount = s.writeCount := rfl
@[simp] theorem portTaken_consumed (s : State) : (portTaken s).consumed = s.consumed := rfl
@[simp] theorem portTaken_overflowFlag (s : State) : (portTaken s).overflowFlag = s.overflowFlag := rfl
@[simp] theorem portTaken_overflowOwed (s : State) : (portTaken s).overflowOwed = s.overflowOwed := rfl
@[simp] theorem portTaken_payloadRead (s : State) : (portTaken s).payloadRead = s.payloadRead := rfl
@[simp] theorem portTaken_reports (s : State) : (portTaken s).reports = s.reports := rfl
@[simp] theorem portTaken_attn (s : State) : (portTaken s).attn = s.attn := rfl
@[simp] theorem portTaken_free (s : State) : (portTaken s).free = s.free := rfl
@[simp] theorem portTaken_arbLast1 (s : State) : (portTaken s).arbLast1 = s.arbLast1 := rfl
@[simp] theorem portTaken_arbLast4 (s : State) : (portTaken s).arbLast4 = s.arbLast4 := rfl
@[simp] theorem portTaken_loader (s : State) : (portTaken s).loader = s.loader := rfl

/-! ## served -/

@[simp] theorem served_pending (r : Requester) (s : State) : (s.served r).pending = s.pending := rfl
@[simp] theorem served_mem (r : Requester) (s : State) : (s.served r).mem = s.mem := rfl
@[simp] theorem served_badWords (r : Requester) (s : State) : (s.served r).badWords = s.badWords := rfl
@[simp] theorem served_arbLast1 (r : Requester) (s : State) : (s.served r).arbLast1 = s.arbLast1 := rfl
@[simp] theorem served_arbLast4 (r : Requester) (s : State) : (s.served r).arbLast4 = s.arbLast4 := rfl
@[simp] theorem served_clock (r : Requester) (s : State) : (s.served r).clock = s.clock := rfl
@[simp] theorem served_engine (r : Requester) (s : State) : (s.served r).engine = s.engine := rfl
@[simp] theorem served_loader (r : Requester) (s : State) : (s.served r).loader = s.loader := rfl
@[simp] theorem served_profile (r : Requester) (s : State) : (s.served r).profile = s.profile := rfl
@[simp] theorem served_held (r : Requester) (s : State) : (s.served r).held = s.held := rfl
@[simp] theorem served_responses (r : Requester) (s : State) : (s.served r).responses = s.responses := rfl
@[simp] theorem served_lander (r : Requester) (s : State) : (s.served r).lander = s.lander := rfl
@[simp] theorem served_discarded (r : Requester) (s : State) : (s.served r).discarded = s.discarded := rfl
@[simp] theorem served_ringHead (r : Requester) (s : State) : (s.served r).ringHead = s.ringHead := rfl
@[simp] theorem served_ringTail (r : Requester) (s : State) : (s.served r).ringTail = s.ringTail := rfl
@[simp] theorem served_ringUsed (r : Requester) (s : State) : (s.served r).ringUsed = s.ringUsed := rfl
@[simp] theorem served_landed (r : Requester) (s : State) : (s.served r).landed = s.landed := rfl
@[simp] theorem served_unpacker (r : Requester) (s : State) : (s.served r).unpacker = s.unpacker := rfl
@[simp] theorem served_pages (r : Requester) (s : State) : (s.served r).pages = s.pages := rfl
@[simp] theorem served_unpackerPage (r : Requester) (s : State) : (s.served r).unpackerPage = s.unpackerPage := rfl
@[simp] theorem served_patches (r : Requester) (s : State) : (s.served r).patches = s.patches := rfl
@[simp] theorem served_slotsInUse (r : Requester) (s : State) : (s.served r).slotsInUse = s.slotsInUse := rfl
@[simp] theorem served_slotPointer (r : Requester) (s : State) : (s.served r).slotPointer = s.slotPointer := rfl
@[simp] theorem served_proof (r : Requester) (s : State) : (s.served r).proof = s.proof := rfl
@[simp] theorem served_lanes (r : Requester) (s : State) : (s.served r).lanes = s.lanes := rfl
@[simp] theorem served_assembly (r : Requester) (s : State) : (s.served r).assembly = s.assembly := rfl
@[simp] theorem served_orderQueue (r : Requester) (s : State) : (s.served r).orderQueue = s.orderQueue := rfl
@[simp] theorem served_inHand (r : Requester) (s : State) : (s.served r).inHand = s.inHand := rfl
@[simp] theorem served_writeCount (r : Requester) (s : State) : (s.served r).writeCount = s.writeCount := rfl
@[simp] theorem served_consumed (r : Requester) (s : State) : (s.served r).consumed = s.consumed := rfl
@[simp] theorem served_overflowFlag (r : Requester) (s : State) : (s.served r).overflowFlag = s.overflowFlag := rfl
@[simp] theorem served_overflowOwed (r : Requester) (s : State) : (s.served r).overflowOwed = s.overflowOwed := rfl
@[simp] theorem served_payloadRead (r : Requester) (s : State) : (s.served r).payloadRead = s.payloadRead := rfl
@[simp] theorem served_reports (r : Requester) (s : State) : (s.served r).reports = s.reports := rfl
@[simp] theorem served_attn (r : Requester) (s : State) : (s.served r).attn = s.attn := rfl
@[simp] theorem served_free (r : Requester) (s : State) : (s.served r).free = s.free := rfl

/-! ## noteGrant -/

@[simp] theorem noteGrant_pending (l : LaneId) (s : State) : (noteGrant l s).pending = s.pending := by unfold noteGrant; split <;> rfl
@[simp] theorem noteGrant_mem (l : LaneId) (s : State) : (noteGrant l s).mem = s.mem := by unfold noteGrant; split <;> rfl
@[simp] theorem noteGrant_badWords (l : LaneId) (s : State) : (noteGrant l s).badWords = s.badWords := by unfold noteGrant; split <;> rfl
@[simp] theorem noteGrant_waiting (l : LaneId) (s : State) : (noteGrant l s).waiting = s.waiting := by unfold noteGrant; split <;> rfl
@[simp] theorem noteGrant_clock (l : LaneId) (s : State) : (noteGrant l s).clock = s.clock := by unfold noteGrant; split <;> rfl
@[simp] theorem noteGrant_engine (l : LaneId) (s : State) : (noteGrant l s).engine = s.engine := by unfold noteGrant; split <;> rfl
@[simp] theorem noteGrant_loader (l : LaneId) (s : State) : (noteGrant l s).loader = s.loader := by unfold noteGrant; split <;> rfl
@[simp] theorem noteGrant_profile (l : LaneId) (s : State) : (noteGrant l s).profile = s.profile := by unfold noteGrant; split <;> rfl
@[simp] theorem noteGrant_held (l : LaneId) (s : State) : (noteGrant l s).held = s.held := by unfold noteGrant; split <;> rfl
@[simp] theorem noteGrant_responses (l : LaneId) (s : State) : (noteGrant l s).responses = s.responses := by unfold noteGrant; split <;> rfl
@[simp] theorem noteGrant_lander (l : LaneId) (s : State) : (noteGrant l s).lander = s.lander := by unfold noteGrant; split <;> rfl
@[simp] theorem noteGrant_discarded (l : LaneId) (s : State) : (noteGrant l s).discarded = s.discarded := by unfold noteGrant; split <;> rfl
@[simp] theorem noteGrant_ringHead (l : LaneId) (s : State) : (noteGrant l s).ringHead = s.ringHead := by unfold noteGrant; split <;> rfl
@[simp] theorem noteGrant_ringTail (l : LaneId) (s : State) : (noteGrant l s).ringTail = s.ringTail := by unfold noteGrant; split <;> rfl
@[simp] theorem noteGrant_ringUsed (l : LaneId) (s : State) : (noteGrant l s).ringUsed = s.ringUsed := by unfold noteGrant; split <;> rfl
@[simp] theorem noteGrant_landed (l : LaneId) (s : State) : (noteGrant l s).landed = s.landed := by unfold noteGrant; split <;> rfl
@[simp] theorem noteGrant_unpacker (l : LaneId) (s : State) : (noteGrant l s).unpacker = s.unpacker := by unfold noteGrant; split <;> rfl
@[simp] theorem noteGrant_pages (l : LaneId) (s : State) : (noteGrant l s).pages = s.pages := by unfold noteGrant; split <;> rfl
@[simp] theorem noteGrant_unpackerPage (l : LaneId) (s : State) : (noteGrant l s).unpackerPage = s.unpackerPage := by unfold noteGrant; split <;> rfl
@[simp] theorem noteGrant_patches (l : LaneId) (s : State) : (noteGrant l s).patches = s.patches := by unfold noteGrant; split <;> rfl
@[simp] theorem noteGrant_slotsInUse (l : LaneId) (s : State) : (noteGrant l s).slotsInUse = s.slotsInUse := by unfold noteGrant; split <;> rfl
@[simp] theorem noteGrant_slotPointer (l : LaneId) (s : State) : (noteGrant l s).slotPointer = s.slotPointer := by unfold noteGrant; split <;> rfl
@[simp] theorem noteGrant_proof (l : LaneId) (s : State) : (noteGrant l s).proof = s.proof := by unfold noteGrant; split <;> rfl
@[simp] theorem noteGrant_lanes (l : LaneId) (s : State) : (noteGrant l s).lanes = s.lanes := by unfold noteGrant; split <;> rfl
@[simp] theorem noteGrant_assembly (l : LaneId) (s : State) : (noteGrant l s).assembly = s.assembly := by unfold noteGrant; split <;> rfl
@[simp] theorem noteGrant_orderQueue (l : LaneId) (s : State) : (noteGrant l s).orderQueue = s.orderQueue := by unfold noteGrant; split <;> rfl
@[simp] theorem noteGrant_inHand (l : LaneId) (s : State) : (noteGrant l s).inHand = s.inHand := by unfold noteGrant; split <;> rfl
@[simp] theorem noteGrant_writeCount (l : LaneId) (s : State) : (noteGrant l s).writeCount = s.writeCount := by unfold noteGrant; split <;> rfl
@[simp] theorem noteGrant_consumed (l : LaneId) (s : State) : (noteGrant l s).consumed = s.consumed := by unfold noteGrant; split <;> rfl
@[simp] theorem noteGrant_overflowFlag (l : LaneId) (s : State) : (noteGrant l s).overflowFlag = s.overflowFlag := by unfold noteGrant; split <;> rfl
@[simp] theorem noteGrant_overflowOwed (l : LaneId) (s : State) : (noteGrant l s).overflowOwed = s.overflowOwed := by unfold noteGrant; split <;> rfl
@[simp] theorem noteGrant_payloadRead (l : LaneId) (s : State) : (noteGrant l s).payloadRead = s.payloadRead := by unfold noteGrant; split <;> rfl
@[simp] theorem noteGrant_reports (l : LaneId) (s : State) : (noteGrant l s).reports = s.reports := by unfold noteGrant; split <;> rfl
@[simp] theorem noteGrant_attn (l : LaneId) (s : State) : (noteGrant l s).attn = s.attn := by unfold noteGrant; split <;> rfl
@[simp] theorem noteGrant_free (l : LaneId) (s : State) : (noteGrant l s).free = s.free := by unfold noteGrant; split <;> rfl

/-! ## grantLane -/

@[simp] theorem grantLane_pending (l : LaneId) (s : State) : (grantLane l s).pending = s.pending := noteGrant_pending l s
@[simp] theorem grantLane_mem (l : LaneId) (s : State) : (grantLane l s).mem = s.mem := noteGrant_mem l s
@[simp] theorem grantLane_badWords (l : LaneId) (s : State) : (grantLane l s).badWords = s.badWords := noteGrant_badWords l s
@[simp] theorem grantLane_clock (l : LaneId) (s : State) : (grantLane l s).clock = s.clock := noteGrant_clock l s
@[simp] theorem grantLane_engine (l : LaneId) (s : State) : (grantLane l s).engine = s.engine := noteGrant_engine l s
@[simp] theorem grantLane_loader (l : LaneId) (s : State) : (grantLane l s).loader = s.loader := noteGrant_loader l s
@[simp] theorem grantLane_profile (l : LaneId) (s : State) : (grantLane l s).profile = s.profile := noteGrant_profile l s
@[simp] theorem grantLane_held (l : LaneId) (s : State) : (grantLane l s).held = s.held := noteGrant_held l s
@[simp] theorem grantLane_responses (l : LaneId) (s : State) : (grantLane l s).responses = s.responses := noteGrant_responses l s
@[simp] theorem grantLane_lander (l : LaneId) (s : State) : (grantLane l s).lander = s.lander := noteGrant_lander l s
@[simp] theorem grantLane_discarded (l : LaneId) (s : State) : (grantLane l s).discarded = s.discarded := noteGrant_discarded l s
@[simp] theorem grantLane_ringHead (l : LaneId) (s : State) : (grantLane l s).ringHead = s.ringHead := noteGrant_ringHead l s
@[simp] theorem grantLane_ringTail (l : LaneId) (s : State) : (grantLane l s).ringTail = s.ringTail := noteGrant_ringTail l s
@[simp] theorem grantLane_ringUsed (l : LaneId) (s : State) : (grantLane l s).ringUsed = s.ringUsed := noteGrant_ringUsed l s
@[simp] theorem grantLane_landed (l : LaneId) (s : State) : (grantLane l s).landed = s.landed := noteGrant_landed l s
@[simp] theorem grantLane_unpacker (l : LaneId) (s : State) : (grantLane l s).unpacker = s.unpacker := noteGrant_unpacker l s
@[simp] theorem grantLane_pages (l : LaneId) (s : State) : (grantLane l s).pages = s.pages := noteGrant_pages l s
@[simp] theorem grantLane_unpackerPage (l : LaneId) (s : State) : (grantLane l s).unpackerPage = s.unpackerPage := noteGrant_unpackerPage l s
@[simp] theorem grantLane_patches (l : LaneId) (s : State) : (grantLane l s).patches = s.patches := noteGrant_patches l s
@[simp] theorem grantLane_slotsInUse (l : LaneId) (s : State) : (grantLane l s).slotsInUse = s.slotsInUse := noteGrant_slotsInUse l s
@[simp] theorem grantLane_slotPointer (l : LaneId) (s : State) : (grantLane l s).slotPointer = s.slotPointer := noteGrant_slotPointer l s
@[simp] theorem grantLane_proof (l : LaneId) (s : State) : (grantLane l s).proof = s.proof := noteGrant_proof l s
@[simp] theorem grantLane_assembly (l : LaneId) (s : State) : (grantLane l s).assembly = s.assembly := noteGrant_assembly l s
@[simp] theorem grantLane_orderQueue (l : LaneId) (s : State) : (grantLane l s).orderQueue = s.orderQueue := noteGrant_orderQueue l s
@[simp] theorem grantLane_inHand (l : LaneId) (s : State) : (grantLane l s).inHand = s.inHand := noteGrant_inHand l s
@[simp] theorem grantLane_writeCount (l : LaneId) (s : State) : (grantLane l s).writeCount = s.writeCount := noteGrant_writeCount l s
@[simp] theorem grantLane_consumed (l : LaneId) (s : State) : (grantLane l s).consumed = s.consumed := noteGrant_consumed l s
@[simp] theorem grantLane_overflowFlag (l : LaneId) (s : State) : (grantLane l s).overflowFlag = s.overflowFlag := noteGrant_overflowFlag l s
@[simp] theorem grantLane_overflowOwed (l : LaneId) (s : State) : (grantLane l s).overflowOwed = s.overflowOwed := noteGrant_overflowOwed l s
@[simp] theorem grantLane_payloadRead (l : LaneId) (s : State) : (grantLane l s).payloadRead = s.payloadRead := noteGrant_payloadRead l s
@[simp] theorem grantLane_reports (l : LaneId) (s : State) : (grantLane l s).reports = s.reports := noteGrant_reports l s
@[simp] theorem grantLane_attn (l : LaneId) (s : State) : (grantLane l s).attn = s.attn := noteGrant_attn l s
@[simp] theorem grantLane_free (l : LaneId) (s : State) : (grantLane l s).free = s.free := noteGrant_free l s

/-- A lane but for the rows in composition, as a grant leaves it. -/
theorem grantLane_lanes (l k : LaneId) (s : State) : ((grantLane l s).lane k).withoutRows = (s.lane k).withoutRows :=
  (grantLane_moves l s).lanes k

/-! ## portGrant -/

/-- The class of a lane composer rests on its lane's plates and buffer and on the profile alone (R156). -/
theorem composerClass_congr {s t : State} {l : LaneId} (hl : (t.lane l).withoutRows = (s.lane l).withoutRows)
    (hp : t.profile = s.profile) : composerClass t l = composerClass s l := by
  have hq : (t.lane l).queue = (s.lane l).queue := by have h := congrArg Lane.queue hl; exact h
  have hb : (t.lane l).buffer = (s.lane l).buffer := by have h := congrArg Lane.buffer hl; exact h
  have he : (t.lane l).exposing = (s.lane l).exposing := by unfold Lane.exposing Lane.front; rw [hq]
  have hr : t.preload l = s.preload l := by unfold State.preload; rw [hp]
  unfold composerClass
  rw [he, hb, hr]

/-- The lanes granted before a host request are of class 1 (R156). -/
theorem lanesFirst_class {s : State} {l : LaneId} (h : l ∈ lanesFirst s) : composerClass s l = 1 := by
  have : l ∈ lanesOfClass s 1 s.requests := by simpa using (List.mem_filter.1 h).2
  simp only [lanesOfClass, List.mem_filterMap] at this
  obtain ⟨r, -, hr⟩ := this
  cases r with
  | composer k => obtain ⟨hk, rfl⟩ : composerClass s k = 1 ∧ k = l := by simpa using hr
                  exact hk
  | _ => cases hr

/-- Grants to lanes of class 1 move the rows in composition, that class's pointer and the requests waiting (R156). -/
theorem grantsFirst_moves (ls : List LaneId) (s : State) (h : ∀ l ∈ ls, composerClass s l = 1) :
    let t := ls.foldl (fun u l => grantLane l u) s
    PortMoves s t ∧ t = { s with arbLast1 := t.arbLast1, waiting := t.waiting, lanes := t.lanes } := by
  induction ls generalizing s with
  | nil => exact ⟨PortMoves.refl s, rfl⟩
  | cons l ls ih =>
    have hg : grantLane l s =
        { s with arbLast1 := l, waiting := (grantLane l s).waiting, lanes := (grantLane l s).lanes } := by
      simp only [grantLane, noteGrant, h l (by simp), if_true]; rfl
    obtain ⟨hm, ht⟩ := ih (grantLane l s) fun k hk =>
      (composerClass_congr (grantLane_lanes l k s) (by rw [hg])).trans (h k (by simp [hk]))
    refine ⟨(grantLane_moves l s).trans hm, ?_⟩
    simp only [List.foldl_cons]
    generalize ls.foldl (fun u l => grantLane l u) (grantLane l s) = u at ht
    exact ht.trans (by rw [hg])

theorem portGrant_moves (s : State) : PortMoves s (portGrant s) ∧
    portGrant s = { s with arbLast1 := (portGrant s).arbLast1, waiting := (portGrant s).waiting
                           lanes := (portGrant s).lanes } := by
  obtain ⟨hm, ht⟩ := grantsFirst_moves (lanesFirst s) s fun _ => lanesFirst_class
  exact ⟨hm.trans (u := portGrant s) ⟨rfl, fun _ => rfl⟩, by
    unfold portGrant; generalize hu : (lanesFirst s).foldl _ s = u at ht ⊢; rw [ht]; rfl⟩

/-- A lane but for the rows in composition, as a host request's grant leaves it. -/
theorem portGrant_lanes (s : State) (k : LaneId) : ((portGrant s).lane k).withoutRows = (s.lane k).withoutRows :=
  (portGrant_moves s).1.lanes k

@[simp] theorem portGrant_pending (s : State) : (portGrant s).pending = s.pending := by rw [(portGrant_moves s).2]
@[simp] theorem portGrant_mem (s : State) : (portGrant s).mem = s.mem := by rw [(portGrant_moves s).2]
@[simp] theorem portGrant_badWords (s : State) : (portGrant s).badWords = s.badWords := by rw [(portGrant_moves s).2]
@[simp] theorem portGrant_arbLast4 (s : State) : (portGrant s).arbLast4 = s.arbLast4 := by rw [(portGrant_moves s).2]
@[simp] theorem portGrant_clock (s : State) : (portGrant s).clock = s.clock := by rw [(portGrant_moves s).2]
@[simp] theorem portGrant_engine (s : State) : (portGrant s).engine = s.engine := by rw [(portGrant_moves s).2]
@[simp] theorem portGrant_loader (s : State) : (portGrant s).loader = s.loader := by rw [(portGrant_moves s).2]
@[simp] theorem portGrant_profile (s : State) : (portGrant s).profile = s.profile := by rw [(portGrant_moves s).2]
@[simp] theorem portGrant_held (s : State) : (portGrant s).held = s.held := by rw [(portGrant_moves s).2]
@[simp] theorem portGrant_responses (s : State) : (portGrant s).responses = s.responses := by rw [(portGrant_moves s).2]
@[simp] theorem portGrant_lander (s : State) : (portGrant s).lander = s.lander := by rw [(portGrant_moves s).2]
@[simp] theorem portGrant_discarded (s : State) : (portGrant s).discarded = s.discarded := by rw [(portGrant_moves s).2]
@[simp] theorem portGrant_ringHead (s : State) : (portGrant s).ringHead = s.ringHead := by rw [(portGrant_moves s).2]
@[simp] theorem portGrant_ringTail (s : State) : (portGrant s).ringTail = s.ringTail := by rw [(portGrant_moves s).2]
@[simp] theorem portGrant_ringUsed (s : State) : (portGrant s).ringUsed = s.ringUsed := by rw [(portGrant_moves s).2]
@[simp] theorem portGrant_landed (s : State) : (portGrant s).landed = s.landed := by rw [(portGrant_moves s).2]
@[simp] theorem portGrant_unpacker (s : State) : (portGrant s).unpacker = s.unpacker := by rw [(portGrant_moves s).2]
@[simp] theorem portGrant_pages (s : State) : (portGrant s).pages = s.pages := by rw [(portGrant_moves s).2]
@[simp] theorem portGrant_unpackerPage (s : State) : (portGrant s).unpackerPage = s.unpackerPage := by rw [(portGrant_moves s).2]
@[simp] theorem portGrant_patches (s : State) : (portGrant s).patches = s.patches := by rw [(portGrant_moves s).2]
@[simp] theorem portGrant_slotsInUse (s : State) : (portGrant s).slotsInUse = s.slotsInUse := by rw [(portGrant_moves s).2]
@[simp] theorem portGrant_slotPointer (s : State) : (portGrant s).slotPointer = s.slotPointer := by rw [(portGrant_moves s).2]
@[simp] theorem portGrant_proof (s : State) : (portGrant s).proof = s.proof := by rw [(portGrant_moves s).2]
@[simp] theorem portGrant_assembly (s : State) : (portGrant s).assembly = s.assembly := by rw [(portGrant_moves s).2]
@[simp] theorem portGrant_orderQueue (s : State) : (portGrant s).orderQueue = s.orderQueue := by rw [(portGrant_moves s).2]
@[simp] theorem portGrant_inHand (s : State) : (portGrant s).inHand = s.inHand := by rw [(portGrant_moves s).2]
@[simp] theorem portGrant_writeCount (s : State) : (portGrant s).writeCount = s.writeCount := by rw [(portGrant_moves s).2]
@[simp] theorem portGrant_consumed (s : State) : (portGrant s).consumed = s.consumed := by rw [(portGrant_moves s).2]
@[simp] theorem portGrant_overflowFlag (s : State) : (portGrant s).overflowFlag = s.overflowFlag := by rw [(portGrant_moves s).2]
@[simp] theorem portGrant_overflowOwed (s : State) : (portGrant s).overflowOwed = s.overflowOwed := by rw [(portGrant_moves s).2]
@[simp] theorem portGrant_payloadRead (s : State) : (portGrant s).payloadRead = s.payloadRead := by rw [(portGrant_moves s).2]
@[simp] theorem portGrant_reports (s : State) : (portGrant s).reports = s.reports := by rw [(portGrant_moves s).2]
@[simp] theorem portGrant_attn (s : State) : (portGrant s).attn = s.attn := by rw [(portGrant_moves s).2]
@[simp] theorem portGrant_free (s : State) : (portGrant s).free = s.free := by rw [(portGrant_moves s).2]

/-! ## useFree -/

@[simp] theorem useFree_pending (s : State) : (useFree s).pending = s.pending := rfl
@[simp] theorem useFree_mem (s : State) : (useFree s).mem = s.mem := rfl
@[simp] theorem useFree_badWords (s : State) : (useFree s).badWords = s.badWords := rfl
@[simp] theorem useFree_arbLast1 (s : State) : (useFree s).arbLast1 = s.arbLast1 := rfl
@[simp] theorem useFree_arbLast4 (s : State) : (useFree s).arbLast4 = s.arbLast4 := rfl
@[simp] theorem useFree_waiting (s : State) : (useFree s).waiting = s.waiting := rfl
@[simp] theorem useFree_clock (s : State) : (useFree s).clock = s.clock := rfl
@[simp] theorem useFree_engine (s : State) : (useFree s).engine = s.engine := rfl
@[simp] theorem useFree_loader (s : State) : (useFree s).loader = s.loader := rfl
@[simp] theorem useFree_profile (s : State) : (useFree s).profile = s.profile := rfl
@[simp] theorem useFree_held (s : State) : (useFree s).held = s.held := rfl
@[simp] theorem useFree_responses (s : State) : (useFree s).responses = s.responses := rfl
@[simp] theorem useFree_lander (s : State) : (useFree s).lander = s.lander := rfl
@[simp] theorem useFree_discarded (s : State) : (useFree s).discarded = s.discarded := rfl
@[simp] theorem useFree_ringHead (s : State) : (useFree s).ringHead = s.ringHead := rfl
@[simp] theorem useFree_ringTail (s : State) : (useFree s).ringTail = s.ringTail := rfl
@[simp] theorem useFree_ringUsed (s : State) : (useFree s).ringUsed = s.ringUsed := rfl
@[simp] theorem useFree_landed (s : State) : (useFree s).landed = s.landed := rfl
@[simp] theorem useFree_unpacker (s : State) : (useFree s).unpacker = s.unpacker := rfl
@[simp] theorem useFree_pages (s : State) : (useFree s).pages = s.pages := rfl
@[simp] theorem useFree_unpackerPage (s : State) : (useFree s).unpackerPage = s.unpackerPage := rfl
@[simp] theorem useFree_patches (s : State) : (useFree s).patches = s.patches := rfl
@[simp] theorem useFree_slotsInUse (s : State) : (useFree s).slotsInUse = s.slotsInUse := rfl
@[simp] theorem useFree_slotPointer (s : State) : (useFree s).slotPointer = s.slotPointer := rfl
@[simp] theorem useFree_proof (s : State) : (useFree s).proof = s.proof := rfl
@[simp] theorem useFree_lanes (s : State) : (useFree s).lanes = s.lanes := rfl
@[simp] theorem useFree_assembly (s : State) : (useFree s).assembly = s.assembly := rfl
@[simp] theorem useFree_orderQueue (s : State) : (useFree s).orderQueue = s.orderQueue := rfl
@[simp] theorem useFree_inHand (s : State) : (useFree s).inHand = s.inHand := rfl
@[simp] theorem useFree_writeCount (s : State) : (useFree s).writeCount = s.writeCount := rfl
@[simp] theorem useFree_consumed (s : State) : (useFree s).consumed = s.consumed := rfl
@[simp] theorem useFree_overflowFlag (s : State) : (useFree s).overflowFlag = s.overflowFlag := rfl
@[simp] theorem useFree_overflowOwed (s : State) : (useFree s).overflowOwed = s.overflowOwed := rfl
@[simp] theorem useFree_payloadRead (s : State) : (useFree s).payloadRead = s.payloadRead := rfl
@[simp] theorem useFree_reports (s : State) : (useFree s).reports = s.reports := rfl
@[simp] theorem useFree_attn (s : State) : (useFree s).attn = s.attn := rfl

/-! ## respond -/

@[simp] theorem respond_pending (r : HostResponse) (s : State) : (respond r s).pending = s.pending := rfl
@[simp] theorem respond_mem (r : HostResponse) (s : State) : (respond r s).mem = s.mem := rfl
@[simp] theorem respond_badWords (r : HostResponse) (s : State) : (respond r s).badWords = s.badWords := rfl
@[simp] theorem respond_arbLast1 (r : HostResponse) (s : State) : (respond r s).arbLast1 = s.arbLast1 := rfl
@[simp] theorem respond_arbLast4 (r : HostResponse) (s : State) : (respond r s).arbLast4 = s.arbLast4 := rfl
@[simp] theorem respond_waiting (r : HostResponse) (s : State) : (respond r s).waiting = s.waiting := rfl
@[simp] theorem respond_clock (r : HostResponse) (s : State) : (respond r s).clock = s.clock := rfl
@[simp] theorem respond_engine (r : HostResponse) (s : State) : (respond r s).engine = s.engine := rfl
@[simp] theorem respond_loader (r : HostResponse) (s : State) : (respond r s).loader = s.loader := rfl
@[simp] theorem respond_profile (r : HostResponse) (s : State) : (respond r s).profile = s.profile := rfl
@[simp] theorem respond_held (r : HostResponse) (s : State) : (respond r s).held = s.held := rfl
@[simp] theorem respond_lander (r : HostResponse) (s : State) : (respond r s).lander = s.lander := rfl
@[simp] theorem respond_discarded (r : HostResponse) (s : State) : (respond r s).discarded = s.discarded := rfl
@[simp] theorem respond_ringHead (r : HostResponse) (s : State) : (respond r s).ringHead = s.ringHead := rfl
@[simp] theorem respond_ringTail (r : HostResponse) (s : State) : (respond r s).ringTail = s.ringTail := rfl
@[simp] theorem respond_ringUsed (r : HostResponse) (s : State) : (respond r s).ringUsed = s.ringUsed := rfl
@[simp] theorem respond_landed (r : HostResponse) (s : State) : (respond r s).landed = s.landed := rfl
@[simp] theorem respond_unpacker (r : HostResponse) (s : State) : (respond r s).unpacker = s.unpacker := rfl
@[simp] theorem respond_pages (r : HostResponse) (s : State) : (respond r s).pages = s.pages := rfl
@[simp] theorem respond_unpackerPage (r : HostResponse) (s : State) : (respond r s).unpackerPage = s.unpackerPage := rfl
@[simp] theorem respond_patches (r : HostResponse) (s : State) : (respond r s).patches = s.patches := rfl
@[simp] theorem respond_slotsInUse (r : HostResponse) (s : State) : (respond r s).slotsInUse = s.slotsInUse := rfl
@[simp] theorem respond_slotPointer (r : HostResponse) (s : State) : (respond r s).slotPointer = s.slotPointer := rfl
@[simp] theorem respond_proof (r : HostResponse) (s : State) : (respond r s).proof = s.proof := rfl
@[simp] theorem respond_lanes (r : HostResponse) (s : State) : (respond r s).lanes = s.lanes := rfl
@[simp] theorem respond_assembly (r : HostResponse) (s : State) : (respond r s).assembly = s.assembly := rfl
@[simp] theorem respond_orderQueue (r : HostResponse) (s : State) : (respond r s).orderQueue = s.orderQueue := rfl
@[simp] theorem respond_inHand (r : HostResponse) (s : State) : (respond r s).inHand = s.inHand := rfl
@[simp] theorem respond_writeCount (r : HostResponse) (s : State) : (respond r s).writeCount = s.writeCount := rfl
@[simp] theorem respond_consumed (r : HostResponse) (s : State) : (respond r s).consumed = s.consumed := rfl
@[simp] theorem respond_overflowFlag (r : HostResponse) (s : State) : (respond r s).overflowFlag = s.overflowFlag := rfl
@[simp] theorem respond_overflowOwed (r : HostResponse) (s : State) : (respond r s).overflowOwed = s.overflowOwed := rfl
@[simp] theorem respond_payloadRead (r : HostResponse) (s : State) : (respond r s).payloadRead = s.payloadRead := rfl
@[simp] theorem respond_reports (r : HostResponse) (s : State) : (respond r s).reports = s.reports := rfl
@[simp] theorem respond_attn (r : HostResponse) (s : State) : (respond r s).attn = s.attn := rfl
@[simp] theorem respond_free (r : HostResponse) (s : State) : (respond r s).free = s.free := rfl

/-! ## modLane -/

@[simp] theorem modLane_pending (l : LaneId) (g : Lane → Lane) (s : State) : (modLane l g s).pending = s.pending := rfl
@[simp] theorem modLane_mem (l : LaneId) (g : Lane → Lane) (s : State) : (modLane l g s).mem = s.mem := rfl
@[simp] theorem modLane_badWords (l : LaneId) (g : Lane → Lane) (s : State) : (modLane l g s).badWords = s.badWords := rfl
@[simp] theorem modLane_arbLast1 (l : LaneId) (g : Lane → Lane) (s : State) : (modLane l g s).arbLast1 = s.arbLast1 := rfl
@[simp] theorem modLane_arbLast4 (l : LaneId) (g : Lane → Lane) (s : State) : (modLane l g s).arbLast4 = s.arbLast4 := rfl
@[simp] theorem modLane_waiting (l : LaneId) (g : Lane → Lane) (s : State) : (modLane l g s).waiting = s.waiting := rfl
@[simp] theorem modLane_clock (l : LaneId) (g : Lane → Lane) (s : State) : (modLane l g s).clock = s.clock := rfl
@[simp] theorem modLane_engine (l : LaneId) (g : Lane → Lane) (s : State) : (modLane l g s).engine = s.engine := rfl
@[simp] theorem modLane_loader (l : LaneId) (g : Lane → Lane) (s : State) : (modLane l g s).loader = s.loader := rfl
@[simp] theorem modLane_profile (l : LaneId) (g : Lane → Lane) (s : State) : (modLane l g s).profile = s.profile := rfl
@[simp] theorem modLane_held (l : LaneId) (g : Lane → Lane) (s : State) : (modLane l g s).held = s.held := rfl
@[simp] theorem modLane_responses (l : LaneId) (g : Lane → Lane) (s : State) : (modLane l g s).responses = s.responses := rfl
@[simp] theorem modLane_lander (l : LaneId) (g : Lane → Lane) (s : State) : (modLane l g s).lander = s.lander := rfl
@[simp] theorem modLane_discarded (l : LaneId) (g : Lane → Lane) (s : State) : (modLane l g s).discarded = s.discarded := rfl
@[simp] theorem modLane_ringHead (l : LaneId) (g : Lane → Lane) (s : State) : (modLane l g s).ringHead = s.ringHead := rfl
@[simp] theorem modLane_ringTail (l : LaneId) (g : Lane → Lane) (s : State) : (modLane l g s).ringTail = s.ringTail := rfl
@[simp] theorem modLane_ringUsed (l : LaneId) (g : Lane → Lane) (s : State) : (modLane l g s).ringUsed = s.ringUsed := rfl
@[simp] theorem modLane_landed (l : LaneId) (g : Lane → Lane) (s : State) : (modLane l g s).landed = s.landed := rfl
@[simp] theorem modLane_unpacker (l : LaneId) (g : Lane → Lane) (s : State) : (modLane l g s).unpacker = s.unpacker := rfl
@[simp] theorem modLane_pages (l : LaneId) (g : Lane → Lane) (s : State) : (modLane l g s).pages = s.pages := rfl
@[simp] theorem modLane_unpackerPage (l : LaneId) (g : Lane → Lane) (s : State) : (modLane l g s).unpackerPage = s.unpackerPage := rfl
@[simp] theorem modLane_patches (l : LaneId) (g : Lane → Lane) (s : State) : (modLane l g s).patches = s.patches := rfl
@[simp] theorem modLane_slotsInUse (l : LaneId) (g : Lane → Lane) (s : State) : (modLane l g s).slotsInUse = s.slotsInUse := rfl
@[simp] theorem modLane_slotPointer (l : LaneId) (g : Lane → Lane) (s : State) : (modLane l g s).slotPointer = s.slotPointer := rfl
@[simp] theorem modLane_proof (l : LaneId) (g : Lane → Lane) (s : State) : (modLane l g s).proof = s.proof := rfl
@[simp] theorem modLane_assembly (l : LaneId) (g : Lane → Lane) (s : State) : (modLane l g s).assembly = s.assembly := rfl
@[simp] theorem modLane_orderQueue (l : LaneId) (g : Lane → Lane) (s : State) : (modLane l g s).orderQueue = s.orderQueue := rfl
@[simp] theorem modLane_inHand (l : LaneId) (g : Lane → Lane) (s : State) : (modLane l g s).inHand = s.inHand := rfl
@[simp] theorem modLane_writeCount (l : LaneId) (g : Lane → Lane) (s : State) : (modLane l g s).writeCount = s.writeCount := rfl
@[simp] theorem modLane_consumed (l : LaneId) (g : Lane → Lane) (s : State) : (modLane l g s).consumed = s.consumed := rfl
@[simp] theorem modLane_overflowFlag (l : LaneId) (g : Lane → Lane) (s : State) : (modLane l g s).overflowFlag = s.overflowFlag := rfl
@[simp] theorem modLane_overflowOwed (l : LaneId) (g : Lane → Lane) (s : State) : (modLane l g s).overflowOwed = s.overflowOwed := rfl
@[simp] theorem modLane_payloadRead (l : LaneId) (g : Lane → Lane) (s : State) : (modLane l g s).payloadRead = s.payloadRead := rfl
@[simp] theorem modLane_reports (l : LaneId) (g : Lane → Lane) (s : State) : (modLane l g s).reports = s.reports := rfl
@[simp] theorem modLane_attn (l : LaneId) (g : Lane → Lane) (s : State) : (modLane l g s).attn = s.attn := rfl
@[simp] theorem modLane_free (l : LaneId) (g : Lane → Lane) (s : State) : (modLane l g s).free = s.free := rfl

/-! ## sendMsg -/

@[simp] theorem sendMsg_pending (l : LaneId) (m : SetterMsg) (s : State) : (sendMsg l m s).pending = s.pending := rfl
@[simp] theorem sendMsg_mem (l : LaneId) (m : SetterMsg) (s : State) : (sendMsg l m s).mem = s.mem := rfl
@[simp] theorem sendMsg_badWords (l : LaneId) (m : SetterMsg) (s : State) : (sendMsg l m s).badWords = s.badWords := rfl
@[simp] theorem sendMsg_arbLast1 (l : LaneId) (m : SetterMsg) (s : State) : (sendMsg l m s).arbLast1 = s.arbLast1 := rfl
@[simp] theorem sendMsg_arbLast4 (l : LaneId) (m : SetterMsg) (s : State) : (sendMsg l m s).arbLast4 = s.arbLast4 := rfl
@[simp] theorem sendMsg_waiting (l : LaneId) (m : SetterMsg) (s : State) : (sendMsg l m s).waiting = s.waiting := rfl
@[simp] theorem sendMsg_clock (l : LaneId) (m : SetterMsg) (s : State) : (sendMsg l m s).clock = s.clock := rfl
@[simp] theorem sendMsg_engine (l : LaneId) (m : SetterMsg) (s : State) : (sendMsg l m s).engine = s.engine := rfl
@[simp] theorem sendMsg_loader (l : LaneId) (m : SetterMsg) (s : State) : (sendMsg l m s).loader = s.loader := rfl
@[simp] theorem sendMsg_profile (l : LaneId) (m : SetterMsg) (s : State) : (sendMsg l m s).profile = s.profile := rfl
@[simp] theorem sendMsg_held (l : LaneId) (m : SetterMsg) (s : State) : (sendMsg l m s).held = s.held := rfl
@[simp] theorem sendMsg_responses (l : LaneId) (m : SetterMsg) (s : State) : (sendMsg l m s).responses = s.responses := rfl
@[simp] theorem sendMsg_lander (l : LaneId) (m : SetterMsg) (s : State) : (sendMsg l m s).lander = s.lander := rfl
@[simp] theorem sendMsg_discarded (l : LaneId) (m : SetterMsg) (s : State) : (sendMsg l m s).discarded = s.discarded := rfl
@[simp] theorem sendMsg_ringHead (l : LaneId) (m : SetterMsg) (s : State) : (sendMsg l m s).ringHead = s.ringHead := rfl
@[simp] theorem sendMsg_ringTail (l : LaneId) (m : SetterMsg) (s : State) : (sendMsg l m s).ringTail = s.ringTail := rfl
@[simp] theorem sendMsg_ringUsed (l : LaneId) (m : SetterMsg) (s : State) : (sendMsg l m s).ringUsed = s.ringUsed := rfl
@[simp] theorem sendMsg_landed (l : LaneId) (m : SetterMsg) (s : State) : (sendMsg l m s).landed = s.landed := rfl
@[simp] theorem sendMsg_unpacker (l : LaneId) (m : SetterMsg) (s : State) : (sendMsg l m s).unpacker = s.unpacker := rfl
@[simp] theorem sendMsg_pages (l : LaneId) (m : SetterMsg) (s : State) : (sendMsg l m s).pages = s.pages := rfl
@[simp] theorem sendMsg_unpackerPage (l : LaneId) (m : SetterMsg) (s : State) : (sendMsg l m s).unpackerPage = s.unpackerPage := rfl
@[simp] theorem sendMsg_patches (l : LaneId) (m : SetterMsg) (s : State) : (sendMsg l m s).patches = s.patches := rfl
@[simp] theorem sendMsg_slotsInUse (l : LaneId) (m : SetterMsg) (s : State) : (sendMsg l m s).slotsInUse = s.slotsInUse := rfl
@[simp] theorem sendMsg_slotPointer (l : LaneId) (m : SetterMsg) (s : State) : (sendMsg l m s).slotPointer = s.slotPointer := rfl
@[simp] theorem sendMsg_proof (l : LaneId) (m : SetterMsg) (s : State) : (sendMsg l m s).proof = s.proof := rfl
@[simp] theorem sendMsg_assembly (l : LaneId) (m : SetterMsg) (s : State) : (sendMsg l m s).assembly = s.assembly := rfl
@[simp] theorem sendMsg_orderQueue (l : LaneId) (m : SetterMsg) (s : State) : (sendMsg l m s).orderQueue = s.orderQueue := rfl
@[simp] theorem sendMsg_inHand (l : LaneId) (m : SetterMsg) (s : State) : (sendMsg l m s).inHand = s.inHand := rfl
@[simp] theorem sendMsg_writeCount (l : LaneId) (m : SetterMsg) (s : State) : (sendMsg l m s).writeCount = s.writeCount := rfl
@[simp] theorem sendMsg_consumed (l : LaneId) (m : SetterMsg) (s : State) : (sendMsg l m s).consumed = s.consumed := rfl
@[simp] theorem sendMsg_overflowFlag (l : LaneId) (m : SetterMsg) (s : State) : (sendMsg l m s).overflowFlag = s.overflowFlag := rfl
@[simp] theorem sendMsg_overflowOwed (l : LaneId) (m : SetterMsg) (s : State) : (sendMsg l m s).overflowOwed = s.overflowOwed := rfl
@[simp] theorem sendMsg_payloadRead (l : LaneId) (m : SetterMsg) (s : State) : (sendMsg l m s).payloadRead = s.payloadRead := rfl
@[simp] theorem sendMsg_reports (l : LaneId) (m : SetterMsg) (s : State) : (sendMsg l m s).reports = s.reports := rfl
@[simp] theorem sendMsg_attn (l : LaneId) (m : SetterMsg) (s : State) : (sendMsg l m s).attn = s.attn := rfl
@[simp] theorem sendMsg_free (l : LaneId) (m : SetterMsg) (s : State) : (sendMsg l m s).free = s.free := rfl

/-! ## modPlate -/

@[simp] theorem modPlate_pending (l : LaneId) (t : Tag) (g : Plate → Plate) (s : State) : (modPlate l t g s).pending = s.pending := rfl
@[simp] theorem modPlate_mem (l : LaneId) (t : Tag) (g : Plate → Plate) (s : State) : (modPlate l t g s).mem = s.mem := rfl
@[simp] theorem modPlate_badWords (l : LaneId) (t : Tag) (g : Plate → Plate) (s : State) : (modPlate l t g s).badWords = s.badWords := rfl
@[simp] theorem modPlate_arbLast1 (l : LaneId) (t : Tag) (g : Plate → Plate) (s : State) : (modPlate l t g s).arbLast1 = s.arbLast1 := rfl
@[simp] theorem modPlate_arbLast4 (l : LaneId) (t : Tag) (g : Plate → Plate) (s : State) : (modPlate l t g s).arbLast4 = s.arbLast4 := rfl
@[simp] theorem modPlate_waiting (l : LaneId) (t : Tag) (g : Plate → Plate) (s : State) : (modPlate l t g s).waiting = s.waiting := rfl
@[simp] theorem modPlate_clock (l : LaneId) (t : Tag) (g : Plate → Plate) (s : State) : (modPlate l t g s).clock = s.clock := rfl
@[simp] theorem modPlate_engine (l : LaneId) (t : Tag) (g : Plate → Plate) (s : State) : (modPlate l t g s).engine = s.engine := rfl
@[simp] theorem modPlate_loader (l : LaneId) (t : Tag) (g : Plate → Plate) (s : State) : (modPlate l t g s).loader = s.loader := rfl
@[simp] theorem modPlate_profile (l : LaneId) (t : Tag) (g : Plate → Plate) (s : State) : (modPlate l t g s).profile = s.profile := rfl
@[simp] theorem modPlate_held (l : LaneId) (t : Tag) (g : Plate → Plate) (s : State) : (modPlate l t g s).held = s.held := rfl
@[simp] theorem modPlate_responses (l : LaneId) (t : Tag) (g : Plate → Plate) (s : State) : (modPlate l t g s).responses = s.responses := rfl
@[simp] theorem modPlate_lander (l : LaneId) (t : Tag) (g : Plate → Plate) (s : State) : (modPlate l t g s).lander = s.lander := rfl
@[simp] theorem modPlate_discarded (l : LaneId) (t : Tag) (g : Plate → Plate) (s : State) : (modPlate l t g s).discarded = s.discarded := rfl
@[simp] theorem modPlate_ringHead (l : LaneId) (t : Tag) (g : Plate → Plate) (s : State) : (modPlate l t g s).ringHead = s.ringHead := rfl
@[simp] theorem modPlate_ringTail (l : LaneId) (t : Tag) (g : Plate → Plate) (s : State) : (modPlate l t g s).ringTail = s.ringTail := rfl
@[simp] theorem modPlate_ringUsed (l : LaneId) (t : Tag) (g : Plate → Plate) (s : State) : (modPlate l t g s).ringUsed = s.ringUsed := rfl
@[simp] theorem modPlate_landed (l : LaneId) (t : Tag) (g : Plate → Plate) (s : State) : (modPlate l t g s).landed = s.landed := rfl
@[simp] theorem modPlate_unpacker (l : LaneId) (t : Tag) (g : Plate → Plate) (s : State) : (modPlate l t g s).unpacker = s.unpacker := rfl
@[simp] theorem modPlate_pages (l : LaneId) (t : Tag) (g : Plate → Plate) (s : State) : (modPlate l t g s).pages = s.pages := rfl
@[simp] theorem modPlate_unpackerPage (l : LaneId) (t : Tag) (g : Plate → Plate) (s : State) : (modPlate l t g s).unpackerPage = s.unpackerPage := rfl
@[simp] theorem modPlate_patches (l : LaneId) (t : Tag) (g : Plate → Plate) (s : State) : (modPlate l t g s).patches = s.patches := rfl
@[simp] theorem modPlate_slotsInUse (l : LaneId) (t : Tag) (g : Plate → Plate) (s : State) : (modPlate l t g s).slotsInUse = s.slotsInUse := rfl
@[simp] theorem modPlate_slotPointer (l : LaneId) (t : Tag) (g : Plate → Plate) (s : State) : (modPlate l t g s).slotPointer = s.slotPointer := rfl
@[simp] theorem modPlate_proof (l : LaneId) (t : Tag) (g : Plate → Plate) (s : State) : (modPlate l t g s).proof = s.proof := rfl
@[simp] theorem modPlate_assembly (l : LaneId) (t : Tag) (g : Plate → Plate) (s : State) : (modPlate l t g s).assembly = s.assembly := rfl
@[simp] theorem modPlate_orderQueue (l : LaneId) (t : Tag) (g : Plate → Plate) (s : State) : (modPlate l t g s).orderQueue = s.orderQueue := rfl
@[simp] theorem modPlate_inHand (l : LaneId) (t : Tag) (g : Plate → Plate) (s : State) : (modPlate l t g s).inHand = s.inHand := rfl
@[simp] theorem modPlate_writeCount (l : LaneId) (t : Tag) (g : Plate → Plate) (s : State) : (modPlate l t g s).writeCount = s.writeCount := rfl
@[simp] theorem modPlate_consumed (l : LaneId) (t : Tag) (g : Plate → Plate) (s : State) : (modPlate l t g s).consumed = s.consumed := rfl
@[simp] theorem modPlate_overflowFlag (l : LaneId) (t : Tag) (g : Plate → Plate) (s : State) : (modPlate l t g s).overflowFlag = s.overflowFlag := rfl
@[simp] theorem modPlate_overflowOwed (l : LaneId) (t : Tag) (g : Plate → Plate) (s : State) : (modPlate l t g s).overflowOwed = s.overflowOwed := rfl
@[simp] theorem modPlate_payloadRead (l : LaneId) (t : Tag) (g : Plate → Plate) (s : State) : (modPlate l t g s).payloadRead = s.payloadRead := rfl
@[simp] theorem modPlate_reports (l : LaneId) (t : Tag) (g : Plate → Plate) (s : State) : (modPlate l t g s).reports = s.reports := rfl
@[simp] theorem modPlate_attn (l : LaneId) (t : Tag) (g : Plate → Plate) (s : State) : (modPlate l t g s).attn = s.attn := rfl
@[simp] theorem modPlate_free (l : LaneId) (t : Tag) (g : Plate → Plate) (s : State) : (modPlate l t g s).free = s.free := rfl

/-! ## removePlate -/

@[simp] theorem removePlate_pending (l : LaneId) (t : Tag) (s : State) : (removePlate l t s).pending = s.pending := rfl
@[simp] theorem removePlate_mem (l : LaneId) (t : Tag) (s : State) : (removePlate l t s).mem = s.mem := rfl
@[simp] theorem removePlate_badWords (l : LaneId) (t : Tag) (s : State) : (removePlate l t s).badWords = s.badWords := rfl
@[simp] theorem removePlate_arbLast1 (l : LaneId) (t : Tag) (s : State) : (removePlate l t s).arbLast1 = s.arbLast1 := rfl
@[simp] theorem removePlate_arbLast4 (l : LaneId) (t : Tag) (s : State) : (removePlate l t s).arbLast4 = s.arbLast4 := rfl
@[simp] theorem removePlate_waiting (l : LaneId) (t : Tag) (s : State) : (removePlate l t s).waiting = s.waiting := rfl
@[simp] theorem removePlate_clock (l : LaneId) (t : Tag) (s : State) : (removePlate l t s).clock = s.clock := rfl
@[simp] theorem removePlate_engine (l : LaneId) (t : Tag) (s : State) : (removePlate l t s).engine = s.engine := rfl
@[simp] theorem removePlate_loader (l : LaneId) (t : Tag) (s : State) : (removePlate l t s).loader = s.loader := rfl
@[simp] theorem removePlate_profile (l : LaneId) (t : Tag) (s : State) : (removePlate l t s).profile = s.profile := rfl
@[simp] theorem removePlate_held (l : LaneId) (t : Tag) (s : State) : (removePlate l t s).held = s.held := rfl
@[simp] theorem removePlate_responses (l : LaneId) (t : Tag) (s : State) : (removePlate l t s).responses = s.responses := rfl
@[simp] theorem removePlate_lander (l : LaneId) (t : Tag) (s : State) : (removePlate l t s).lander = s.lander := rfl
@[simp] theorem removePlate_discarded (l : LaneId) (t : Tag) (s : State) : (removePlate l t s).discarded = s.discarded := rfl
@[simp] theorem removePlate_ringHead (l : LaneId) (t : Tag) (s : State) : (removePlate l t s).ringHead = s.ringHead := rfl
@[simp] theorem removePlate_ringTail (l : LaneId) (t : Tag) (s : State) : (removePlate l t s).ringTail = s.ringTail := rfl
@[simp] theorem removePlate_ringUsed (l : LaneId) (t : Tag) (s : State) : (removePlate l t s).ringUsed = s.ringUsed := rfl
@[simp] theorem removePlate_landed (l : LaneId) (t : Tag) (s : State) : (removePlate l t s).landed = s.landed := rfl
@[simp] theorem removePlate_unpacker (l : LaneId) (t : Tag) (s : State) : (removePlate l t s).unpacker = s.unpacker := rfl
@[simp] theorem removePlate_pages (l : LaneId) (t : Tag) (s : State) : (removePlate l t s).pages = s.pages := rfl
@[simp] theorem removePlate_unpackerPage (l : LaneId) (t : Tag) (s : State) : (removePlate l t s).unpackerPage = s.unpackerPage := rfl
@[simp] theorem removePlate_patches (l : LaneId) (t : Tag) (s : State) : (removePlate l t s).patches = s.patches := rfl
@[simp] theorem removePlate_slotsInUse (l : LaneId) (t : Tag) (s : State) : (removePlate l t s).slotsInUse = s.slotsInUse := rfl
@[simp] theorem removePlate_slotPointer (l : LaneId) (t : Tag) (s : State) : (removePlate l t s).slotPointer = s.slotPointer := rfl
@[simp] theorem removePlate_proof (l : LaneId) (t : Tag) (s : State) : (removePlate l t s).proof = s.proof := rfl
@[simp] theorem removePlate_assembly (l : LaneId) (t : Tag) (s : State) : (removePlate l t s).assembly = s.assembly := rfl
@[simp] theorem removePlate_orderQueue (l : LaneId) (t : Tag) (s : State) : (removePlate l t s).orderQueue = s.orderQueue := rfl
@[simp] theorem removePlate_inHand (l : LaneId) (t : Tag) (s : State) : (removePlate l t s).inHand = s.inHand := rfl
@[simp] theorem removePlate_writeCount (l : LaneId) (t : Tag) (s : State) : (removePlate l t s).writeCount = s.writeCount := rfl
@[simp] theorem removePlate_consumed (l : LaneId) (t : Tag) (s : State) : (removePlate l t s).consumed = s.consumed := rfl
@[simp] theorem removePlate_overflowFlag (l : LaneId) (t : Tag) (s : State) : (removePlate l t s).overflowFlag = s.overflowFlag := rfl
@[simp] theorem removePlate_overflowOwed (l : LaneId) (t : Tag) (s : State) : (removePlate l t s).overflowOwed = s.overflowOwed := rfl
@[simp] theorem removePlate_payloadRead (l : LaneId) (t : Tag) (s : State) : (removePlate l t s).payloadRead = s.payloadRead := rfl
@[simp] theorem removePlate_reports (l : LaneId) (t : Tag) (s : State) : (removePlate l t s).reports = s.reports := rfl
@[simp] theorem removePlate_attn (l : LaneId) (t : Tag) (s : State) : (removePlate l t s).attn = s.attn := rfl
@[simp] theorem removePlate_free (l : LaneId) (t : Tag) (s : State) : (removePlate l t s).free = s.free := rfl

/-! ## setPage -/

@[simp] theorem setPage_pending (f : Nat) (r : Option Page) (s : State) : (setPage f r s).pending = s.pending := rfl
@[simp] theorem setPage_mem (f : Nat) (r : Option Page) (s : State) : (setPage f r s).mem = s.mem := rfl
@[simp] theorem setPage_badWords (f : Nat) (r : Option Page) (s : State) : (setPage f r s).badWords = s.badWords := rfl
@[simp] theorem setPage_arbLast1 (f : Nat) (r : Option Page) (s : State) : (setPage f r s).arbLast1 = s.arbLast1 := rfl
@[simp] theorem setPage_arbLast4 (f : Nat) (r : Option Page) (s : State) : (setPage f r s).arbLast4 = s.arbLast4 := rfl
@[simp] theorem setPage_waiting (f : Nat) (r : Option Page) (s : State) : (setPage f r s).waiting = s.waiting := rfl
@[simp] theorem setPage_clock (f : Nat) (r : Option Page) (s : State) : (setPage f r s).clock = s.clock := rfl
@[simp] theorem setPage_engine (f : Nat) (r : Option Page) (s : State) : (setPage f r s).engine = s.engine := rfl
@[simp] theorem setPage_loader (f : Nat) (r : Option Page) (s : State) : (setPage f r s).loader = s.loader := rfl
@[simp] theorem setPage_profile (f : Nat) (r : Option Page) (s : State) : (setPage f r s).profile = s.profile := rfl
@[simp] theorem setPage_held (f : Nat) (r : Option Page) (s : State) : (setPage f r s).held = s.held := rfl
@[simp] theorem setPage_responses (f : Nat) (r : Option Page) (s : State) : (setPage f r s).responses = s.responses := rfl
@[simp] theorem setPage_lander (f : Nat) (r : Option Page) (s : State) : (setPage f r s).lander = s.lander := rfl
@[simp] theorem setPage_discarded (f : Nat) (r : Option Page) (s : State) : (setPage f r s).discarded = s.discarded := rfl
@[simp] theorem setPage_ringHead (f : Nat) (r : Option Page) (s : State) : (setPage f r s).ringHead = s.ringHead := rfl
@[simp] theorem setPage_ringTail (f : Nat) (r : Option Page) (s : State) : (setPage f r s).ringTail = s.ringTail := rfl
@[simp] theorem setPage_ringUsed (f : Nat) (r : Option Page) (s : State) : (setPage f r s).ringUsed = s.ringUsed := rfl
@[simp] theorem setPage_landed (f : Nat) (r : Option Page) (s : State) : (setPage f r s).landed = s.landed := rfl
@[simp] theorem setPage_unpacker (f : Nat) (r : Option Page) (s : State) : (setPage f r s).unpacker = s.unpacker := rfl
@[simp] theorem setPage_unpackerPage (f : Nat) (r : Option Page) (s : State) : (setPage f r s).unpackerPage = s.unpackerPage := rfl
@[simp] theorem setPage_patches (f : Nat) (r : Option Page) (s : State) : (setPage f r s).patches = s.patches := rfl
@[simp] theorem setPage_slotsInUse (f : Nat) (r : Option Page) (s : State) : (setPage f r s).slotsInUse = s.slotsInUse := rfl
@[simp] theorem setPage_slotPointer (f : Nat) (r : Option Page) (s : State) : (setPage f r s).slotPointer = s.slotPointer := rfl
@[simp] theorem setPage_proof (f : Nat) (r : Option Page) (s : State) : (setPage f r s).proof = s.proof := rfl
@[simp] theorem setPage_lanes (f : Nat) (r : Option Page) (s : State) : (setPage f r s).lanes = s.lanes := rfl
@[simp] theorem setPage_assembly (f : Nat) (r : Option Page) (s : State) : (setPage f r s).assembly = s.assembly := rfl
@[simp] theorem setPage_orderQueue (f : Nat) (r : Option Page) (s : State) : (setPage f r s).orderQueue = s.orderQueue := rfl
@[simp] theorem setPage_inHand (f : Nat) (r : Option Page) (s : State) : (setPage f r s).inHand = s.inHand := rfl
@[simp] theorem setPage_writeCount (f : Nat) (r : Option Page) (s : State) : (setPage f r s).writeCount = s.writeCount := rfl
@[simp] theorem setPage_consumed (f : Nat) (r : Option Page) (s : State) : (setPage f r s).consumed = s.consumed := rfl
@[simp] theorem setPage_overflowFlag (f : Nat) (r : Option Page) (s : State) : (setPage f r s).overflowFlag = s.overflowFlag := rfl
@[simp] theorem setPage_overflowOwed (f : Nat) (r : Option Page) (s : State) : (setPage f r s).overflowOwed = s.overflowOwed := rfl
@[simp] theorem setPage_payloadRead (f : Nat) (r : Option Page) (s : State) : (setPage f r s).payloadRead = s.payloadRead := rfl
@[simp] theorem setPage_reports (f : Nat) (r : Option Page) (s : State) : (setPage f r s).reports = s.reports := rfl
@[simp] theorem setPage_attn (f : Nat) (r : Option Page) (s : State) : (setPage f r s).attn = s.attn := rfl
@[simp] theorem setPage_free (f : Nat) (r : Option Page) (s : State) : (setPage f r s).free = s.free := rfl

/-! ## writeWords -/

@[simp] theorem writeWords_pending (a : Nat) (bs : List Byte) (s : State) : (writeWords a bs s).pending = s.pending := rfl
@[simp] theorem writeWords_arbLast1 (a : Nat) (bs : List Byte) (s : State) : (writeWords a bs s).arbLast1 = s.arbLast1 := rfl
@[simp] theorem writeWords_arbLast4 (a : Nat) (bs : List Byte) (s : State) : (writeWords a bs s).arbLast4 = s.arbLast4 := rfl
@[simp] theorem writeWords_waiting (a : Nat) (bs : List Byte) (s : State) : (writeWords a bs s).waiting = s.waiting := rfl
@[simp] theorem writeWords_clock (a : Nat) (bs : List Byte) (s : State) : (writeWords a bs s).clock = s.clock := rfl
@[simp] theorem writeWords_engine (a : Nat) (bs : List Byte) (s : State) : (writeWords a bs s).engine = s.engine := rfl
@[simp] theorem writeWords_loader (a : Nat) (bs : List Byte) (s : State) : (writeWords a bs s).loader = s.loader := rfl
@[simp] theorem writeWords_profile (a : Nat) (bs : List Byte) (s : State) : (writeWords a bs s).profile = s.profile := rfl
@[simp] theorem writeWords_held (a : Nat) (bs : List Byte) (s : State) : (writeWords a bs s).held = s.held := rfl
@[simp] theorem writeWords_responses (a : Nat) (bs : List Byte) (s : State) : (writeWords a bs s).responses = s.responses := rfl
@[simp] theorem writeWords_lander (a : Nat) (bs : List Byte) (s : State) : (writeWords a bs s).lander = s.lander := rfl
@[simp] theorem writeWords_discarded (a : Nat) (bs : List Byte) (s : State) : (writeWords a bs s).discarded = s.discarded := rfl
@[simp] theorem writeWords_ringHead (a : Nat) (bs : List Byte) (s : State) : (writeWords a bs s).ringHead = s.ringHead := rfl
@[simp] theorem writeWords_ringTail (a : Nat) (bs : List Byte) (s : State) : (writeWords a bs s).ringTail = s.ringTail := rfl
@[simp] theorem writeWords_ringUsed (a : Nat) (bs : List Byte) (s : State) : (writeWords a bs s).ringUsed = s.ringUsed := rfl
@[simp] theorem writeWords_landed (a : Nat) (bs : List Byte) (s : State) : (writeWords a bs s).landed = s.landed := rfl
@[simp] theorem writeWords_unpacker (a : Nat) (bs : List Byte) (s : State) : (writeWords a bs s).unpacker = s.unpacker := rfl
@[simp] theorem writeWords_pages (a : Nat) (bs : List Byte) (s : State) : (writeWords a bs s).pages = s.pages := rfl
@[simp] theorem writeWords_unpackerPage (a : Nat) (bs : List Byte) (s : State) : (writeWords a bs s).unpackerPage = s.unpackerPage := rfl
@[simp] theorem writeWords_patches (a : Nat) (bs : List Byte) (s : State) : (writeWords a bs s).patches = s.patches := rfl
@[simp] theorem writeWords_slotsInUse (a : Nat) (bs : List Byte) (s : State) : (writeWords a bs s).slotsInUse = s.slotsInUse := rfl
@[simp] theorem writeWords_slotPointer (a : Nat) (bs : List Byte) (s : State) : (writeWords a bs s).slotPointer = s.slotPointer := rfl
@[simp] theorem writeWords_proof (a : Nat) (bs : List Byte) (s : State) : (writeWords a bs s).proof = s.proof := rfl
@[simp] theorem writeWords_lanes (a : Nat) (bs : List Byte) (s : State) : (writeWords a bs s).lanes = s.lanes := rfl
@[simp] theorem writeWords_assembly (a : Nat) (bs : List Byte) (s : State) : (writeWords a bs s).assembly = s.assembly := rfl
@[simp] theorem writeWords_orderQueue (a : Nat) (bs : List Byte) (s : State) : (writeWords a bs s).orderQueue = s.orderQueue := rfl
@[simp] theorem writeWords_inHand (a : Nat) (bs : List Byte) (s : State) : (writeWords a bs s).inHand = s.inHand := rfl
@[simp] theorem writeWords_writeCount (a : Nat) (bs : List Byte) (s : State) : (writeWords a bs s).writeCount = s.writeCount := rfl
@[simp] theorem writeWords_consumed (a : Nat) (bs : List Byte) (s : State) : (writeWords a bs s).consumed = s.consumed := rfl
@[simp] theorem writeWords_overflowFlag (a : Nat) (bs : List Byte) (s : State) : (writeWords a bs s).overflowFlag = s.overflowFlag := rfl
@[simp] theorem writeWords_overflowOwed (a : Nat) (bs : List Byte) (s : State) : (writeWords a bs s).overflowOwed = s.overflowOwed := rfl
@[simp] theorem writeWords_payloadRead (a : Nat) (bs : List Byte) (s : State) : (writeWords a bs s).payloadRead = s.payloadRead := rfl
@[simp] theorem writeWords_reports (a : Nat) (bs : List Byte) (s : State) : (writeWords a bs s).reports = s.reports := rfl
@[simp] theorem writeWords_attn (a : Nat) (bs : List Byte) (s : State) : (writeWords a bs s).attn = s.attn := rfl
@[simp] theorem writeWords_free (a : Nat) (bs : List Byte) (s : State) : (writeWords a bs s).free = s.free := rfl

/-! ## writeCountWord -/

@[simp] theorem writeCountWord_pending (a : Nat) (v : Count) (s : State) : (writeCountWord a v s).pending = s.pending := rfl
@[simp] theorem writeCountWord_arbLast1 (a : Nat) (v : Count) (s : State) : (writeCountWord a v s).arbLast1 = s.arbLast1 := rfl
@[simp] theorem writeCountWord_arbLast4 (a : Nat) (v : Count) (s : State) : (writeCountWord a v s).arbLast4 = s.arbLast4 := rfl
@[simp] theorem writeCountWord_waiting (a : Nat) (v : Count) (s : State) : (writeCountWord a v s).waiting = s.waiting := rfl
@[simp] theorem writeCountWord_clock (a : Nat) (v : Count) (s : State) : (writeCountWord a v s).clock = s.clock := rfl
@[simp] theorem writeCountWord_engine (a : Nat) (v : Count) (s : State) : (writeCountWord a v s).engine = s.engine := rfl
@[simp] theorem writeCountWord_loader (a : Nat) (v : Count) (s : State) : (writeCountWord a v s).loader = s.loader := rfl
@[simp] theorem writeCountWord_profile (a : Nat) (v : Count) (s : State) : (writeCountWord a v s).profile = s.profile := rfl
@[simp] theorem writeCountWord_held (a : Nat) (v : Count) (s : State) : (writeCountWord a v s).held = s.held := rfl
@[simp] theorem writeCountWord_responses (a : Nat) (v : Count) (s : State) : (writeCountWord a v s).responses = s.responses := rfl
@[simp] theorem writeCountWord_lander (a : Nat) (v : Count) (s : State) : (writeCountWord a v s).lander = s.lander := rfl
@[simp] theorem writeCountWord_discarded (a : Nat) (v : Count) (s : State) : (writeCountWord a v s).discarded = s.discarded := rfl
@[simp] theorem writeCountWord_ringHead (a : Nat) (v : Count) (s : State) : (writeCountWord a v s).ringHead = s.ringHead := rfl
@[simp] theorem writeCountWord_ringTail (a : Nat) (v : Count) (s : State) : (writeCountWord a v s).ringTail = s.ringTail := rfl
@[simp] theorem writeCountWord_ringUsed (a : Nat) (v : Count) (s : State) : (writeCountWord a v s).ringUsed = s.ringUsed := rfl
@[simp] theorem writeCountWord_landed (a : Nat) (v : Count) (s : State) : (writeCountWord a v s).landed = s.landed := rfl
@[simp] theorem writeCountWord_unpacker (a : Nat) (v : Count) (s : State) : (writeCountWord a v s).unpacker = s.unpacker := rfl
@[simp] theorem writeCountWord_pages (a : Nat) (v : Count) (s : State) : (writeCountWord a v s).pages = s.pages := rfl
@[simp] theorem writeCountWord_unpackerPage (a : Nat) (v : Count) (s : State) : (writeCountWord a v s).unpackerPage = s.unpackerPage := rfl
@[simp] theorem writeCountWord_patches (a : Nat) (v : Count) (s : State) : (writeCountWord a v s).patches = s.patches := rfl
@[simp] theorem writeCountWord_slotsInUse (a : Nat) (v : Count) (s : State) : (writeCountWord a v s).slotsInUse = s.slotsInUse := rfl
@[simp] theorem writeCountWord_slotPointer (a : Nat) (v : Count) (s : State) : (writeCountWord a v s).slotPointer = s.slotPointer := rfl
@[simp] theorem writeCountWord_proof (a : Nat) (v : Count) (s : State) : (writeCountWord a v s).proof = s.proof := rfl
@[simp] theorem writeCountWord_lanes (a : Nat) (v : Count) (s : State) : (writeCountWord a v s).lanes = s.lanes := rfl
@[simp] theorem writeCountWord_assembly (a : Nat) (v : Count) (s : State) : (writeCountWord a v s).assembly = s.assembly := rfl
@[simp] theorem writeCountWord_orderQueue (a : Nat) (v : Count) (s : State) : (writeCountWord a v s).orderQueue = s.orderQueue := rfl
@[simp] theorem writeCountWord_inHand (a : Nat) (v : Count) (s : State) : (writeCountWord a v s).inHand = s.inHand := rfl
@[simp] theorem writeCountWord_writeCount (a : Nat) (v : Count) (s : State) : (writeCountWord a v s).writeCount = s.writeCount := rfl
@[simp] theorem writeCountWord_consumed (a : Nat) (v : Count) (s : State) : (writeCountWord a v s).consumed = s.consumed := rfl
@[simp] theorem writeCountWord_overflowFlag (a : Nat) (v : Count) (s : State) : (writeCountWord a v s).overflowFlag = s.overflowFlag := rfl
@[simp] theorem writeCountWord_overflowOwed (a : Nat) (v : Count) (s : State) : (writeCountWord a v s).overflowOwed = s.overflowOwed := rfl
@[simp] theorem writeCountWord_payloadRead (a : Nat) (v : Count) (s : State) : (writeCountWord a v s).payloadRead = s.payloadRead := rfl
@[simp] theorem writeCountWord_reports (a : Nat) (v : Count) (s : State) : (writeCountWord a v s).reports = s.reports := rfl
@[simp] theorem writeCountWord_attn (a : Nat) (v : Count) (s : State) : (writeCountWord a v s).attn = s.attn := rfl
@[simp] theorem writeCountWord_free (a : Nat) (v : Count) (s : State) : (writeCountWord a v s).free = s.free := rfl

/-! ## storeBeat -/

@[simp] theorem storeBeat_pending (a : Nat) (be : Enables) (d : Beat) (s : State) : (storeBeat a be d s).pending = s.pending := rfl
@[simp] theorem storeBeat_arbLast1 (a : Nat) (be : Enables) (d : Beat) (s : State) : (storeBeat a be d s).arbLast1 = s.arbLast1 := rfl
@[simp] theorem storeBeat_arbLast4 (a : Nat) (be : Enables) (d : Beat) (s : State) : (storeBeat a be d s).arbLast4 = s.arbLast4 := rfl
@[simp] theorem storeBeat_waiting (a : Nat) (be : Enables) (d : Beat) (s : State) : (storeBeat a be d s).waiting = s.waiting := rfl
@[simp] theorem storeBeat_clock (a : Nat) (be : Enables) (d : Beat) (s : State) : (storeBeat a be d s).clock = s.clock := rfl
@[simp] theorem storeBeat_engine (a : Nat) (be : Enables) (d : Beat) (s : State) : (storeBeat a be d s).engine = s.engine := rfl
@[simp] theorem storeBeat_loader (a : Nat) (be : Enables) (d : Beat) (s : State) : (storeBeat a be d s).loader = s.loader := rfl
@[simp] theorem storeBeat_profile (a : Nat) (be : Enables) (d : Beat) (s : State) : (storeBeat a be d s).profile = s.profile := rfl
@[simp] theorem storeBeat_held (a : Nat) (be : Enables) (d : Beat) (s : State) : (storeBeat a be d s).held = s.held := rfl
@[simp] theorem storeBeat_responses (a : Nat) (be : Enables) (d : Beat) (s : State) : (storeBeat a be d s).responses = s.responses := rfl
@[simp] theorem storeBeat_lander (a : Nat) (be : Enables) (d : Beat) (s : State) : (storeBeat a be d s).lander = s.lander := rfl
@[simp] theorem storeBeat_discarded (a : Nat) (be : Enables) (d : Beat) (s : State) : (storeBeat a be d s).discarded = s.discarded := rfl
@[simp] theorem storeBeat_ringHead (a : Nat) (be : Enables) (d : Beat) (s : State) : (storeBeat a be d s).ringHead = s.ringHead := rfl
@[simp] theorem storeBeat_ringTail (a : Nat) (be : Enables) (d : Beat) (s : State) : (storeBeat a be d s).ringTail = s.ringTail := rfl
@[simp] theorem storeBeat_ringUsed (a : Nat) (be : Enables) (d : Beat) (s : State) : (storeBeat a be d s).ringUsed = s.ringUsed := rfl
@[simp] theorem storeBeat_landed (a : Nat) (be : Enables) (d : Beat) (s : State) : (storeBeat a be d s).landed = s.landed := rfl
@[simp] theorem storeBeat_unpacker (a : Nat) (be : Enables) (d : Beat) (s : State) : (storeBeat a be d s).unpacker = s.unpacker := rfl
@[simp] theorem storeBeat_pages (a : Nat) (be : Enables) (d : Beat) (s : State) : (storeBeat a be d s).pages = s.pages := rfl
@[simp] theorem storeBeat_unpackerPage (a : Nat) (be : Enables) (d : Beat) (s : State) : (storeBeat a be d s).unpackerPage = s.unpackerPage := rfl
@[simp] theorem storeBeat_patches (a : Nat) (be : Enables) (d : Beat) (s : State) : (storeBeat a be d s).patches = s.patches := rfl
@[simp] theorem storeBeat_slotsInUse (a : Nat) (be : Enables) (d : Beat) (s : State) : (storeBeat a be d s).slotsInUse = s.slotsInUse := rfl
@[simp] theorem storeBeat_slotPointer (a : Nat) (be : Enables) (d : Beat) (s : State) : (storeBeat a be d s).slotPointer = s.slotPointer := rfl
@[simp] theorem storeBeat_proof (a : Nat) (be : Enables) (d : Beat) (s : State) : (storeBeat a be d s).proof = s.proof := rfl
@[simp] theorem storeBeat_lanes (a : Nat) (be : Enables) (d : Beat) (s : State) : (storeBeat a be d s).lanes = s.lanes := rfl
@[simp] theorem storeBeat_assembly (a : Nat) (be : Enables) (d : Beat) (s : State) : (storeBeat a be d s).assembly = s.assembly := rfl
@[simp] theorem storeBeat_orderQueue (a : Nat) (be : Enables) (d : Beat) (s : State) : (storeBeat a be d s).orderQueue = s.orderQueue := rfl
@[simp] theorem storeBeat_inHand (a : Nat) (be : Enables) (d : Beat) (s : State) : (storeBeat a be d s).inHand = s.inHand := rfl
@[simp] theorem storeBeat_writeCount (a : Nat) (be : Enables) (d : Beat) (s : State) : (storeBeat a be d s).writeCount = s.writeCount := rfl
@[simp] theorem storeBeat_consumed (a : Nat) (be : Enables) (d : Beat) (s : State) : (storeBeat a be d s).consumed = s.consumed := rfl
@[simp] theorem storeBeat_overflowFlag (a : Nat) (be : Enables) (d : Beat) (s : State) : (storeBeat a be d s).overflowFlag = s.overflowFlag := rfl
@[simp] theorem storeBeat_overflowOwed (a : Nat) (be : Enables) (d : Beat) (s : State) : (storeBeat a be d s).overflowOwed = s.overflowOwed := rfl
@[simp] theorem storeBeat_payloadRead (a : Nat) (be : Enables) (d : Beat) (s : State) : (storeBeat a be d s).payloadRead = s.payloadRead := rfl
@[simp] theorem storeBeat_reports (a : Nat) (be : Enables) (d : Beat) (s : State) : (storeBeat a be d s).reports = s.reports := rfl
@[simp] theorem storeBeat_attn (a : Nat) (be : Enables) (d : Beat) (s : State) : (storeBeat a be d s).attn = s.attn := rfl
@[simp] theorem storeBeat_free (a : Nat) (be : Enables) (d : Beat) (s : State) : (storeBeat a be d s).free = s.free := rfl

/-! ## judgeAttn -/

@[simp] theorem judgeAttn_pending (s : State) : (judgeAttn s).pending = s.pending := rfl
@[simp] theorem judgeAttn_mem (s : State) : (judgeAttn s).mem = s.mem := rfl
@[simp] theorem judgeAttn_badWords (s : State) : (judgeAttn s).badWords = s.badWords := rfl
@[simp] theorem judgeAttn_arbLast1 (s : State) : (judgeAttn s).arbLast1 = s.arbLast1 := rfl
@[simp] theorem judgeAttn_arbLast4 (s : State) : (judgeAttn s).arbLast4 = s.arbLast4 := rfl
@[simp] theorem judgeAttn_waiting (s : State) : (judgeAttn s).waiting = s.waiting := rfl
@[simp] theorem judgeAttn_clock (s : State) : (judgeAttn s).clock = s.clock := rfl
@[simp] theorem judgeAttn_engine (s : State) : (judgeAttn s).engine = s.engine := rfl
@[simp] theorem judgeAttn_loader (s : State) : (judgeAttn s).loader = s.loader := rfl
@[simp] theorem judgeAttn_profile (s : State) : (judgeAttn s).profile = s.profile := rfl
@[simp] theorem judgeAttn_held (s : State) : (judgeAttn s).held = s.held := rfl
@[simp] theorem judgeAttn_responses (s : State) : (judgeAttn s).responses = s.responses := rfl
@[simp] theorem judgeAttn_lander (s : State) : (judgeAttn s).lander = s.lander := rfl
@[simp] theorem judgeAttn_discarded (s : State) : (judgeAttn s).discarded = s.discarded := rfl
@[simp] theorem judgeAttn_ringHead (s : State) : (judgeAttn s).ringHead = s.ringHead := rfl
@[simp] theorem judgeAttn_ringTail (s : State) : (judgeAttn s).ringTail = s.ringTail := rfl
@[simp] theorem judgeAttn_ringUsed (s : State) : (judgeAttn s).ringUsed = s.ringUsed := rfl
@[simp] theorem judgeAttn_landed (s : State) : (judgeAttn s).landed = s.landed := rfl
@[simp] theorem judgeAttn_unpacker (s : State) : (judgeAttn s).unpacker = s.unpacker := rfl
@[simp] theorem judgeAttn_pages (s : State) : (judgeAttn s).pages = s.pages := rfl
@[simp] theorem judgeAttn_unpackerPage (s : State) : (judgeAttn s).unpackerPage = s.unpackerPage := rfl
@[simp] theorem judgeAttn_patches (s : State) : (judgeAttn s).patches = s.patches := rfl
@[simp] theorem judgeAttn_slotsInUse (s : State) : (judgeAttn s).slotsInUse = s.slotsInUse := rfl
@[simp] theorem judgeAttn_slotPointer (s : State) : (judgeAttn s).slotPointer = s.slotPointer := rfl
@[simp] theorem judgeAttn_proof (s : State) : (judgeAttn s).proof = s.proof := rfl
@[simp] theorem judgeAttn_lanes (s : State) : (judgeAttn s).lanes = s.lanes := rfl
@[simp] theorem judgeAttn_assembly (s : State) : (judgeAttn s).assembly = s.assembly := rfl
@[simp] theorem judgeAttn_orderQueue (s : State) : (judgeAttn s).orderQueue = s.orderQueue := rfl
@[simp] theorem judgeAttn_inHand (s : State) : (judgeAttn s).inHand = s.inHand := rfl
@[simp] theorem judgeAttn_writeCount (s : State) : (judgeAttn s).writeCount = s.writeCount := rfl
@[simp] theorem judgeAttn_consumed (s : State) : (judgeAttn s).consumed = s.consumed := rfl
@[simp] theorem judgeAttn_overflowFlag (s : State) : (judgeAttn s).overflowFlag = s.overflowFlag := rfl
@[simp] theorem judgeAttn_overflowOwed (s : State) : (judgeAttn s).overflowOwed = s.overflowOwed := rfl
@[simp] theorem judgeAttn_payloadRead (s : State) : (judgeAttn s).payloadRead = s.payloadRead := rfl
@[simp] theorem judgeAttn_reports (s : State) : (judgeAttn s).reports = s.reports := rfl
@[simp] theorem judgeAttn_free (s : State) : (judgeAttn s).free = s.free := rfl

/-! ## setEntry -/

@[simp] theorem setEntry_pending (o : Nat) (e : EntryState) (s : State) : (setEntry o e s).pending = s.pending := rfl
@[simp] theorem setEntry_mem (o : Nat) (e : EntryState) (s : State) : (setEntry o e s).mem = s.mem := rfl
@[simp] theorem setEntry_badWords (o : Nat) (e : EntryState) (s : State) : (setEntry o e s).badWords = s.badWords := rfl
@[simp] theorem setEntry_arbLast1 (o : Nat) (e : EntryState) (s : State) : (setEntry o e s).arbLast1 = s.arbLast1 := rfl
@[simp] theorem setEntry_arbLast4 (o : Nat) (e : EntryState) (s : State) : (setEntry o e s).arbLast4 = s.arbLast4 := rfl
@[simp] theorem setEntry_waiting (o : Nat) (e : EntryState) (s : State) : (setEntry o e s).waiting = s.waiting := rfl
@[simp] theorem setEntry_clock (o : Nat) (e : EntryState) (s : State) : (setEntry o e s).clock = s.clock := rfl
@[simp] theorem setEntry_engine (o : Nat) (e : EntryState) (s : State) : (setEntry o e s).engine = s.engine := rfl
@[simp] theorem setEntry_loader (o : Nat) (e : EntryState) (s : State) : (setEntry o e s).loader = s.loader := rfl
@[simp] theorem setEntry_profile (o : Nat) (e : EntryState) (s : State) : (setEntry o e s).profile = s.profile := rfl
@[simp] theorem setEntry_held (o : Nat) (e : EntryState) (s : State) : (setEntry o e s).held = s.held := rfl
@[simp] theorem setEntry_responses (o : Nat) (e : EntryState) (s : State) : (setEntry o e s).responses = s.responses := rfl
@[simp] theorem setEntry_lander (o : Nat) (e : EntryState) (s : State) : (setEntry o e s).lander = s.lander := rfl
@[simp] theorem setEntry_discarded (o : Nat) (e : EntryState) (s : State) : (setEntry o e s).discarded = s.discarded := rfl
@[simp] theorem setEntry_ringHead (o : Nat) (e : EntryState) (s : State) : (setEntry o e s).ringHead = s.ringHead := rfl
@[simp] theorem setEntry_ringTail (o : Nat) (e : EntryState) (s : State) : (setEntry o e s).ringTail = s.ringTail := rfl
@[simp] theorem setEntry_ringUsed (o : Nat) (e : EntryState) (s : State) : (setEntry o e s).ringUsed = s.ringUsed := rfl
@[simp] theorem setEntry_unpacker (o : Nat) (e : EntryState) (s : State) : (setEntry o e s).unpacker = s.unpacker := rfl
@[simp] theorem setEntry_pages (o : Nat) (e : EntryState) (s : State) : (setEntry o e s).pages = s.pages := rfl
@[simp] theorem setEntry_unpackerPage (o : Nat) (e : EntryState) (s : State) : (setEntry o e s).unpackerPage = s.unpackerPage := rfl
@[simp] theorem setEntry_patches (o : Nat) (e : EntryState) (s : State) : (setEntry o e s).patches = s.patches := rfl
@[simp] theorem setEntry_slotsInUse (o : Nat) (e : EntryState) (s : State) : (setEntry o e s).slotsInUse = s.slotsInUse := rfl
@[simp] theorem setEntry_slotPointer (o : Nat) (e : EntryState) (s : State) : (setEntry o e s).slotPointer = s.slotPointer := rfl
@[simp] theorem setEntry_proof (o : Nat) (e : EntryState) (s : State) : (setEntry o e s).proof = s.proof := rfl
@[simp] theorem setEntry_lanes (o : Nat) (e : EntryState) (s : State) : (setEntry o e s).lanes = s.lanes := rfl
@[simp] theorem setEntry_assembly (o : Nat) (e : EntryState) (s : State) : (setEntry o e s).assembly = s.assembly := rfl
@[simp] theorem setEntry_orderQueue (o : Nat) (e : EntryState) (s : State) : (setEntry o e s).orderQueue = s.orderQueue := rfl
@[simp] theorem setEntry_inHand (o : Nat) (e : EntryState) (s : State) : (setEntry o e s).inHand = s.inHand := rfl
@[simp] theorem setEntry_writeCount (o : Nat) (e : EntryState) (s : State) : (setEntry o e s).writeCount = s.writeCount := rfl
@[simp] theorem setEntry_consumed (o : Nat) (e : EntryState) (s : State) : (setEntry o e s).consumed = s.consumed := rfl
@[simp] theorem setEntry_overflowFlag (o : Nat) (e : EntryState) (s : State) : (setEntry o e s).overflowFlag = s.overflowFlag := rfl
@[simp] theorem setEntry_overflowOwed (o : Nat) (e : EntryState) (s : State) : (setEntry o e s).overflowOwed = s.overflowOwed := rfl
@[simp] theorem setEntry_payloadRead (o : Nat) (e : EntryState) (s : State) : (setEntry o e s).payloadRead = s.payloadRead := rfl
@[simp] theorem setEntry_reports (o : Nat) (e : EntryState) (s : State) : (setEntry o e s).reports = s.reports := rfl
@[simp] theorem setEntry_attn (o : Nat) (e : EntryState) (s : State) : (setEntry o e s).attn = s.attn := rfl
@[simp] theorem setEntry_free (o : Nat) (e : EntryState) (s : State) : (setEntry o e s).free = s.free := rfl

/-! ## freeSlots -/

@[simp] theorem freeSlots_pending (ns : List Nat) (s : State) : (freeSlots ns s).pending = s.pending := rfl
@[simp] theorem freeSlots_mem (ns : List Nat) (s : State) : (freeSlots ns s).mem = s.mem := rfl
@[simp] theorem freeSlots_badWords (ns : List Nat) (s : State) : (freeSlots ns s).badWords = s.badWords := rfl
@[simp] theorem freeSlots_arbLast1 (ns : List Nat) (s : State) : (freeSlots ns s).arbLast1 = s.arbLast1 := rfl
@[simp] theorem freeSlots_arbLast4 (ns : List Nat) (s : State) : (freeSlots ns s).arbLast4 = s.arbLast4 := rfl
@[simp] theorem freeSlots_waiting (ns : List Nat) (s : State) : (freeSlots ns s).waiting = s.waiting := rfl
@[simp] theorem freeSlots_clock (ns : List Nat) (s : State) : (freeSlots ns s).clock = s.clock := rfl
@[simp] theorem freeSlots_engine (ns : List Nat) (s : State) : (freeSlots ns s).engine = s.engine := rfl
@[simp] theorem freeSlots_loader (ns : List Nat) (s : State) : (freeSlots ns s).loader = s.loader := rfl
@[simp] theorem freeSlots_profile (ns : List Nat) (s : State) : (freeSlots ns s).profile = s.profile := rfl
@[simp] theorem freeSlots_held (ns : List Nat) (s : State) : (freeSlots ns s).held = s.held := rfl
@[simp] theorem freeSlots_responses (ns : List Nat) (s : State) : (freeSlots ns s).responses = s.responses := rfl
@[simp] theorem freeSlots_lander (ns : List Nat) (s : State) : (freeSlots ns s).lander = s.lander := rfl
@[simp] theorem freeSlots_discarded (ns : List Nat) (s : State) : (freeSlots ns s).discarded = s.discarded := rfl
@[simp] theorem freeSlots_ringHead (ns : List Nat) (s : State) : (freeSlots ns s).ringHead = s.ringHead := rfl
@[simp] theorem freeSlots_ringTail (ns : List Nat) (s : State) : (freeSlots ns s).ringTail = s.ringTail := rfl
@[simp] theorem freeSlots_ringUsed (ns : List Nat) (s : State) : (freeSlots ns s).ringUsed = s.ringUsed := rfl
@[simp] theorem freeSlots_landed (ns : List Nat) (s : State) : (freeSlots ns s).landed = s.landed := rfl
@[simp] theorem freeSlots_unpacker (ns : List Nat) (s : State) : (freeSlots ns s).unpacker = s.unpacker := rfl
@[simp] theorem freeSlots_pages (ns : List Nat) (s : State) : (freeSlots ns s).pages = s.pages := rfl
@[simp] theorem freeSlots_unpackerPage (ns : List Nat) (s : State) : (freeSlots ns s).unpackerPage = s.unpackerPage := rfl
@[simp] theorem freeSlots_patches (ns : List Nat) (s : State) : (freeSlots ns s).patches = s.patches := rfl
@[simp] theorem freeSlots_slotPointer (ns : List Nat) (s : State) : (freeSlots ns s).slotPointer = s.slotPointer := rfl
@[simp] theorem freeSlots_proof (ns : List Nat) (s : State) : (freeSlots ns s).proof = s.proof := rfl
@[simp] theorem freeSlots_lanes (ns : List Nat) (s : State) : (freeSlots ns s).lanes = s.lanes := rfl
@[simp] theorem freeSlots_assembly (ns : List Nat) (s : State) : (freeSlots ns s).assembly = s.assembly := rfl
@[simp] theorem freeSlots_orderQueue (ns : List Nat) (s : State) : (freeSlots ns s).orderQueue = s.orderQueue := rfl
@[simp] theorem freeSlots_inHand (ns : List Nat) (s : State) : (freeSlots ns s).inHand = s.inHand := rfl
@[simp] theorem freeSlots_writeCount (ns : List Nat) (s : State) : (freeSlots ns s).writeCount = s.writeCount := rfl
@[simp] theorem freeSlots_consumed (ns : List Nat) (s : State) : (freeSlots ns s).consumed = s.consumed := rfl
@[simp] theorem freeSlots_overflowFlag (ns : List Nat) (s : State) : (freeSlots ns s).overflowFlag = s.overflowFlag := rfl
@[simp] theorem freeSlots_overflowOwed (ns : List Nat) (s : State) : (freeSlots ns s).overflowOwed = s.overflowOwed := rfl
@[simp] theorem freeSlots_payloadRead (ns : List Nat) (s : State) : (freeSlots ns s).payloadRead = s.payloadRead := rfl
@[simp] theorem freeSlots_reports (ns : List Nat) (s : State) : (freeSlots ns s).reports = s.reports := rfl
@[simp] theorem freeSlots_attn (ns : List Nat) (s : State) : (freeSlots ns s).attn = s.attn := rfl
@[simp] theorem freeSlots_free (ns : List Nat) (s : State) : (freeSlots ns s).free = s.free := rfl

/-! ## takeSlot -/

@[simp] theorem takeSlot_pending (n : Nat) (s : State) : (takeSlot n s).pending = s.pending := rfl
@[simp] theorem takeSlot_mem (n : Nat) (s : State) : (takeSlot n s).mem = s.mem := rfl
@[simp] theorem takeSlot_badWords (n : Nat) (s : State) : (takeSlot n s).badWords = s.badWords := rfl
@[simp] theorem takeSlot_arbLast1 (n : Nat) (s : State) : (takeSlot n s).arbLast1 = s.arbLast1 := rfl
@[simp] theorem takeSlot_arbLast4 (n : Nat) (s : State) : (takeSlot n s).arbLast4 = s.arbLast4 := rfl
@[simp] theorem takeSlot_waiting (n : Nat) (s : State) : (takeSlot n s).waiting = s.waiting := rfl
@[simp] theorem takeSlot_clock (n : Nat) (s : State) : (takeSlot n s).clock = s.clock := rfl
@[simp] theorem takeSlot_engine (n : Nat) (s : State) : (takeSlot n s).engine = s.engine := rfl
@[simp] theorem takeSlot_loader (n : Nat) (s : State) : (takeSlot n s).loader = s.loader := rfl
@[simp] theorem takeSlot_profile (n : Nat) (s : State) : (takeSlot n s).profile = s.profile := rfl
@[simp] theorem takeSlot_held (n : Nat) (s : State) : (takeSlot n s).held = s.held := rfl
@[simp] theorem takeSlot_responses (n : Nat) (s : State) : (takeSlot n s).responses = s.responses := rfl
@[simp] theorem takeSlot_lander (n : Nat) (s : State) : (takeSlot n s).lander = s.lander := rfl
@[simp] theorem takeSlot_discarded (n : Nat) (s : State) : (takeSlot n s).discarded = s.discarded := rfl
@[simp] theorem takeSlot_ringHead (n : Nat) (s : State) : (takeSlot n s).ringHead = s.ringHead := rfl
@[simp] theorem takeSlot_ringTail (n : Nat) (s : State) : (takeSlot n s).ringTail = s.ringTail := rfl
@[simp] theorem takeSlot_ringUsed (n : Nat) (s : State) : (takeSlot n s).ringUsed = s.ringUsed := rfl
@[simp] theorem takeSlot_landed (n : Nat) (s : State) : (takeSlot n s).landed = s.landed := rfl
@[simp] theorem takeSlot_unpacker (n : Nat) (s : State) : (takeSlot n s).unpacker = s.unpacker := rfl
@[simp] theorem takeSlot_pages (n : Nat) (s : State) : (takeSlot n s).pages = s.pages := rfl
@[simp] theorem takeSlot_unpackerPage (n : Nat) (s : State) : (takeSlot n s).unpackerPage = s.unpackerPage := rfl
@[simp] theorem takeSlot_patches (n : Nat) (s : State) : (takeSlot n s).patches = s.patches := rfl
@[simp] theorem takeSlot_proof (n : Nat) (s : State) : (takeSlot n s).proof = s.proof := rfl
@[simp] theorem takeSlot_lanes (n : Nat) (s : State) : (takeSlot n s).lanes = s.lanes := rfl
@[simp] theorem takeSlot_assembly (n : Nat) (s : State) : (takeSlot n s).assembly = s.assembly := rfl
@[simp] theorem takeSlot_orderQueue (n : Nat) (s : State) : (takeSlot n s).orderQueue = s.orderQueue := rfl
@[simp] theorem takeSlot_inHand (n : Nat) (s : State) : (takeSlot n s).inHand = s.inHand := rfl
@[simp] theorem takeSlot_writeCount (n : Nat) (s : State) : (takeSlot n s).writeCount = s.writeCount := rfl
@[simp] theorem takeSlot_consumed (n : Nat) (s : State) : (takeSlot n s).consumed = s.consumed := rfl
@[simp] theorem takeSlot_overflowFlag (n : Nat) (s : State) : (takeSlot n s).overflowFlag = s.overflowFlag := rfl
@[simp] theorem takeSlot_overflowOwed (n : Nat) (s : State) : (takeSlot n s).overflowOwed = s.overflowOwed := rfl
@[simp] theorem takeSlot_payloadRead (n : Nat) (s : State) : (takeSlot n s).payloadRead = s.payloadRead := rfl
@[simp] theorem takeSlot_reports (n : Nat) (s : State) : (takeSlot n s).reports = s.reports := rfl
@[simp] theorem takeSlot_attn (n : Nat) (s : State) : (takeSlot n s).attn = s.attn := rfl
@[simp] theorem takeSlot_free (n : Nat) (s : State) : (takeSlot n s).free = s.free := rfl
@[simp] theorem takeSlot_slotsInUse (n : Nat) (s : State) : (takeSlot n s).slotsInUse = insertSorted n s.slotsInUse := rfl
@[simp] theorem takeSlot_slotPointer (n : Nat) (s : State) : (takeSlot n s).slotPointer = (n + 1) % poolSlots := rfl

/-! ## modPage -/

@[simp] theorem modPage_pending (f : Nat) (g : Page → Page) (s : State) : (modPage f g s).pending = s.pending := by
  unfold modPage; split <;> rfl
@[simp] theorem modPage_mem (f : Nat) (g : Page → Page) (s : State) : (modPage f g s).mem = s.mem := by
  unfold modPage; split <;> rfl
@[simp] theorem modPage_badWords (f : Nat) (g : Page → Page) (s : State) : (modPage f g s).badWords = s.badWords := by
  unfold modPage; split <;> rfl
@[simp] theorem modPage_arbLast1 (f : Nat) (g : Page → Page) (s : State) : (modPage f g s).arbLast1 = s.arbLast1 := by
  unfold modPage; split <;> rfl
@[simp] theorem modPage_arbLast4 (f : Nat) (g : Page → Page) (s : State) : (modPage f g s).arbLast4 = s.arbLast4 := by
  unfold modPage; split <;> rfl
@[simp] theorem modPage_waiting (f : Nat) (g : Page → Page) (s : State) : (modPage f g s).waiting = s.waiting := by
  unfold modPage; split <;> rfl
@[simp] theorem modPage_clock (f : Nat) (g : Page → Page) (s : State) : (modPage f g s).clock = s.clock := by
  unfold modPage; split <;> rfl
@[simp] theorem modPage_engine (f : Nat) (g : Page → Page) (s : State) : (modPage f g s).engine = s.engine := by
  unfold modPage; split <;> rfl
@[simp] theorem modPage_loader (f : Nat) (g : Page → Page) (s : State) : (modPage f g s).loader = s.loader := by
  unfold modPage; split <;> rfl
@[simp] theorem modPage_profile (f : Nat) (g : Page → Page) (s : State) : (modPage f g s).profile = s.profile := by
  unfold modPage; split <;> rfl
@[simp] theorem modPage_held (f : Nat) (g : Page → Page) (s : State) : (modPage f g s).held = s.held := by
  unfold modPage; split <;> rfl
@[simp] theorem modPage_responses (f : Nat) (g : Page → Page) (s : State) : (modPage f g s).responses = s.responses := by
  unfold modPage; split <;> rfl
@[simp] theorem modPage_lander (f : Nat) (g : Page → Page) (s : State) : (modPage f g s).lander = s.lander := by
  unfold modPage; split <;> rfl
@[simp] theorem modPage_discarded (f : Nat) (g : Page → Page) (s : State) : (modPage f g s).discarded = s.discarded := by
  unfold modPage; split <;> rfl
@[simp] theorem modPage_ringHead (f : Nat) (g : Page → Page) (s : State) : (modPage f g s).ringHead = s.ringHead := by
  unfold modPage; split <;> rfl
@[simp] theorem modPage_ringTail (f : Nat) (g : Page → Page) (s : State) : (modPage f g s).ringTail = s.ringTail := by
  unfold modPage; split <;> rfl
@[simp] theorem modPage_ringUsed (f : Nat) (g : Page → Page) (s : State) : (modPage f g s).ringUsed = s.ringUsed := by
  unfold modPage; split <;> rfl
@[simp] theorem modPage_landed (f : Nat) (g : Page → Page) (s : State) : (modPage f g s).landed = s.landed := by
  unfold modPage; split <;> rfl
@[simp] theorem modPage_unpacker (f : Nat) (g : Page → Page) (s : State) : (modPage f g s).unpacker = s.unpacker := by
  unfold modPage; split <;> rfl
@[simp] theorem modPage_unpackerPage (f : Nat) (g : Page → Page) (s : State) : (modPage f g s).unpackerPage = s.unpackerPage := by
  unfold modPage; split <;> rfl
@[simp] theorem modPage_patches (f : Nat) (g : Page → Page) (s : State) : (modPage f g s).patches = s.patches := by
  unfold modPage; split <;> rfl
@[simp] theorem modPage_slotsInUse (f : Nat) (g : Page → Page) (s : State) : (modPage f g s).slotsInUse = s.slotsInUse := by
  unfold modPage; split <;> rfl
@[simp] theorem modPage_slotPointer (f : Nat) (g : Page → Page) (s : State) : (modPage f g s).slotPointer = s.slotPointer := by
  unfold modPage; split <;> rfl
@[simp] theorem modPage_proof (f : Nat) (g : Page → Page) (s : State) : (modPage f g s).proof = s.proof := by
  unfold modPage; split <;> rfl
@[simp] theorem modPage_lanes (f : Nat) (g : Page → Page) (s : State) : (modPage f g s).lanes = s.lanes := by
  unfold modPage; split <;> rfl
@[simp] theorem modPage_assembly (f : Nat) (g : Page → Page) (s : State) : (modPage f g s).assembly = s.assembly := by
  unfold modPage; split <;> rfl
@[simp] theorem modPage_orderQueue (f : Nat) (g : Page → Page) (s : State) : (modPage f g s).orderQueue = s.orderQueue := by
  unfold modPage; split <;> rfl
@[simp] theorem modPage_inHand (f : Nat) (g : Page → Page) (s : State) : (modPage f g s).inHand = s.inHand := by
  unfold modPage; split <;> rfl
@[simp] theorem modPage_writeCount (f : Nat) (g : Page → Page) (s : State) : (modPage f g s).writeCount = s.writeCount := by
  unfold modPage; split <;> rfl
@[simp] theorem modPage_consumed (f : Nat) (g : Page → Page) (s : State) : (modPage f g s).consumed = s.consumed := by
  unfold modPage; split <;> rfl
@[simp] theorem modPage_overflowFlag (f : Nat) (g : Page → Page) (s : State) : (modPage f g s).overflowFlag = s.overflowFlag := by
  unfold modPage; split <;> rfl
@[simp] theorem modPage_overflowOwed (f : Nat) (g : Page → Page) (s : State) : (modPage f g s).overflowOwed = s.overflowOwed := by
  unfold modPage; split <;> rfl
@[simp] theorem modPage_payloadRead (f : Nat) (g : Page → Page) (s : State) : (modPage f g s).payloadRead = s.payloadRead := by
  unfold modPage; split <;> rfl
@[simp] theorem modPage_reports (f : Nat) (g : Page → Page) (s : State) : (modPage f g s).reports = s.reports := by
  unfold modPage; split <;> rfl
@[simp] theorem modPage_attn (f : Nat) (g : Page → Page) (s : State) : (modPage f g s).attn = s.attn := by
  unfold modPage; split <;> rfl
@[simp] theorem modPage_free (f : Nat) (g : Page → Page) (s : State) : (modPage f g s).free = s.free := by
  unfold modPage; split <;> rfl

/-! ## noteDrop -/

@[simp] theorem noteDrop_pending (s : State) : (noteDrop s).pending = s.pending := by
  unfold noteDrop; split <;> rfl
@[simp] theorem noteDrop_mem (s : State) : (noteDrop s).mem = s.mem := by
  unfold noteDrop; split <;> rfl
@[simp] theorem noteDrop_badWords (s : State) : (noteDrop s).badWords = s.badWords := by
  unfold noteDrop; split <;> rfl
@[simp] theorem noteDrop_arbLast1 (s : State) : (noteDrop s).arbLast1 = s.arbLast1 := by
  unfold noteDrop; split <;> rfl
@[simp] theorem noteDrop_arbLast4 (s : State) : (noteDrop s).arbLast4 = s.arbLast4 := by
  unfold noteDrop; split <;> rfl
@[simp] theorem noteDrop_waiting (s : State) : (noteDrop s).waiting = s.waiting := by
  unfold noteDrop; split <;> rfl
@[simp] theorem noteDrop_clock (s : State) : (noteDrop s).clock = s.clock := by
  unfold noteDrop; split <;> rfl
@[simp] theorem noteDrop_engine (s : State) : (noteDrop s).engine = s.engine := by
  unfold noteDrop; split <;> rfl
@[simp] theorem noteDrop_loader (s : State) : (noteDrop s).loader = s.loader := by
  unfold noteDrop; split <;> rfl
@[simp] theorem noteDrop_profile (s : State) : (noteDrop s).profile = s.profile := by
  unfold noteDrop; split <;> rfl
@[simp] theorem noteDrop_held (s : State) : (noteDrop s).held = s.held := by
  unfold noteDrop; split <;> rfl
@[simp] theorem noteDrop_responses (s : State) : (noteDrop s).responses = s.responses := by
  unfold noteDrop; split <;> rfl
@[simp] theorem noteDrop_lander (s : State) : (noteDrop s).lander = s.lander := by
  unfold noteDrop; split <;> rfl
@[simp] theorem noteDrop_discarded (s : State) : (noteDrop s).discarded = s.discarded := by
  unfold noteDrop; split <;> rfl
@[simp] theorem noteDrop_ringHead (s : State) : (noteDrop s).ringHead = s.ringHead := by
  unfold noteDrop; split <;> rfl
@[simp] theorem noteDrop_ringTail (s : State) : (noteDrop s).ringTail = s.ringTail := by
  unfold noteDrop; split <;> rfl
@[simp] theorem noteDrop_ringUsed (s : State) : (noteDrop s).ringUsed = s.ringUsed := by
  unfold noteDrop; split <;> rfl
@[simp] theorem noteDrop_landed (s : State) : (noteDrop s).landed = s.landed := by
  unfold noteDrop; split <;> rfl
@[simp] theorem noteDrop_unpacker (s : State) : (noteDrop s).unpacker = s.unpacker := by
  unfold noteDrop; split <;> rfl
@[simp] theorem noteDrop_pages (s : State) : (noteDrop s).pages = s.pages := by
  unfold noteDrop; split <;> rfl
@[simp] theorem noteDrop_unpackerPage (s : State) : (noteDrop s).unpackerPage = s.unpackerPage := by
  unfold noteDrop; split <;> rfl
@[simp] theorem noteDrop_patches (s : State) : (noteDrop s).patches = s.patches := by
  unfold noteDrop; split <;> rfl
@[simp] theorem noteDrop_slotsInUse (s : State) : (noteDrop s).slotsInUse = s.slotsInUse := by
  unfold noteDrop; split <;> rfl
@[simp] theorem noteDrop_slotPointer (s : State) : (noteDrop s).slotPointer = s.slotPointer := by
  unfold noteDrop; split <;> rfl
@[simp] theorem noteDrop_payloadRead (s : State) : (noteDrop s).payloadRead = s.payloadRead := by
  unfold noteDrop; split <;> rfl
@[simp] theorem noteDrop_proof (s : State) : (noteDrop s).proof = s.proof := by
  unfold noteDrop; split <;> rfl
@[simp] theorem noteDrop_lanes (s : State) : (noteDrop s).lanes = s.lanes := by
  unfold noteDrop; split <;> rfl
@[simp] theorem noteDrop_assembly (s : State) : (noteDrop s).assembly = s.assembly := by
  unfold noteDrop; split <;> rfl
@[simp] theorem noteDrop_orderQueue (s : State) : (noteDrop s).orderQueue = s.orderQueue := by
  unfold noteDrop; split <;> rfl
@[simp] theorem noteDrop_inHand (s : State) : (noteDrop s).inHand = s.inHand := by
  unfold noteDrop; split <;> rfl
@[simp] theorem noteDrop_writeCount (s : State) : (noteDrop s).writeCount = s.writeCount := by
  unfold noteDrop; split <;> rfl
@[simp] theorem noteDrop_consumed (s : State) : (noteDrop s).consumed = s.consumed := by
  unfold noteDrop; split <;> rfl
@[simp] theorem noteDrop_reports (s : State) : (noteDrop s).reports = s.reports := by
  unfold noteDrop; split <;> rfl
@[simp] theorem noteDrop_attn (s : State) : (noteDrop s).attn = s.attn := by
  unfold noteDrop; split <;> rfl
@[simp] theorem noteDrop_free (s : State) : (noteDrop s).free = s.free := by
  unfold noteDrop; split <;> rfl

/-! ## submit -/

@[simp] theorem submit_pending (r : Report) (s : State) : (submit r s).pending = s.pending := by
  unfold submit; split <;> simp
@[simp] theorem submit_mem (r : Report) (s : State) : (submit r s).mem = s.mem := by
  unfold submit; split <;> simp
@[simp] theorem submit_badWords (r : Report) (s : State) : (submit r s).badWords = s.badWords := by
  unfold submit; split <;> simp
@[simp] theorem submit_arbLast1 (r : Report) (s : State) : (submit r s).arbLast1 = s.arbLast1 := by
  unfold submit; split <;> simp
@[simp] theorem submit_arbLast4 (r : Report) (s : State) : (submit r s).arbLast4 = s.arbLast4 := by
  unfold submit; split <;> simp
@[simp] theorem submit_waiting (r : Report) (s : State) : (submit r s).waiting = s.waiting := by
  unfold submit; split <;> simp
@[simp] theorem submit_clock (r : Report) (s : State) : (submit r s).clock = s.clock := by
  unfold submit; split <;> simp
@[simp] theorem submit_engine (r : Report) (s : State) : (submit r s).engine = s.engine := by
  unfold submit; split <;> simp
@[simp] theorem submit_loader (r : Report) (s : State) : (submit r s).loader = s.loader := by
  unfold submit; split <;> simp
@[simp] theorem submit_profile (r : Report) (s : State) : (submit r s).profile = s.profile := by
  unfold submit; split <;> simp
@[simp] theorem submit_held (r : Report) (s : State) : (submit r s).held = s.held := by
  unfold submit; split <;> simp
@[simp] theorem submit_responses (r : Report) (s : State) : (submit r s).responses = s.responses := by
  unfold submit; split <;> simp
@[simp] theorem submit_lander (r : Report) (s : State) : (submit r s).lander = s.lander := by
  unfold submit; split <;> simp
@[simp] theorem submit_discarded (r : Report) (s : State) : (submit r s).discarded = s.discarded := by
  unfold submit; split <;> simp
@[simp] theorem submit_ringHead (r : Report) (s : State) : (submit r s).ringHead = s.ringHead := by
  unfold submit; split <;> simp
@[simp] theorem submit_ringTail (r : Report) (s : State) : (submit r s).ringTail = s.ringTail := by
  unfold submit; split <;> simp
@[simp] theorem submit_ringUsed (r : Report) (s : State) : (submit r s).ringUsed = s.ringUsed := by
  unfold submit; split <;> simp
@[simp] theorem submit_landed (r : Report) (s : State) : (submit r s).landed = s.landed := by
  unfold submit; split <;> simp
@[simp] theorem submit_unpacker (r : Report) (s : State) : (submit r s).unpacker = s.unpacker := by
  unfold submit; split <;> simp
@[simp] theorem submit_pages (r : Report) (s : State) : (submit r s).pages = s.pages := by
  unfold submit; split <;> simp
@[simp] theorem submit_unpackerPage (r : Report) (s : State) : (submit r s).unpackerPage = s.unpackerPage := by
  unfold submit; split <;> simp
@[simp] theorem submit_patches (r : Report) (s : State) : (submit r s).patches = s.patches := by
  unfold submit; split <;> simp
@[simp] theorem submit_slotsInUse (r : Report) (s : State) : (submit r s).slotsInUse = s.slotsInUse := by
  unfold submit; split <;> simp
@[simp] theorem submit_slotPointer (r : Report) (s : State) : (submit r s).slotPointer = s.slotPointer := by
  unfold submit; split <;> simp
@[simp] theorem submit_payloadRead (r : Report) (s : State) : (submit r s).payloadRead = s.payloadRead := by
  unfold submit; split <;> simp
@[simp] theorem submit_proof (r : Report) (s : State) : (submit r s).proof = s.proof := by
  unfold submit; split <;> simp
@[simp] theorem submit_lanes (r : Report) (s : State) : (submit r s).lanes = s.lanes := by
  unfold submit; split <;> simp
@[simp] theorem submit_assembly (r : Report) (s : State) : (submit r s).assembly = s.assembly := by
  unfold submit; split <;> simp
@[simp] theorem submit_orderQueue (r : Report) (s : State) : (submit r s).orderQueue = s.orderQueue := by
  unfold submit; split <;> simp
@[simp] theorem submit_inHand (r : Report) (s : State) : (submit r s).inHand = s.inHand := by
  unfold submit; split <;> simp
@[simp] theorem submit_writeCount (r : Report) (s : State) : (submit r s).writeCount = s.writeCount := by
  unfold submit; split <;> simp
@[simp] theorem submit_consumed (r : Report) (s : State) : (submit r s).consumed = s.consumed := by
  unfold submit; split <;> simp
@[simp] theorem submit_attn (r : Report) (s : State) : (submit r s).attn = s.attn := by
  unfold submit; split <;> simp
@[simp] theorem submit_free (r : Report) (s : State) : (submit r s).free = s.free := by
  unfold submit; split <;> simp

end Sys2Proof.Machine
end

