-- ==== Sys2Proof/Laws/Loads.lean ====
section
/-! SUPPORT. What a profile load that reads on can have read: memory's words as they stand, in order, none of them with
an uncorrectable error (R162); and when a load is judged (R156). -/

namespace Sys2Proof.Machine

/-- The numbers a drop of a range leaves. -/
theorem drop_range (k n : Nat) : (List.range n).drop k = List.range' k (n - k) := by
  simp [List.range_eq_range', List.drop_range']

/-- Of words read in order, those before the first that gives none are the first few. -/
theorem takeWhile_read {α : Type} (f : Nat → Option α) : ∀ k n : Nat, ∃ m, m ≤ n ∧
    ((List.range' k n).map f).takeWhile Option.isSome = (List.range' k m).map f ∧
    ∀ i, k ≤ i → i < k + m → (f i).isSome = true
  | _, 0 => ⟨0, by omega, by simp, by omega⟩
  | k, n + 1 => by
    by_cases h : (f k).isSome = true
    · obtain ⟨m, hm, e, all⟩ := takeWhile_read f (k + 1) n
      refine ⟨m + 1, by omega, by simp [List.range'_succ, h, e], fun i hi hj => ?_⟩
      obtain rfl | hk := Nat.eq_or_lt_of_le hi
      · exact h
      · exact all i hk (by omega)
    · exact ⟨0, by omega, by simp [List.range'_succ, h], by omega⟩

/-- A word read is one without an uncorrectable error. -/
theorem readWord_isSome {s : State} {i : Nat} : (readWord s i).isSome = true ↔ s.bad (8 * i) = false := by
  unfold readWord
  split <;> simp_all

/-- What a load that reads on can have read: it has read up to some word, none before it with an uncorrectable error. -/
theorem readOn_eq_readTo (ld : Load) (n : Nat) (s : State) : ∃ m, m ≤ n ∧ ld.readOn n s = ld.readTo m s ∧
    ∀ i, ld.got.length ≤ i → i < m → s.bad (8 * i) = false := by
  obtain ⟨m, hm, e, all⟩ := takeWhile_read (readWord s) ld.got.length (n - ld.got.length)
  by_cases h : n ≤ ld.got.length
  · exact ⟨n, le_rfl, by simp [Load.readOn, Load.readTo, drop_range, Nat.sub_eq_zero_of_le h], by omega⟩
  · refine ⟨ld.got.length + m, by omega, ?_, fun i hi hj => readWord_isSome.1 (all i hi hj)⟩
    simp [Load.readOn, Load.readTo, drop_range, e]

/-- A load reaches no further than its 512 words, and while the Unpacker's request waits no further than the next one
(R156, R162). -/
theorem loaderReach_le (s : State) (ld : Load) :
    loaderReach s ld ≤ 512 ∧ (.unpacker ∈ s.waiting → loaderReach s ld ≤ ld.got.length + 1) := by
  unfold loaderReach profileWords
  split <;> simp_all

/-- What the loader's reading on can do (R156, R162): nothing, with no load or while a request goes before its own, or
words read up to its reach, none with an uncorrectable error; where some are read its request no longer waits. -/
theorem loaderReadsOn_cases (s : State) :
    (loaderReadsOn s = s ∧ (s.loader = none ∨ s.grants .profileLoader = false)) ∨
    ∃ ld n, s.loader = some ld ∧ s.grants .profileLoader = true ∧ n ≤ loaderReach s ld ∧
      loaderReadsOn s = { s with
        loader := some (ld.readTo n s), free := s.free + 1
        waiting := if ld.readTo n s = ld then s.waiting else s.waiting.filter (· != .profileLoader) } ∧
      ∀ i, ld.got.length ≤ i → i < n → s.bad (8 * i) = false := by
  cases hl : s.loader with
  | none => exact .inl ⟨loaderReadsOn_idle hl, .inl rfl⟩
  | some ld =>
    cases hg : s.grants .profileLoader with
    | false => exact .inl ⟨loaderReadsOn_blocked hg, .inr rfl⟩
    | true =>
      obtain ⟨n, hn, e, clean⟩ := readOn_eq_readTo ld (min (Config.profileWordsRead s.free) (loaderReach s ld)) s
      exact .inr ⟨ld, n, rfl, rfl, hn.trans (Nat.min_le_right _ _), by simp [loaderReadsOn, hl, hg, e], clean⟩

/-- The loader's reading on, in the terms of the statements (R156, R162). -/
theorem loaderReadOn_of_loader {s t : State} (ht : t.loader = (loaderReadsOn s).loader) : LoaderReadOn s t := by
  rcases loaderReadsOn_cases s with ⟨e, -⟩ | ⟨ld, n, hl, hg, hn, e, clean⟩
  · rw [e] at ht
    exact ⟨fun h => ht.trans h, fun _ => ht,
      fun ld hl => ⟨0, by omega, by rw [ht, hl]; simp [Load.readTo], by omega, by omega⟩⟩
  · refine ⟨fun h => by simp [h] at hl, fun h => by simp [h] at hg, fun ld' hl' => ?_⟩
    obtain rfl : ld = ld' := by simpa [hl] using hl'
    exact ⟨n, hn.trans (loaderReach_le s ld).1, by rw [ht, e],
      fun i hi hj => by simpa [State.bad, wordOf] using clean i hi hj, fun hu => hn.trans ((loaderReach_le s ld).2 hu)⟩

/-- What the loader's reading on leaves waiting is for a word still to be read (R162). -/
theorem loaderReadsOn_waitingSafe {s : State} (h : WaitingSafe s) : WaitingSafe (loaderReadsOn s) where
  once := by rw [loaderReadsOn_waiting]; split; exacts [h.once, h.once.filter _]
  lander := by
    rw [loaderReadsOn_waiting]
    split
    exacts [h.lander, fun m => h.lander (List.mem_of_mem_filter m)]
  unpacker m := by
    have hp : (loaderReadsOn s).page = s.page := funext fun f => by simp [State.page]
    have hn : payloadNext (loaderReadsOn s) = payloadNext s := by
      funext g; simp only [payloadNext, hp, loaderReadsOn_unpackerPage]
    have : unpackerReads (loaderReadsOn s) = unpackerReads s := by
      unfold unpackerReads payloadWords payloadInHand
      rw [loaderReadsOn_payloadRead, loaderReadsOn_unpacker, hn]
    rw [this]
    rw [loaderReadsOn_waiting] at m
    split at m
    exacts [h.unpacker m, h.unpacker (List.mem_of_mem_filter m)]
  loader m := by
    rw [loaderReadsOn_waiting] at m
    split at m
    · next e => rw [e]; exact h.loader m
    · simp at m
  payload := by rw [loaderReadsOn_payloadRead]; exact h.payload
  rows l := by
    have : (loaderReadsOn s).lane l = s.lane l := by simp [State.lane]
    rw [this]
    exact h.rows l

/-- A load that has read its words, or one with an uncorrectable error, waits for nothing (R162). -/
theorem loadWaits_of_finished {s : State} {ld : Load} (h : ld.unfinished = false) : loadWaits s ld = false := by
  simp [loadWaits, h]

/-- A load whose next word is not granted waits (R156). -/
theorem loadWaits_of_not_granted {s : State} {ld : Load} (h : ld.unfinished = true)
    (hg : s.grants .profileLoader = false) : loadWaits s ld = true := by
  simp [loadWaits, h, hg]

/-- Every word read, or one met with an uncorrectable error, leaves nothing to read. -/
theorem readTo_unfinished (ld : Load) (s : State) : (ld.readTo profileWords s).unfinished = false := by
  simp only [Load.unfinished, Load.readTo, List.length_append, List.length_map, List.length_drop, List.length_range]
  rw [Bool.and_eq_false_iff]
  exact .inl (by simp; omega)

/-- A load with a grant and no request of the Unpacker's beside it waits for nothing (R156, R162). -/
theorem loadWaits_of_granted {s : State} (ld : Load) (hg : s.grants .profileLoader = true)
    (hu : .unpacker ∉ s.waiting) : loadWaits s ld = false := by
  simp [loadWaits, hg, loaderReach, hu, readTo_unfinished]

/-- What PROFILE_LOAD_JUDGED can do (R156, R162): nothing, with no load or one that waits, or the judgement applied, with
no request of the loader's waiting. -/
theorem loadJudged_cases (s : State) :
    (loadJudged s = s ∧ (s.loader = none ∨ ∃ ld, s.loader = some ld ∧ loadWaits s ld = true)) ∨
    ∃ ld, s.loader = some ld ∧ loadWaits s ld = false ∧
      loadJudged s = applyJudgement ld.cause (judge (ld.readTo profileWords s).got) (s.served .profileLoader) := by
  cases hl : s.loader with
  | none => exact .inl ⟨by simp [loadJudged, hl], .inl rfl⟩
  | some ld =>
    cases hw : loadWaits s ld with
    | true => exact .inl ⟨by simp [loadJudged, hl, hw], .inr ⟨ld, rfl, hw⟩⟩
    | false => exact .inr ⟨ld, rfl, hw, by simp [loadJudged, hl, hw]⟩

end Sys2Proof.Machine
end

