-- ==== Sys2Proof/Laws/Map.lean ====
section
/-! SUPPORT. The regions of the address map, range by range (R149). -/

namespace Sys2Proof.Machine

/-- The address map with its bounds as numbers. -/
theorem regionOf_eq (a : Nat) : regionOf a =
    if a < 0x1000 then .profileRecord
    else if 0x100000 ≤ a ∧ a < 0x102000 then .reportRing
    else if 0x102000 ≤ a ∧ a < 0x102008 then .writeCount
    else if 0x102008 ≤ a ∧ a < 0x102010 then .consumedCount
    else if 0x102010 ≤ a ∧ a < 0x102018 then .overflowWord
    else if 0x200000 ≤ a ∧ a < 0x201000 then .inflowChute
    else if 0x300000 ≤ a ∧ a < 0x301000 then .orderChute
    else if 0x1000000 ≤ a ∧ a < 0x3000000 then .inflowRing
    else if 0x4000000 ≤ a ∧ a < 0x6000000 then .patchPool
    else if 0x8000000 ≤ a ∧ a < 0x3C8000000 then .frame ((a - 0x8000000) / 0x6000000) ((a - 0x8000000) % 0x6000000)
    else if 0x400000000 ≤ a ∧ a < 0x404000000 then .proofWindow
    else if 0x404000000 ≤ a then .unmapped
    else .plain := rfl

theorem ite_ne_of {c : Prop} [Decidable c] {x y z : Region} (hx : x ≠ z) (hy : ¬ c → y ≠ z) :
    (if c then x else y) ≠ z := by
  by_cases h : c
  · rwa [if_pos h]
  · rw [if_neg h]; exact hy h

theorem regionOf_unmapped_iff (a : Nat) : regionOf a = .unmapped ↔ 0x404000000 ≤ a := by
  constructor
  · intro h
    by_contra hn
    revert h
    rw [regionOf_eq, if_neg hn]
    iterate 11 refine ite_ne_of (by simp) fun _ => ?_
    simp
  · intro h
    rw [regionOf_eq]
    iterate 10 rw [if_neg (by omega)]
    rw [if_neg (by omega), if_pos h]

theorem regionOf_inflowChute {a : Nat} (h : 0x200000 ≤ a) (k : a < 0x201000) : regionOf a = .inflowChute := by
  rw [regionOf_eq]
  iterate 5 rw [if_neg (by omega)]
  rw [if_pos ⟨h, k⟩]

theorem regionOf_orderChute {a : Nat} (h : 0x300000 ≤ a) (k : a < 0x301000) : regionOf a = .orderChute := by
  rw [regionOf_eq]
  iterate 6 rw [if_neg (by omega)]
  rw [if_pos ⟨h, k⟩]

theorem regionOf_inflowRing {a : Nat} (h : 0x1000000 ≤ a) (k : a < 0x3000000) : regionOf a = .inflowRing := by
  rw [regionOf_eq]
  iterate 7 rw [if_neg (by omega)]
  rw [if_pos ⟨h, k⟩]

theorem regionOf_patchPool {a : Nat} (h : 0x4000000 ≤ a) (k : a < 0x6000000) : regionOf a = .patchPool := by
  rw [regionOf_eq]
  iterate 8 rw [if_neg (by omega)]
  rw [if_pos ⟨h, k⟩]

theorem regionOf_frame {f off a : Nat} (hf : f < 160) (ho : off < 0x6000000)
    (ha : a = 0x8000000 + f * 0x6000000 + off) : regionOf a = .frame f off := by
  have h1 : (a - 0x8000000) / 0x6000000 = f := by omega
  have h2 : (a - 0x8000000) % 0x6000000 = off := by omega
  rw [regionOf_eq]
  iterate 9 rw [if_neg (by omega)]
  rw [if_pos (by omega), h1, h2]

theorem regionOf_proofWindow {a : Nat} (h : 0x400000000 ≤ a) (k : a < 0x404000000) : regionOf a = .proofWindow := by
  rw [regionOf_eq]
  iterate 10 rw [if_neg (by omega)]
  rw [if_pos ⟨h, k⟩]

theorem chuteAddr_inflow (off : BitVec 12) : regionOf (chuteAddr .inflow off) = .inflowChute := by
  have := off.isLt
  exact regionOf_inflowChute (by simp only [chuteAddr, beatAddr, inflowChuteBase]; omega)
    (by simp only [chuteAddr, beatAddr, inflowChuteBase]; omega)

theorem chuteAddr_order (off : BitVec 12) : regionOf (chuteAddr .order off) = .orderChute := by
  have := off.isLt
  exact regionOf_orderChute (by simp only [chuteAddr, beatAddr, orderChuteBase]; omega)
    (by simp only [chuteAddr, beatAddr, orderChuteBase]; omega)

end Sys2Proof.Machine
end

