-- ==== Sys2Proof/Laws/Memory.lean ====
section
/-! SUPPORT. The laws of stacked DRAM: a read after a write, other places left alone, and the canonical form kept by every
memory operation. -/

namespace Sys2Proof.Machine

/-! ## The canonical form -/

/-- Every address listed lies above a bound. -/
def Above (x : Nat) (m : Memory) : Prop := ∀ c ∈ m, x < c.1

theorem wf_nil : Memory.wf [] = true := rfl

theorem wf_cons {a : Nat} {b : Byte} {m : Memory} :
    Memory.wf ((a, b) :: m) = true ↔ b ≠ unwrittenByte ∧ Above a m ∧ Memory.wf m = true := by
  induction m generalizing a b with
  | nil => simp [Memory.wf, Above]
  | cons c m ih =>
    obtain ⟨a', b'⟩ := c
    simp only [Memory.wf, Bool.and_eq_true, bne_iff_ne, decide_eq_true_eq, ih, Above, List.mem_cons, forall_eq_or_imp]
    constructor
    · rintro ⟨⟨hb, hlt⟩, hb', hab, hw⟩
      exact ⟨hb, ⟨hlt, fun c hc => lt_trans hlt (hab c hc)⟩, hb', hab, hw⟩
    · rintro ⟨hb, ⟨hlt, -⟩, hb', hab, hw⟩
      exact ⟨⟨hb, hlt⟩, hb', hab, hw⟩

theorem memRead_of_above {x : Nat} {m : Memory} (h : Above x m) : memRead m x = unwrittenByte := by
  induction m with
  | nil => rfl
  | cons c m ih =>
    obtain ⟨a, b⟩ := c
    have hx : x < a := h (a, b) (by simp)
    have hr : Above x m := fun c hc => h c (by simp [hc])
    simp [memRead, show a ≠ x by omega, ih hr]

theorem above_memWrite {y x : Nat} {v : Byte} {m : Memory} (h : Above y m) (hyx : y < x) :
    Above y (memWrite m x v) := by
  induction m with
  | nil => intro c hc; unfold memWrite at hc; split at hc <;> simp_all
  | cons c m ih =>
    obtain ⟨a, b⟩ := c
    have ha : y < a := h (a, b) (by simp)
    have hr : Above y m := fun c hc => h c (by simp [hc])
    intro c hc
    unfold memWrite at hc
    split at hc
    · split at hc
      · exact h c hc
      · rcases List.mem_cons.1 hc with rfl | hc
        · exact hyx
        · exact h c hc
    · split at hc
      · split at hc
        · exact hr c hc
        · rcases List.mem_cons.1 hc with rfl | hc
          · exact hyx
          · exact hr c hc
      · rcases List.mem_cons.1 hc with rfl | hc
        · exact ha
        · exact ih hr c hc

/-- A byte written keeps the canonical form. -/
theorem wf_memWrite {m : Memory} (x : Nat) (v : Byte) (h : Memory.wf m = true) :
    Memory.wf (memWrite m x v) = true := by
  induction m with
  | nil =>
    unfold memWrite
    split <;> simp_all [Memory.wf]
  | cons c m ih =>
    obtain ⟨a, b⟩ := c
    have hc := wf_cons.1 h
    unfold memWrite
    split
    · split
      · exact h
      · refine wf_cons.2 ⟨‹_›, ?_, h⟩
        intro c hm
        rcases List.mem_cons.1 hm with rfl | hm
        · assumption
        · exact lt_trans ‹x < a› (hc.2.1 c hm)
    · split
      · split
        · exact hc.2.2
        · refine wf_cons.2 ⟨‹_›, ?_, hc.2.2⟩
          intro c hm
          exact ‹x = a› ▸ hc.2.1 c hm
      · exact wf_cons.2 ⟨hc.1, above_memWrite hc.2.1 (by omega), ih hc.2.2⟩

/-- Bytes written keep the canonical form. -/
theorem wf_memWriteBytes (bs : List Byte) : ∀ {m : Memory} (a : Nat),
    Memory.wf m = true → Memory.wf (memWriteBytes m a bs) = true := by
  induction bs with
  | nil => intro m a h; exact h
  | cons b bs ih => intro m a h; exact ih (a + 1) (wf_memWrite a b h)

/-- The enabled bytes of a beat merged keep the canonical form. -/
theorem wf_mergeBeat {m : Memory} (a : Nat) (be : Enables) (d : Beat) (h : Memory.wf m = true) :
    Memory.wf (mergeBeat m a be d) = true := by
  unfold mergeBeat
  generalize List.range 8 = ks
  induction ks generalizing m with
  | nil => exact h
  | cons k ks ih =>
    simp only [List.foldl_cons]
    apply ih
    split
    · exact wf_memWrite _ _ h
    · exact h

/-! ## Reading after writing -/

/-- A read after a write, at any address; the memory is in canonical form. -/
theorem memRead_memWrite {m : Memory} (x y : Nat) (v : Byte) (h : Memory.wf m = true) :
    memRead (memWrite m x v) y = if y = x then v else memRead m y := by
  induction m with
  | nil =>
    by_cases hv : v = unwrittenByte <;> by_cases hy : y = x <;>
      simp [memWrite, memRead, hv, hy, show x = y ↔ y = x from eq_comm]
  | cons c m ih =>
    obtain ⟨a, b⟩ := c
    obtain ⟨hb, hab, hw⟩ := wf_cons.1 h
    unfold memWrite
    split
    · rename_i hxa
      split
      · rename_i hv
        by_cases hy : y = x
        · subst hy
          have : Above y ((a, b) :: m) := by
            intro c hm
            rcases List.mem_cons.1 hm with rfl | hm
            · exact hxa
            · exact lt_trans hxa (hab c hm)
          simp [memRead_of_above this, hv]
        · simp [hy]
      · by_cases hy : y = x
        · simp [memRead, hy]
        · simp [memRead, hy, show x ≠ y from fun e => hy e.symm]
    · split
      · rename_i hxa
        subst hxa
        split
        · rename_i hv
          by_cases hy : y = x
          · subst hy; simp [memRead_of_above hab, hv]
          · simp [memRead, hy, show x ≠ y from fun e => hy e.symm]
        · by_cases hy : y = x
          · simp [memRead, hy]
          · simp [memRead, hy, show x ≠ y from fun e => hy e.symm]
      · by_cases hy : y = x
        · subst hy
          simp [memRead, show a ≠ y by omega, ih hw]
        · by_cases hay : a = y
          · simp [memRead, hay, show ¬ y = x from hy]
          · simp [memRead, hay, ih hw, hy]

/-- A read after bytes are written from an address on. -/
theorem memRead_memWriteBytes (bs : List Byte) : ∀ {m : Memory} (a y : Nat), Memory.wf m = true →
    memRead (memWriteBytes m a bs) y = if a ≤ y ∧ y < a + bs.length then bs.getD (y - a) 0 else memRead m y := by
  induction bs with
  | nil =>
    intro m a y _
    rw [if_neg (by simp)]
    rfl
  | cons b bs ih =>
    intro m a y h
    simp only [memWriteBytes]
    rw [ih (a + 1) y (wf_memWrite a b h), memRead_memWrite _ _ _ h]
    by_cases hy : y = a
    · subst hy; simp
    · by_cases h1 : a + 1 ≤ y ∧ y < a + 1 + bs.length
      · have h2 : a ≤ y ∧ y < a + (b :: bs).length := by simp; omega
        rw [if_pos h1, if_pos h2]
        obtain ⟨n, hn⟩ : ∃ n, y - a = n + 1 := ⟨y - a - 1, by omega⟩
        have : y - (a + 1) = n := by omega
        simp [hn, this]
      · have h2 : ¬ (a ≤ y ∧ y < a + (b :: bs).length) := by simp; omega
        rw [if_neg h1, if_neg h2, if_neg hy]

/-- A read after the enabled bytes of a beat are merged. -/
theorem memRead_mergeBeat {m : Memory} (a : Nat) (be : Enables) (d : Beat) (y : Nat) (h : Memory.wf m = true) :
    memRead (mergeBeat m a be d) y =
      if a ≤ y ∧ y < a + 8 ∧ enabled be (y - a) = true then beatByte d (y - a) else memRead m y := by
  have key : ∀ (n : Nat) (m : Memory), Memory.wf m = true →
      memRead ((List.range n).foldl (fun m k => if enabled be k then memWrite m (a + k) (beatByte d k) else m) m) y =
        if a ≤ y ∧ y < a + n ∧ enabled be (y - a) = true then beatByte d (y - a) else memRead m y := by
    intro n
    induction n with
    | zero => intro m _; simp; omega
    | succ n ih =>
      intro m hm
      rw [List.range_succ, List.foldl_append]
      have hw : Memory.wf
          ((List.range n).foldl (fun m k => if enabled be k then memWrite m (a + k) (beatByte d k) else m) m) = true := by
        generalize List.range n = ks
        induction ks generalizing m with
        | nil => exact hm
        | cons k ks ihk =>
          simp only [List.foldl_cons]
          split
          · exact ihk _ (wf_memWrite _ _ hm)
          · exact ihk _ hm
      simp only [List.foldl_cons, List.foldl_nil]
      split
      · rename_i he
        rw [memRead_memWrite _ _ _ hw, ih m hm]
        by_cases hy : y = a + n
        · subst hy; simp [he]
        · rw [if_neg hy]
          congr 1
          simp only [eq_iff_iff]
          constructor
          · rintro ⟨h1, h2, h3⟩; exact ⟨h1, by omega, h3⟩
          · rintro ⟨h1, h2, h3⟩; exact ⟨h1, by omega, h3⟩
      · rename_i he
        rw [ih m hm]
        congr 1
        simp only [eq_iff_iff]
        constructor
        · rintro ⟨h1, h2, h3⟩; exact ⟨h1, by omega, h3⟩
        · rintro ⟨h1, h2, h3⟩
          refine ⟨h1, ?_, h3⟩
          by_contra hn
          have : y - a = n := by omega
          rw [this] at h3
          exact he h3
  exact key 8 m h

end Sys2Proof.Machine
end

