-- ==== Sys2Proof/Laws/Reactions.lean ====
section
/-! SUPPORT. What the shared operations can do, said once: reports (R170, R173), and the reactions of the lanes and the
Unpacker to an announcement (R17, R42, R119). -/

namespace Sys2Proof.Machine

/-! ## Reports -/

/-- Everything a drop can do (R173). -/
theorem noteDrop_cases (s : State) :
    (s.overflowFlag = true ∧ noteDrop s = s) ∨
    (s.overflowFlag = false ∧ noteDrop s = { s with overflowFlag := true, overflowOwed := s.overflowOwed + 1 }) := by
  unfold noteDrop
  cases h : s.overflowFlag <;> simp

/-- Everything a submission can do (R159, R170). -/
theorem submit_cases (r : Report) (s : State) :
    (s.reports.length < 64 ∧ submit r s = { s with reports := s.reports ++ [{ r with stamp := s.clock }] }) ∨
    (64 ≤ s.reports.length ∧ submit r s = noteDrop s) := by
  unfold submit
  by_cases h : s.reports.length < 64
  · exact .inl ⟨h, by simp [h]⟩
  · exact .inr ⟨by omega, by simp [h]⟩

/-! ## The reactions -/

/-- `t` comes from `s` by reactions alone: what is steady stays, reports are only added, and memory stays. -/
structure Reacts (s t : State) : Prop where
  steady : t.steady = s.steady
  reports : s.reports <+: t.reports
  room : s.reports.length ≤ 64 → t.reports.length ≤ 64
  mem : t.mem = s.mem
  badWords : t.badWords = s.badWords

theorem Reacts.refl (s : State) : Reacts s s := ⟨rfl, List.prefix_rfl, id, rfl, rfl⟩

theorem Reacts.trans {s t u : State} (h : Reacts s t) (k : Reacts t u) : Reacts s u where
  steady := k.steady.trans h.steady
  reports := h.reports.trans k.reports
  room := fun r => k.room (h.room r)
  mem := k.mem.trans h.mem
  badWords := k.badWords.trans h.badWords

/-- Reactions leave every byte of memory as it was. -/
theorem Reacts.bytesKept {s t : State} (h : Reacts s t) (x : Nat) : memRead t.mem x = memRead s.mem x := by rw [h.mem]

/-- A change that touches neither memory nor the pending reports, and nothing steady. -/
theorem Reacts.of_quiet {s t : State} (hs : t.steady = s.steady) (hm : t.mem = s.mem) (hb : t.badWords = s.badWords)
    (hr : t.reports = s.reports) : Reacts s t :=
  ⟨hs, hr ▸ List.prefix_rfl, fun r => hr ▸ r, hm, hb⟩

theorem noteDrop_reacts (s : State) : Reacts s (noteDrop s) := by
  rcases noteDrop_cases s with ⟨-, h⟩ | ⟨-, h⟩ <;> rw [h]
  · exact Reacts.refl s
  · exact Reacts.of_quiet rfl rfl rfl rfl

theorem submit_reacts (r : Report) (s : State) : Reacts s (submit r s) := by
  rcases submit_cases r s with ⟨hr, h⟩ | ⟨-, h⟩
  · rw [h]; exact ⟨rfl, List.prefix_append _ _, fun _ => by simp; omega, rfl, rfl⟩
  · rw [h]; exact noteDrop_reacts s

/-! ## Steady parts of updates -/

theorem steady_modLane (l : LaneId) (g : Lane → Lane) (s : State) (h : (g (s.lane l)).control = (s.lane l).control) :
    (modLane l g s).steady = s.steady := by
  match l with
  | 0 | 1 | 2 | 3 =>
    simp only [State.lane, Quad.get] at h
    simp only [State.steady, modLane, Quad.set, Quad.get, h]

theorem map_content_set {ps : List (Option Page)} {f : Nat} {p q : Page} (h : ps.getD f none = some p)
    (hc : q.content = p.content) :
    (ps.set f (some q)).map (Option.map Page.content) = ps.map (Option.map Page.content) := by
  apply List.ext_getElem?
  intro i
  by_cases hi : f = i
  · subst hi
    have hl : f < ps.length := by
      by_contra hn
      simp [List.getD_eq_getElem?_getD, List.getElem?_eq_none (Nat.le_of_not_lt hn)] at h
    rw [List.getD_eq_getElem?_getD, List.getElem?_eq_getElem hl] at h
    simp only [Option.getD_some] at h
    simp [hl, h, hc]
  · simp [List.getElem?_map, hi]

theorem steady_modPage (f : Nat) (g : Page → Page) (s : State) (h : ∀ p, (g p).content = p.content) :
    (modPage f g s).steady = s.steady := by
  unfold modPage
  cases hp : s.page f with
  | none => rfl
  | some p => simp only [State.steady, setPage, map_content_set hp (h p)]

theorem modLane_reacts (l : LaneId) (g : Lane → Lane) (s : State) (h : ∀ L, (g L).control = L.control) :
    Reacts s (modLane l g s) := Reacts.of_quiet (steady_modLane l g s (h _)) rfl rfl rfl

theorem modPage_reacts (f : Nat) (g : Page → Page) (s : State) (h : ∀ p, (g p).content = p.content) :
    Reacts s (modPage f g s) := Reacts.of_quiet (steady_modPage f g s h) (by simp) (by simp) (by simp)

theorem modPlate_reacts (l : LaneId) (t : Tag) (g : Plate → Plate) (s : State) : Reacts s (modPlate l t g s) :=
  modLane_reacts l _ s fun _ => rfl

theorem removePlate_reacts (l : LaneId) (t : Tag) (s : State) : Reacts s (removePlate l t s) :=
  modLane_reacts l _ s fun _ => rfl

theorem takeLock_reacts (f : Nat) (s : State) : Reacts s (takeLock f s) := modPage_reacts f _ s fun _ => rfl

theorem releaseLock_reacts (k : Key) (s : State) : Reacts s (releaseLock k s) := by
  unfold releaseLock
  split
  · exact modPage_reacts _ _ s fun _ => rfl
  · exact Reacts.refl s

/-! ## The lanes' choices -/

theorem setHeld_reacts (l : LaneId) (t : Tag) (r : Option HeldReason) (s : State) : Reacts s (setHeld l t r s) := by
  unfold setHeld
  split
  · exact modPlate_reacts _ _ _ s
  · exact Reacts.refl s

theorem choiceEmpty_reacts (l : LaneId) (s : State) : Reacts s (choiceEmpty l s) := by
  unfold choiceEmpty
  split
  · exact modLane_reacts l _ s fun _ => rfl
  · split
    · exact Reacts.refl s
    · split
      · exact Reacts.refl s
      · exact (submit_reacts _ s).trans (modLane_reacts l _ _ fun _ => rfl)

theorem beginLoading_reacts (l : LaneId) (pl : Plate) (f : Nat) (s : State) : Reacts s (beginLoading l pl f s) := by
  unfold beginLoading
  split
  · exact ((takeLock_reacts f s).trans (modPlate_reacts _ _ _ _)).trans (modLane_reacts l _ _ fun _ => rfl)
  · exact Reacts.refl s

theorem chooseFrom_reacts (l : LaneId) (ps : List Plate) (s : State) : Reacts s (chooseFrom l ps s) := by
  induction ps generalizing s with
  | nil => exact choiceEmpty_reacts l s
  | cons p ps ih =>
    unfold chooseFrom
    split
    · exact beginLoading_reacts _ _ _ s
    · exact (setHeld_reacts _ _ _ s).trans (ih _)

theorem choose_reacts (l : LaneId) (s : State) : Reacts s (choose l s) := by
  unfold choose
  split
  · exact chooseFrom_reacts _ _ s
  · exact Reacts.refl s

/-- An announcement is a reaction (R17, R119). -/
theorem announce_reacts (s : State) : Reacts s (announce s) :=
  (((choose_reacts 0 s).trans (choose_reacts 1 _)).trans (choose_reacts 2 _)).trans (choose_reacts 3 _)

theorem announceIf_reacts (b : Bool) (s : State) : Reacts s (announceIf b s) := by
  unfold announceIf
  split
  · exact announce_reacts s
  · exact Reacts.refl s

/-! ## The Unpacker's choice -/

theorem undefer_reacts (k : Key) (o : Nat) (s : State) : Reacts s (undefer k o s) := by
  unfold undefer
  split
  · exact modPage_reacts _ _ s fun _ => rfl
  · exact Reacts.refl s

theorem takeUp_reacts (e : LandedEntry) (s : State) : Reacts s (takeUp e s) :=
  Reacts.trans (t := { s with unpacker := .working e.seg .taken, payloadRead := Reading.start }) (Reacts.of_quiet rfl rfl rfl rfl)
    (undefer_reacts _ _ _)

theorem claimNow_reacts (s : State) : Reacts s (claimNow s) := by
  unfold claimNow
  split
  · split
    · exact Reacts.of_quiet rfl rfl rfl rfl
    · exact Reacts.refl s
    · exact Reacts.refl s
  · exact Reacts.refl s

theorem lanesThenWork_reacts (b : Bool) (s : State) : Reacts s (lanesThenWork b s) := by
  unfold lanesThenWork
  simp only
  split
  · exact announceIf_reacts b s
  · exact ((announceIf_reacts b s).trans (takeUp_reacts _ _)).trans (announceIf_reacts _ _)

/-- The Unpacker's choice of work, with what it announces, is a reaction (R16, R42). -/
theorem takeWork_reacts (b : Bool) (s : State) : Reacts s (takeWork b s) := by
  have hf : Reacts s (useFree s) := Reacts.of_quiet rfl rfl rfl rfl
  unfold takeWork
  split
  · exact announceIf_reacts b s
  · split
    · split
      · exact ((hf.trans (takeUp_reacts _ _)).trans (claimNow_reacts _)).trans (announce_reacts _)
      · exact hf.trans (lanesThenWork_reacts b _)
    · exact lanesThenWork_reacts b s

/-- What falling lock counts set off is a reaction (R12, R17). -/
theorem settleLocks_reacts (a b s : State) : Reacts s (settleLocks a b s) := by
  unfold settleLocks
  simp only
  split
  · exact (announceIf_reacts _ s).trans (takeWork_reacts _ _)
  · exact announceIf_reacts _ s

end Sys2Proof.Machine
end

