-- ==== Sys2Proof/Laws/Queues.lean ====
section
/-! SUPPORT. The operations the lanes' commands share keep every queue safe (R114, R115, R117, R122). -/

namespace Sys2Proof.Machine

/-! ## Queues by their plates -/

/-- A list of plates that may be the queue of lane `l`: `QueueSafe`, and no tag twice. -/
structure QueueOk (l : LaneId) (q : List Plate) : Prop where
  size : q.length ≤ 16
  own : ∀ p ∈ q, p.lane = l
  attempts : ∀ p ∈ q, 1 ≤ p.attempt ∧ p.attempt ≤ p.allowance ∧ p.allowance ≤ 3
  oneFront : (q.filter fun p => p.state.onDrum).length ≤ 1
  oneBack : (q.filter fun p => p.state == .loading).length ≤ 1
  tags : (q.map Plate.tag).Nodup

/-- Tags are not shared by two live plates when each queue repeats none and no two queues share one. -/
theorem liveTags_nodup_iff (s : State) :
    (liveTags s).Nodup ↔ (∀ l, ((s.lane l).queue.map Plate.tag).Nodup) ∧
      ∀ l k, l ≠ k → ∀ x, x ∈ (s.lane l).queue.map Plate.tag → x ∉ (s.lane k).queue.map Plate.tag := by
  unfold liveTags
  rw [List.nodup_flatMap]
  constructor
  · rintro ⟨h1, h2⟩
    refine ⟨fun l => h1 l (by match l with | 0 | 1 | 2 | 3 => decide), fun l k hlk x hx hy => ?_⟩
    simp only [allLanes, List.pairwise_cons, Function.onFun] at h2
    obtain ⟨a, b, c, -⟩ := h2
    match l, k with
    | 0, 0 | 1, 1 | 2, 2 | 3, 3 => exact hlk rfl
    | 0, 1 => exact a 1 (by simp) hx hy
    | 0, 2 => exact a 2 (by simp) hx hy
    | 0, 3 => exact a 3 (by simp) hx hy
    | 1, 2 => exact b 2 (by simp) hx hy
    | 1, 3 => exact b 3 (by simp) hx hy
    | 2, 3 => exact c 3 (by simp) hx hy
    | 1, 0 => exact a 1 (by simp) hy hx
    | 2, 0 => exact a 2 (by simp) hy hx
    | 3, 0 => exact a 3 (by simp) hy hx
    | 2, 1 => exact b 2 (by simp) hy hx
    | 3, 1 => exact b 3 (by simp) hy hx
    | 3, 2 => exact c 3 (by simp) hy hx
  · rintro ⟨h1, h2⟩
    refine ⟨fun l _ => h1 l, ?_⟩
    have hn : allLanes.Nodup := by decide
    exact hn.imp fun {l k} hlk x hx hy => h2 l k hlk x hx hy

theorem queuesSafe_iff (s : State) :
    QueuesSafe s ↔ (∀ l, QueueOk l (s.lane l).queue) ∧
      ∀ l k, l ≠ k → ∀ x, x ∈ (s.lane l).queue.map Plate.tag → x ∉ (s.lane k).queue.map Plate.tag := by
  constructor
  · intro h
    obtain ⟨a, b⟩ := (liveTags_nodup_iff s).1 h.tags
    exact ⟨fun l => ⟨(h.each l).size, (h.each l).own, (h.each l).attempts, (h.each l).oneFront, (h.each l).oneBack, a l⟩,
      b⟩
  · rintro ⟨a, b⟩
    exact ⟨fun l => ⟨(a l).size, (a l).own, (a l).attempts, (a l).oneFront, (a l).oneBack⟩,
      (liveTags_nodup_iff s).2 ⟨fun l => (a l).tags, b⟩⟩

theorem QueuesSafe.ok {s : State} (h : QueuesSafe s) (l : LaneId) : QueueOk l (s.lane l).queue :=
  ((queuesSafe_iff s).1 h).1 l

/-- A change that leaves the queues as they are. -/
theorem QueuesSafe.congr {s t : State} (h : QueuesSafe s) (hq : ∀ l, (t.lane l).queue = (s.lane l).queue) :
    QueuesSafe t := by
  rw [queuesSafe_iff] at h ⊢
  exact ⟨fun l => hq l ▸ h.1 l, fun l k hlk => by rw [hq l, hq k]; exact h.2 l k hlk⟩

/-- A change that leaves the lanes as they are. -/
theorem QueuesSafe.of_lanes {s t : State} (h : QueuesSafe s) (hl : t.lanes = s.lanes) : QueuesSafe t :=
  h.congr fun l => by simp only [State.lane, hl]

/-- One lane changed: its queue may be so, and its tags were there before or are in no queue. -/
theorem QueuesSafe.of_modLane {s : State} (h : QueuesSafe s) (l : LaneId) (g : Lane → Lane)
    (hq : QueueOk l (g (s.lane l)).queue)
    (ht : ∀ p ∈ (g (s.lane l)).queue, p.tag ∈ (s.lane l).queue.map Plate.tag ∨ p.tag ∉ liveTags s) :
    QueuesSafe (modLane l g s) := by
  rw [queuesSafe_iff] at h ⊢
  have hin : ∀ k x, x ∈ (s.lane k).queue.map Plate.tag → x ∈ liveTags s := fun k x hx =>
    List.mem_flatMap.2 ⟨k, by match k with | 0 | 1 | 2 | 3 => decide, hx⟩
  have hnew : ∀ k, k ≠ l → ∀ x, x ∈ (g (s.lane l)).queue.map Plate.tag → x ∉ (s.lane k).queue.map Plate.tag := by
    intro k hk x hx hy
    obtain ⟨p, hp, rfl⟩ := List.mem_map.1 hx
    rcases ht p hp with h1 | h1
    · exact h.2 l k (Ne.symm hk) _ h1 hy
    · exact h1 (hin k _ hy)
  constructor
  · intro k
    by_cases hk : k = l
    · subst hk; simpa using hq
    · rw [lane_modLane_ne _ _ hk]; exact h.1 k
  · intro k m hkm x hx hy
    by_cases hk : k = l
    · subst hk
      rw [lane_modLane_ne _ _ (Ne.symm hkm)] at hy
      exact hnew m (Ne.symm hkm) x (by simpa using hx) hy
    · rw [lane_modLane_ne _ _ hk] at hx
      by_cases hm : m = l
      · subst hm; exact hnew k hk x (by simpa using hy) hx
      · rw [lane_modLane_ne _ _ hm] at hy; exact h.2 k m hkm x hx hy

/-- One lane changed, but not its queue. -/
theorem QueuesSafe.of_modLane_queue {s : State} (h : QueuesSafe s) (l : LaneId) (g : Lane → Lane)
    (hq : (g (s.lane l)).queue = (s.lane l).queue) : QueuesSafe (modLane l g s) :=
  h.of_modLane l g (hq ▸ h.ok l) fun p hp => .inl (List.mem_map.2 ⟨p, hq ▸ hp, rfl⟩)

/-! ## Changing one plate -/

/-- Two plates of a queue with one tag are one plate. -/
theorem QueueOk.eq_of_tag {l : LaneId} {q : List Plate} (h : QueueOk l q) {x p : Plate} (hx : x ∈ q) (hp : p ∈ q)
    (ht : x.tag = p.tag) : x = p := List.inj_on_of_nodup_map h.tags hx hp ht

/-- A property of plates holds of at most one plate after a change of the plates of one tag, if it did before and the
change gives it to none, or no plate had it before. -/
theorem one_after_map {q : List Plate} (hq : (q.map Plate.tag).Nodup) (P : Plate → Bool) (tag : Tag)
    (g : Plate → Plate) (h1 : (q.filter P).length ≤ 1)
    (h : (∀ p ∈ q, p.tag = tag → P (g p) = true → P p = true) ∨ ∀ p ∈ q, P p = false) :
    ((q.map fun p => if p.tag = tag then g p else p).filter P).length ≤ 1 := by
  rw [← List.countP_eq_length_filter] at h1 ⊢
  rw [List.countP_map]
  rcases h with h | h
  · refine le_trans (List.countP_mono_left fun p hp hP => ?_) h1
    by_cases ht : p.tag = tag
    · exact h p hp ht (by simpa [ht] using hP)
    · simpa [ht] using hP
  · have h2 : q.countP (fun p => p.tag == tag) ≤ 1 := by
      have := List.nodup_iff_count_le_one.1 hq tag
      rwa [List.count, List.countP_map] at this
    refine le_trans (List.countP_mono_left fun p hp hP => ?_) h2
    by_cases ht : p.tag = tag
    · simp [ht]
    · simp [ht, h p hp] at hP

/-- The plates of one tag changed in what no bound speaks of, or in a state that leaves one front and one back plate. -/
theorem QueueOk.map_plate {l : LaneId} {q : List Plate} (h : QueueOk l q) (tag : Tag) (g : Plate → Plate)
    (keep : ∀ p, (g p).tag = p.tag ∧ (g p).lane = p.lane ∧ (g p).attempt = p.attempt ∧ (g p).allowance = p.allowance)
    (front : (∀ p ∈ q, p.tag = tag → (g p).state.onDrum = true → p.state.onDrum = true) ∨
      ∀ p ∈ q, p.state.onDrum = false)
    (back : (∀ p ∈ q, p.tag = tag → (g p).state = .loading → p.state = .loading) ∨ ∀ p ∈ q, p.state ≠ .loading) :
    QueueOk l (q.map fun p => if p.tag = tag then g p else p) := by
  have hmem : ∀ x ∈ q.map (fun p => if p.tag = tag then g p else p), ∃ p ∈ q, x = p ∨ x = g p := by
    intro x hx
    obtain ⟨p, hp, rfl⟩ := List.mem_map.1 hx
    exact ⟨p, hp, by by_cases ht : p.tag = tag <;> simp [ht]⟩
  have htags : (q.map fun p => if p.tag = tag then g p else p).map Plate.tag = q.map Plate.tag := by
    rw [List.map_map]
    refine List.map_congr_left fun p _ => ?_
    by_cases ht : p.tag = tag <;> simp [ht, (keep p).1]
  refine ⟨by simpa using h.size, fun x hx => ?_, fun x hx => ?_, ?_, ?_, htags ▸ h.tags⟩
  · obtain ⟨p, hp, rfl | rfl⟩ := hmem x hx
    · exact h.own x hp
    · rw [(keep p).2.1]; exact h.own p hp
  · obtain ⟨p, hp, rfl | rfl⟩ := hmem x hx
    · exact h.attempts x hp
    · rw [(keep p).2.2.1, (keep p).2.2.2]; exact h.attempts p hp
  · exact one_after_map h.tags (fun p => p.state.onDrum) tag g h.oneFront front
  · exact one_after_map h.tags (fun p => p.state == .loading) tag g h.oneBack (by simpa using back)

theorem Lane.front_eq_none {L : Lane} : L.front = none ↔ ∀ p ∈ L.queue, p.state.onDrum = false := by
  simp [Lane.front]

theorem Lane.back_eq_none {L : Lane} : L.back = none ↔ ∀ p ∈ L.queue, p.state ≠ .loading := by
  simp [Lane.back]

theorem Lane.front_mem {L : Lane} {p : Plate} (h : L.front = some p) : p ∈ L.queue ∧ p.state.onDrum = true :=
  ⟨List.mem_of_find?_eq_some h, List.find?_some (p := fun p : Plate => p.state.onDrum) h⟩

theorem Lane.back_mem {L : Lane} {p : Plate} (h : L.back = some p) : p ∈ L.queue ∧ p.state = .loading :=
  ⟨List.mem_of_find?_eq_some h, by simpa using List.find?_some h⟩

theorem QueuesSafe.of_modPlate {s : State} (h : QueuesSafe s) (l : LaneId) (tag : Tag) (g : Plate → Plate)
    (keep : ∀ p, (g p).tag = p.tag ∧ (g p).lane = p.lane ∧ (g p).attempt = p.attempt ∧ (g p).allowance = p.allowance)
    (front : (∀ p ∈ (s.lane l).queue, p.tag = tag → (g p).state.onDrum = true → p.state.onDrum = true) ∨
      (s.lane l).front = none)
    (back : (∀ p ∈ (s.lane l).queue, p.tag = tag → (g p).state = .loading → p.state = .loading) ∨
      (s.lane l).back = none) :
    QueuesSafe (modPlate l tag g s) := by
  rw [Lane.front_eq_none] at front
  rw [Lane.back_eq_none] at back
  refine h.of_modLane l _ ((h.ok l).map_plate tag g keep front back) fun p hp => .inl ?_
  obtain ⟨x, hx, rfl⟩ := List.mem_map.1 hp
  by_cases ht : x.tag = tag
  · simpa [ht, (keep x).1] using ⟨x, hx, ht⟩
  · simpa [ht] using ⟨x, hx, rfl⟩

/-- A change of plates that keeps their states. -/
theorem QueuesSafe.of_modPlate_state {s : State} (h : QueuesSafe s) (l : LaneId) (tag : Tag) (g : Plate → Plate)
    (keep : ∀ p, (g p).tag = p.tag ∧ (g p).lane = p.lane ∧ (g p).attempt = p.attempt ∧ (g p).allowance = p.allowance)
    (st : ∀ p, (g p).state = p.state) : QueuesSafe (modPlate l tag g s) :=
  h.of_modPlate l tag g keep (.inl fun p _ _ hp => st p ▸ hp) (.inl fun p _ _ hp => st p ▸ hp)

/-- A change of a front plate's state to another state of a front plate. -/
theorem QueuesSafe.of_modPlate_front {s : State} (h : QueuesSafe s) {l : LaneId} {p : Plate}
    (hp : (s.lane l).front = some p) (g : Plate → Plate)
    (keep : ∀ p, (g p).tag = p.tag ∧ (g p).lane = p.lane ∧ (g p).attempt = p.attempt ∧ (g p).allowance = p.allowance)
    (st : ∀ p, (g p).state ≠ .loading) : QueuesSafe (modPlate l p.tag g s) := by
  obtain ⟨hm, hd⟩ := Lane.front_mem hp
  exact h.of_modPlate l p.tag g keep (.inl fun x hx ht _ => (h.ok l).eq_of_tag hx hm ht ▸ hd)
    (.inl fun x _ _ hx => absurd hx (st x))

/-! ## Reports, pages, messages -/

theorem QueuesSafe.of_submit {s : State} (h : QueuesSafe s) (r : Report) : QueuesSafe (submit r s) :=
  h.of_lanes (by simp)

theorem QueuesSafe.of_modPage {s : State} (h : QueuesSafe s) (f : Nat) (g : Page → Page) :
    QueuesSafe (modPage f g s) := h.of_lanes (by simp)

theorem QueuesSafe.of_releaseLock {s : State} (h : QueuesSafe s) (k : Key) : QueuesSafe (releaseLock k s) := by
  unfold releaseLock
  split
  · exact h.of_modPage _ _
  · exact h

theorem QueuesSafe.of_sendMsg {s : State} (h : QueuesSafe s) (l : LaneId) (m : SetterMsg) :
    QueuesSafe (sendMsg l m s) := h.of_modLane_queue l _ rfl

theorem QueuesSafe.of_lateTest {s : State} (h : QueuesSafe s) (l : LaneId) (tag : Tag) :
    QueuesSafe (lateTest l tag s) := by
  unfold lateTest
  split
  · split
    · exact (h.of_submit _).of_modPlate_state _ _ _ (fun _ => ⟨rfl, rfl, rfl, rfl⟩) fun _ => rfl
    · exact h
  · exact h

/-! ## The choice of plate -/

theorem QueuesSafe.of_setHeld {s : State} (h : QueuesSafe s) (l : LaneId) (tag : Tag) (r : Option HeldReason) :
    QueuesSafe (setHeld l tag r s) := by
  unfold setHeld
  split
  · exact h.of_modPlate_state _ _ _ (fun _ => ⟨rfl, rfl, rfl, rfl⟩) fun _ => rfl
  · exact h

/-- Held reasons do not make a back plate. -/
theorem setHeld_back {s : State} {l : LaneId} (h : (s.lane l).back = none) (tag : Tag) (r : Option HeldReason) :
    ((setHeld l tag r s).lane l).back = none := by
  unfold setHeld
  split
  · rw [Lane.back_eq_none] at h ⊢
    intro p hp
    simp only [modPlate, lane_modLane, List.mem_map] at hp
    obtain ⟨x, hx, rfl⟩ := hp
    by_cases ht : x.tag = tag <;> simpa [ht] using h x hx
  · exact h

theorem QueuesSafe.of_choiceEmpty {s : State} (h : QueuesSafe s) (l : LaneId) : QueuesSafe (choiceEmpty l s) := by
  unfold choiceEmpty
  split
  · exact h.of_modLane_queue l _ rfl
  · split
    · exact h
    · split
      · exact h
      · exact (h.of_submit _).of_modLane_queue l _ rfl

theorem QueuesSafe.of_beginLoading {s : State} (h : QueuesSafe s) {l : LaneId} (hb : (s.lane l).back = none)
    (pl : Plate) (f : Nat) : QueuesSafe (beginLoading l pl f s) := by
  unfold beginLoading
  split
  · refine QueuesSafe.of_modLane_queue ?_ l _ rfl
    refine (h.of_modPage f _).of_modPlate l _ _ (fun _ => ⟨rfl, rfl, rfl, rfl⟩)
      (.inl fun p _ _ hp => absurd hp (by simp [PlateState.onDrum])) (.inr ?_)
    simpa [State.lane] using hb
  · exact h

theorem QueuesSafe.of_chooseFrom {l : LaneId} (ps : List Plate) {s : State} (h : QueuesSafe s)
    (hb : (s.lane l).back = none) : QueuesSafe (chooseFrom l ps s) := by
  induction ps generalizing s with
  | nil => exact h.of_choiceEmpty l
  | cons p ps ih =>
    unfold chooseFrom
    split
    · exact h.of_beginLoading hb _ _
    · exact ih (h.of_setHeld _ _ _) (setHeld_back hb _ _)

theorem QueuesSafe.of_choose {s : State} (h : QueuesSafe s) (l : LaneId) : QueuesSafe (choose l s) := by
  unfold choose
  split
  · exact h.of_chooseFrom _ (by simp_all)
  · exact h

theorem QueuesSafe.of_announce {s : State} (h : QueuesSafe s) : QueuesSafe (announce s) :=
  (((h.of_choose 0).of_choose 1).of_choose 2).of_choose 3

theorem QueuesSafe.of_announceIf {s : State} (h : QueuesSafe s) (b : Bool) : QueuesSafe (announceIf b s) := by
  unfold announceIf
  split
  · exact h.of_announce
  · exact h

/-! ## The Unpacker's choice -/

theorem QueuesSafe.of_takeUp {s : State} (h : QueuesSafe s) (e : LandedEntry) : QueuesSafe (takeUp e s) := by
  unfold takeUp undefer
  split
  · exact QueuesSafe.of_modPage (s := { s with unpacker := .working e.seg .taken, payloadRead := Reading.start })
      (h.of_lanes rfl) _ _
  · exact h.of_lanes rfl

theorem QueuesSafe.of_claimNow {s : State} (h : QueuesSafe s) : QueuesSafe (claimNow s) := by
  unfold claimNow
  split
  · split
    · exact h.of_lanes rfl
    · exact h
    · exact h
  · exact h

theorem QueuesSafe.of_lanesThenWork {s : State} (h : QueuesSafe s) (b : Bool) : QueuesSafe (lanesThenWork b s) := by
  unfold lanesThenWork
  simp only
  split
  · exact h.of_announceIf b
  · exact ((h.of_announceIf b).of_takeUp _).of_announceIf _

theorem QueuesSafe.of_takeWork {s : State} (h : QueuesSafe s) (b : Bool) : QueuesSafe (takeWork b s) := by
  have hf : QueuesSafe (useFree s) := h.of_lanes rfl
  unfold takeWork
  split
  · exact h.of_announceIf b
  · split
    · split
      · exact ((hf.of_takeUp _).of_claimNow).of_announce
      · exact hf.of_lanesThenWork b
    · exact h.of_lanesThenWork b

theorem QueuesSafe.of_settleLocks {s : State} (h : QueuesSafe s) (a b : State) : QueuesSafe (settleLocks a b s) := by
  unfold settleLocks
  simp only
  split
  · exact (h.of_announceIf _).of_takeWork _
  · exact h.of_announceIf _

/-! ## START, spoils, and leaving the lane -/

theorem startReady_front {s : State} {l : LaneId} {x : Plate × Latched} (h : startReady s l = some x) :
    (s.lane l).front = none := by
  unfold startReady at h
  split at h
  · split at h
    · rename_i hc; exact hc.2.1
    · cases h
  · cases h

theorem QueuesSafe.of_sendStart {s : State} (h : QueuesSafe s) {l : LaneId} (hf : (s.lane l).front = none) (p : Plate)
    (c : Latched) : QueuesSafe (sendStart l p c s) := by
  refine QueuesSafe.of_modLane_queue ?_ l _ rfl
  refine (h.of_sendMsg l _).of_modPlate l _ _ (fun _ => ⟨rfl, rfl, rfl, rfl⟩) (.inr ?_)
    (.inl fun p _ _ hp => absurd hp (by simp))
  rw [Lane.front_eq_none] at hf ⊢
  simpa [sendMsg] using hf

theorem QueuesSafe.of_tryStart {s : State} (h : QueuesSafe s) (l : LaneId) : QueuesSafe (tryStart l s) := by
  unfold tryStart
  split
  · rename_i p c hs
    exact (h.of_sendStart (startReady_front hs) p c).of_choose l
  · exact h

theorem QueuesSafe.of_startThenChoose {s : State} (h : QueuesSafe s) (l : LaneId) :
    QueuesSafe (startThenChoose l s) := by
  unfold startThenChoose
  split
  · rename_i p c hs
    exact (h.of_sendStart (startReady_front hs) p c).of_choose l
  · exact h.of_choose l

theorem QueuesSafe.of_dropFront {s : State} (h : QueuesSafe s) (l : LaneId) : QueuesSafe (dropFront l s) :=
  h.of_modLane_queue l _ rfl

theorem QueuesSafe.of_dropBack {s : State} (h : QueuesSafe s) (l : LaneId) : QueuesSafe (dropBack l s) :=
  h.of_modLane_queue l _ rfl

theorem QueueOk.sublist {l : LaneId} {q r : List Plate} (h : QueueOk l q) (hr : r.Sublist q) : QueueOk l r where
  size := le_trans hr.length_le h.size
  own := fun p hp => h.own p (hr.subset hp)
  attempts := fun p hp => h.attempts p (hr.subset hp)
  oneFront := le_trans (hr.filter _).length_le h.oneFront
  oneBack := le_trans (hr.filter _).length_le h.oneBack
  tags := (hr.map _).nodup h.tags

theorem QueuesSafe.of_removePlate {s : State} (h : QueuesSafe s) (l : LaneId) (tag : Tag) :
    QueuesSafe (removePlate l tag s) :=
  h.of_modLane l _ ((h.ok l).sublist List.filter_sublist) fun p hp =>
    .inl (List.mem_map.2 ⟨p, (List.filter_sublist.subset hp), rfl⟩)

theorem QueuesSafe.of_endPlate {s : State} (h : QueuesSafe s) (p : Plate) (e : PlateEnd) :
    QueuesSafe (endPlate p e s) := by
  unfold endPlate
  simp only
  split
  · exact ((h.of_submit _).of_releaseLock _).of_removePlate _ _
  · exact (h.of_submit _).of_removePlate _ _

/-- A plate of a queue returned to its front with an attempt within its allowance. -/
theorem QueueOk.returned {l : LaneId} {q : List Plate} (h : QueueOk l q) {p x : Plate} (hp : p ∈ q)
    (ht : x.tag = p.tag) (hl : x.lane = p.lane) (hst : x.state = .queued) (ha : 1 ≤ x.attempt)
    (hb : x.attempt ≤ x.allowance) (hc : x.allowance = p.allowance) :
    QueueOk l (x :: q.filter fun y => y.tag != p.tag) := by
  have hr := h.sublist (List.filter_sublist (p := fun y : Plate => y.tag != p.tag) (l := q))
  have hlen : (q.filter fun y => y.tag != p.tag).length < q.length :=
    List.length_filter_lt_length_iff_exists.2 ⟨p, hp, by simp⟩
  refine ⟨by have := h.size; simp only [List.length_cons]; omega, fun y hy => ?_, fun y hy => ?_, ?_, ?_, ?_⟩
  · rcases List.mem_cons.1 hy with rfl | hy
    · rw [hl]; exact h.own p hp
    · exact hr.own y hy
  · rcases List.mem_cons.1 hy with rfl | hy
    · exact ⟨ha, hb, hc ▸ (h.attempts p hp).2.2⟩
    · exact hr.attempts y hy
  · rw [List.filter_cons_of_neg (by simp [hst, PlateState.onDrum])]; exact hr.oneFront
  · rw [List.filter_cons_of_neg (by simp [hst])]; exact hr.oneBack
  · rw [List.map_cons, List.nodup_cons]
    refine ⟨fun hm => ?_, hr.tags⟩
    obtain ⟨y, hy, hyt⟩ := List.mem_map.1 hm
    have := (List.mem_filter.1 hy).2
    simp [hyt, ht] at this

theorem QueuesSafe.of_returnPlate {s : State} (h : QueuesSafe s) {p : Plate} (hp : p ∈ (s.lane p.lane).queue)
    {attempt : Nat} (ha : 1 ≤ attempt) (hb : attempt ≤ p.allowance) : QueuesSafe (returnPlate p attempt s) := by
  have key : ∀ t : State, QueuesSafe t → t.lanes = s.lanes → QueuesSafe
      (modLane p.lane (fun L => { L with
        queue := { p with state := .queued, attempt := attempt, spoil := none, returned := true }
          :: L.queue.filter fun x => x.tag != p.tag }) t) := by
    intro t ht hl
    have hp' : p ∈ (t.lane p.lane).queue := by simpa only [State.lane, hl] using hp
    refine ht.of_modLane p.lane _ ((ht.ok p.lane).returned hp' rfl rfl rfl ha hb rfl) fun x hx => .inl ?_
    rcases List.mem_cons.1 hx with rfl | hx
    · exact List.mem_map.2 ⟨p, hp', rfl⟩
    · exact List.mem_map.2 ⟨x, List.filter_sublist.subset hx, rfl⟩
  unfold returnPlate
  refine QueuesSafe.of_lateTest ?_ _ _
  split
  · exact key _ (h.of_releaseLock _) (by unfold releaseLock; split <;> simp)
  · exact key _ h rfl

theorem QueuesSafe.of_giveBack {s : State} (h : QueuesSafe s) (l : LaneId) : QueuesSafe (giveBack l s) := by
  unfold giveBack
  split
  · rename_i p hb
    obtain ⟨hm, -⟩ := Lane.back_mem hb
    obtain rfl := (h.ok l).own p hm
    exact (h.of_dropBack _).of_returnPlate (by simpa [dropBack] using hm) ((h.ok _).attempts p hm).1
      ((h.ok _).attempts p hm).2.1
  · exact h

theorem QueuesSafe.of_spoil {s : State} (h : QueuesSafe s) (p : Plate) (c : SpoilCause) :
    QueuesSafe (spoil p c s) := by
  unfold spoil
  refine QueuesSafe.of_modLane_queue ?_ _ _ rfl
  exact (h.of_submit _).of_modPlate_state _ _ _ (fun _ => ⟨rfl, rfl, rfl, rfl⟩) fun _ => rfl

/-- CANCEL for a plate whose tag names the lane's front plate. -/
theorem QueuesSafe.of_cancelFront {s : State} (h : QueuesSafe s) {p q : Plate}
    (hq : (s.lane p.lane).front = some q) (ht : q.tag = p.tag) : QueuesSafe (cancelFront p s) := by
  unfold cancelFront
  refine QueuesSafe.of_dropFront ?_ _
  rw [← ht]
  refine (h.of_sendMsg _ _).of_modPlate_front (p := q) ?_ _ (fun _ => ⟨rfl, rfl, rfl, rfl⟩) fun _ => by simp
  simpa [sendMsg, Lane.front] using hq

theorem QueuesSafe.of_resolveFront {s : State} (h : QueuesSafe s) (l : LaneId) : QueuesSafe (resolveFront l s) := by
  unfold resolveFront
  split
  · exact h
  · rename_i p hp
    obtain ⟨hm, -⟩ := Lane.front_mem hp
    have hd := h.of_dropFront l
    simp only
    split
    · exact (hd.of_endPlate _ _).of_submit _
    · split
      · rename_i hlt
        obtain rfl := (h.ok l).own p hm
        exact hd.of_returnPlate (by simpa [dropFront] using hm) (by omega) hlt
      · exact hd.of_endPlate _ _

theorem QueuesSafe.of_leaveFront {s : State} (h : QueuesSafe s) (l : LaneId) (a : State) :
    QueuesSafe (leaveFront l a s) := by
  unfold leaveFront
  split
  · exact h.of_startThenChoose l
  · exact h.of_tryStart l

/-! ## A plate accepted -/

/-- Where a plate is placed, the queue holds what it held and the plate (R118). -/
theorem placePlate_perm (p : Plate) (q : List Plate) : (placePlate p q).Perm (p :: q) := by
  unfold placePlate
  split
  · exact List.perm_middle.trans (by rw [List.take_append_drop])
  · exact List.perm_append_singleton p q

theorem QueueOk.perm {l : LaneId} {q r : List Plate} (h : QueueOk l q) (hr : r.Perm q) : QueueOk l r where
  size := hr.length_eq ▸ h.size
  own := fun p hp => h.own p (hr.subset hp)
  attempts := fun p hp => h.attempts p (hr.subset hp)
  oneFront := (hr.filter _).length_eq ▸ h.oneFront
  oneBack := (hr.filter _).length_eq ▸ h.oneBack
  tags := (hr.map _).nodup_iff.2 h.tags

/-- A new QUEUED plate of the lane, with a tag no live plate has, joins a queue that has room. -/
theorem QueuesSafe.of_placePlate {s : State} (h : QueuesSafe s) (p : Plate) (hs : p.state = .queued)
    (ha : 1 ≤ p.attempt ∧ p.attempt ≤ p.allowance ∧ p.allowance ≤ 3) (ht : p.tag ∉ liveTags s)
    (hr : (s.lane p.lane).queue.length < 16) :
    QueuesSafe (modLane p.lane (fun L => { L with queue := placePlate p L.queue }) s) := by
  have hq := h.ok p.lane
  refine h.of_modLane p.lane _ (QueueOk.perm ?_ (placePlate_perm p _)) fun x hx => ?_
  · refine ⟨by simp only [List.length_cons]; omega, ?_, ?_, ?_, ?_, ?_⟩
    · simpa using hq.own
    · simpa using ⟨ha, hq.attempts⟩
    · rw [List.filter_cons_of_neg (by simp [hs, PlateState.onDrum])]; exact hq.oneFront
    · rw [List.filter_cons_of_neg (by simp [hs])]; exact hq.oneBack
    · rw [List.map_cons, List.nodup_cons]
      refine ⟨fun hm => ht (List.mem_flatMap.2 ⟨p.lane, ?_, hm⟩), hq.tags⟩
      match p.lane with
      | 0 | 1 | 2 | 3 => decide
  · rcases List.mem_cons.1 ((placePlate_perm p _).subset hx) with rfl | hx
    · exact .inr ht
    · exact .inl (List.mem_map.2 ⟨x, hx, rfl⟩)

end Sys2Proof.Machine
end

