-- ==== Sys2Proof/Laws/Reads.lean ====
section
/-! SUPPORT. What reading in accesses can do (R99, R155, R156): how long an access is, how many there are at the fewest, and
that a grant changes nothing of what a reading meets. -/

namespace Sys2Proof.Machine

/-! ## Accesses -/

/-- An access is of at most 8 words (R156). -/
theorem accessLength_le (as : List Nat) : accessLength as ≤ 8 ∧ accessLength as ≤ as.length := by
  have h : accessLength as ≤ min 8 as.length := by
    unfold accessLength
    exact (List.takeWhile_prefix _).length_le.trans (by simp)
  omega

/-- Where there are words there is an access. -/
theorem accessLength_pos {as : List Nat} (h : as ≠ []) : 0 < accessLength as := by
  obtain ⟨a, as, rfl⟩ := List.exists_cons_of_ne_nil h
  unfold accessLength
  rw [show min 8 (a :: as).length = min 7 as.length + 1 by simp; omega, List.range_succ_eq_map]
  simp

theorem accessesAfter_bound : ∀ (last n : Nat) (as : List Nat), n ≤ 8 →
    as.length + n ≤ 8 * accessesAfter last n as + 8
  | _, _, [], _ => by simp [accessesAfter]; omega
  | last, n, a :: as, hn => by
    unfold accessesAfter
    split
    · next h => have := accessesAfter_bound a (n + 1) as (by omega); simp; omega
    · have := accessesAfter_bound a 1 as (by omega); simp; omega

/-- Accesses of at most 8 words each read the words (R156): a row of tw spans takes many. -/
theorem length_le_accesses (as : List Nat) : as.length ≤ 8 * accesses as := by
  cases as with
  | nil => simp [accesses]
  | cons a as => have := accessesAfter_bound a 1 as (by omega); simp [accesses]; omega

/-- No access is needed where no word is to be read, and only there. -/
theorem accesses_eq_zero {as : List Nat} : accesses as = 0 ↔ as = [] := by
  cases as <;> simp [accesses]

/-! ## A reading -/

/-- A request is one access of 1 to 8 words where there are words to read (R156). -/
theorem ask_asked {addrs : List Nat} {r : Reading} (n : Nat) (h : r.words < addrs.length) :
    0 < (r.ask addrs n).asked ∧ (r.ask addrs n).asked ≤ 8 ∧ r.words + (r.ask addrs n).asked ≤ addrs.length := by
  have hp : 0 < accessLength (addrs.drop r.words) := accessLength_pos (by simp; omega)
  have hl := accessLength_le (addrs.drop r.words)
  simp only [List.length_drop] at hl
  simp only [Reading.ask]
  omega

/-- A grant reads the words asked for and leaves none asked for. -/
@[simp] theorem granted_words (addrs : List Nat) (s : State) (r : Reading) :
    (r.granted addrs s).words = r.words + r.asked := rfl
@[simp] theorem granted_asked (addrs : List Nat) (s : State) (r : Reading) : (r.granted addrs s).asked = 0 := rfl
@[simp] theorem ask_words (addrs : List Nat) (n : Nat) (r : Reading) : (r.ask addrs n).words = r.words := rfl
@[simp] theorem ask_failed (addrs : List Nat) (n : Nat) (r : Reading) : (r.ask addrs n).failed = r.failed := rfl
@[simp] theorem finish_words (addrs : List Nat) (s : State) (r : Reading) : (r.finish addrs s).words = addrs.length := rfl
@[simp] theorem finish_asked (addrs : List Nat) (s : State) (r : Reading) : (r.finish addrs s).asked = 0 := rfl

/-- Where no request waits a grant reads nothing. -/
theorem granted_of_none {addrs : List Nat} {s : State} {r : Reading} (h : r.asked = 0) : r.granted addrs s = r := by
  obtain ⟨w, f, a⟩ := r
  obtain rfl : a = 0 := h
  simp [Reading.granted]

/-- A grant changes nothing of the error a reading meets, as long as memory's errors stay (R155). -/
theorem granted_error (addrs : List Nat) (s : State) (r : Reading) : (r.granted addrs s).error addrs s = r.error addrs s := by
  unfold Reading.error Reading.granted
  cases r.failed with
  | some k => simp
  | none =>
    have e : addrs.drop r.words = (addrs.drop r.words).take r.asked ++ addrs.drop (r.words + r.asked) := by
      rw [← List.drop_drop, List.take_append_drop]
    by_cases hl : r.asked ≤ (addrs.drop r.words).length
    · conv_rhs => rw [e]
      rw [List.findIdx?_append]
      cases ((addrs.drop r.words).take r.asked).findIdx? s.bad with
      | some k => simp
      | none => simp [Nat.min_eq_left (by simpa using hl), Function.comp_def, Nat.add_comm, Nat.add_left_comm]
    · have h1 : (addrs.drop r.words).take r.asked = addrs.drop r.words := List.take_of_length_le (by omega)
      have h2 : addrs.drop (r.words + r.asked) = [] := List.drop_eq_nil_of_le (by simp at hl; omega)
      simp [h1, h2]

/-- A reading brought to its end keeps the error it meets (R155). -/
theorem finish_error (addrs : List Nat) (s t : State) (r : Reading) :
    (r.finish addrs s).error addrs t = r.error addrs s := by
  simp [Reading.error, Reading.finish]

/-- A segment's CRC check is the same once the rest of its payload is read (R44). -/
theorem segmentError_payloadDone (g : Segment) (s : State) : segmentError (payloadDone g s) g = segmentError s g :=
  finish_error _ s _ _

/-- A segment's reading at its end takes no more requests (R156). -/
theorem payloadDone_requestsLeft (g : Segment) (s : State) :
    (payloadDone g s).payloadRead.requestsLeft (segmentWords g) = 0 := by
  simp [payloadDone, Reading.requestsLeft, Reading.finish, accesses]

/-! ## Rows -/

/-- A row of which nothing is asked for is as a grant leaves it. -/
theorem rowGranted_of_none {s : State} {c : Latched} (h : c.row = []) : rowGranted s c = c := by
  unfold rowGranted
  split
  · simp [h]; rw [← h]
  · rfl

end Sys2Proof.Machine
end

