-- ==== Sys2Proof/Laws/Remakes.lean ====
section
/-! SUPPORT. What beginning a remake can do (R60, R65): which slot it takes, and what it leaves when its reads wait. -/

namespace Sys2Proof.Machine

/-- What a sorted list holds once a number is put into it. -/
theorem mem_insertSorted {x y : Nat} {ns : List Nat} : y ∈ insertSorted x ns ↔ y = x ∨ y ∈ ns := by
  induction ns with
  | nil => simp [insertSorted]
  | cons n ns ih =>
    unfold insertSorted
    split
    · simp
    · split
      · next h => simp [h]
      · simp [ih, or_left_comm]

/-- The slot the pool gives out is the first free one from a number on, going round the pool (R65). -/
theorem firstFree_eq_some {used : List Nat} : ∀ {n i m : Nat}, firstFree used n i = some m →
    ∃ k, k < n ∧ m = (i + k) % poolSlots ∧ m ∉ used ∧ ∀ j, j < k → (i + j) % poolSlots ∈ used
  | 0, _, _, h => by simp [firstFree] at h
  | n + 1, i, m, h => by
    unfold firstFree at h
    split at h
    · next hu =>
      obtain ⟨k, hk, e, hm, all⟩ := firstFree_eq_some h
      refine ⟨k + 1, by omega, by rw [e]; congr 1; omega, hm, fun j hj => ?_⟩
      cases j with
      | zero => simpa using hu
      | succ j => rw [show i + (j + 1) = i + 1 + j by omega]; exact all j (by omega)
    · next hu =>
      obtain rfl := Option.some.inj h
      exact ⟨0, by omega, rfl, by simpa using hu, fun j hj => absurd hj (Nat.not_lt_zero j)⟩

/-- A remake may take a slot only with an entry of its tile or a place for one, and then the pool's next (R60). -/
theorem remakeSlot_eq_some {s : State} {f tx ty n : Nat} (h : remakeSlot s f tx ty = some n) :
    ((findPatch s.patches f tx ty).isSome ∨ s.patches.length < 4000) ∧ s.nextSlot = some n := by
  unfold remakeSlot at h
  split at h
  · next hp => exact ⟨hp, h⟩
  · cases h

/-- A remake that begins while its requests wait has its slot, and is no longer stalled (R60). -/
theorem beginRemake_waiting {s : State} {g : Segment} (h : segmentGranted s g (remakeWrites g s) = false) (f n : Nat) :
    beginRemake g f n s = { takeSlot n s with unpacker := .working g (.decoding n) } :=
  whenRead_waiting (s := { takeSlot n s with unpacker := .working g (.decoding n) }) h _

/-- A remake that begins with its requests granted is decoded into the slot it takes (R60, R61). -/
theorem beginRemake_granted {s : State} {g : Segment} (h : segmentGranted s g (remakeWrites g s) = true) (f n : Nat) :
    beginRemake g f n s =
      decodeRemake g f n (payloadDone g { takeSlot n s with unpacker := .working g (.decoding n) }) :=
  whenRead_granted (s := { takeSlot n s with unpacker := .working g (.decoding n) }) h _

end Sys2Proof.Machine
end

