-- ==== Sys2Proof/Laws/Resets.lean ====
section
/-! SUPPORT. What the writes abandoned at a warm reset can do to memory (R156). -/

namespace Sys2Proof.Machine

/-- A word copied reads as where it is copied from, and the other words as before. -/
theorem memRead_copyWord (made : State) (w x : Nat) {s : State} (h : Memory.wf s.mem = true) :
    memRead (copyWord made w s).mem x = if x / 8 = w then memRead made.mem x else memRead s.mem x := by
  simp only [copyWord, writeWords]
  rw [memRead_memWriteBytes _ _ _ h]
  have hl : (memReadBytes made.mem (8 * w) 8).length = 8 := by simp [memReadBytes]
  by_cases hx : x / 8 = w
  · rw [hl, if_pos (by omega), if_pos hx]
    have : x - 8 * w < 8 := by omega
    simp [memReadBytes, List.getD_eq_getElem?_getD, this, show 8 * w + (x - 8 * w) = x by omega]
  · rw [hl, if_neg (by omega), if_neg hx]

/-- Words copied, those of them that a choice `reached` names: memory keeps its form, a byte reads as before or as where
it is copied from, and as before outside the words. -/
theorem copyWords_bytes (made : State) (reached : Nat → Bool) (ws : List Nat) : ∀ {s : State},
    Memory.wf s.mem = true →
    let t := ws.foldl (fun t w => if reached w then copyWord made w t else t) s
    Memory.wf t.mem = true ∧
      ∀ x, memRead t.mem x = memRead s.mem x ∨ x / 8 ∈ ws ∧ memRead t.mem x = memRead made.mem x := by
  induction ws with
  | nil => exact fun h => ⟨h, fun _ => .inl rfl⟩
  | cons w ws ih =>
    intro s h
    simp only [List.foldl_cons]
    by_cases hr : reached w = true
    · simp only [hr, if_true]
      obtain ⟨hw, hb⟩ := ih (s := copyWord made w s) (wf_memWriteBytes _ _ h)
      refine ⟨hw, fun x => ?_⟩
      rcases hb x with e | ⟨hm, e⟩
      · rw [memRead_copyWord made w x h] at e
        by_cases hx : x / 8 = w
        · exact .inr ⟨by simp [hx], by rw [e, if_pos hx]⟩
        · exact .inl (by rw [e, if_neg hx])
      · exact .inr ⟨List.mem_cons_of_mem _ hm, e⟩
    · simp only [hr, Bool.false_eq_true, if_false]
      obtain ⟨hw, hb⟩ := ih h
      exact ⟨hw, fun x => (hb x).imp id fun ⟨hm, e⟩ => ⟨List.mem_cons_of_mem _ hm, e⟩⟩

/-- The writes abandoned at a reset: memory keeps its form, and a byte reads as before, or, in a word that they change,
as those writes would have left it. -/
theorem abandonWrites_bytes {s : State} (h : Memory.wf s.mem = true) :
    Memory.wf (abandonWrites s).mem = true ∧
      ∀ x, memRead (abandonWrites s).mem x = memRead s.mem x ∨
        wordDiffers s (writesMade s) (x / 8) = true ∧
          memRead (abandonWrites s).mem x = memRead (writesMade s).mem x := by
  obtain ⟨hw, hb⟩ := copyWords_bytes (writesMade s) (Config.wordReached s.free)
    (wordsWritten s (writesMade s)) (s := useFree s) h
  exact ⟨hw, fun x => (hb x).imp id fun ⟨hm, e⟩ => ⟨(List.mem_filter.1 hm).2, e⟩⟩

end Sys2Proof.Machine
end

