-- ==== Sys2Proof/WellFormed.lean ====
section
/-! DEFINITION. Which commands are well formed: a host request addresses a beat on an 8-byte boundary (R149).
Every other operand's range is its type's. -/

namespace Sys2Proof

/-- A byte address or offset that lies on an 8-byte boundary (R149). -/
def beatAligned {w : Nat} (a : BitVec w) : Bool := a.toNat % 8 == 0

/-- The address of a host request. -/
def Access.addr : Access → Addr
  | .read a => a
  | .write a _ _ => a

/-- A command is well formed when every host address or offset it carries lies on an 8-byte boundary. -/
def WellFormed : Instr → Bool
  | .inflowChuteWrite off _ _ => beatAligned off
  | .orderChuteWrite off _ _ => beatAligned off
  | .proofRead off => beatAligned off
  | .passingAccess r => beatAligned r.addr
  | .chuteRead _ off => beatAligned off
  | .unmappedAccess r => beatAligned r.addr
  | .droppedWrite a _ _ => beatAligned a
  | .admission | .ringWriteDone | .inflowHoldTimeout | .filler | .unknownKind => true
  | .pageOpen _ | .framesStallEnd | .strip _ | .photoHead _ | .photoPart _ | .pageClose _ => true
  | .remakeTile _ | .patchesStallEnd | .deferralStallEnd => true
  | .orderRecordQueued | .orderHoldTimeout | .queuePlate | .withdrawPlate | .purgePage => true
  | .purgeComplete | .openLocalPage | .closeLocalPage | .setProof | .runLane | .stopLane => true
  | .reloadProfile | .unknownOrder | .profileLoadJudged | .profileCommitWrite _ _ => true
  | .plateLate _ | .laneRowComposed _ | .ready _ | .pull _ _ | .exposed _ _ | .ejected _ _ => true
  | .setterFault _ _ | .setterIdle _ | .linkLoss _ | .laneIdleSend _ => true
  | .consumedCountWrite _ _ | .overflowWordWrite _ _ | .reportWrite => true
  | .powerOnReset | .warmReset => true

end Sys2Proof
end

