-- ==== Sys2Proof/Tests/Slice0.lean ====
section
/-! SUPPORT. Tests: ill-formed commands refused, worked values of the manual, and for every statement with hypotheses a
witness that meets them. Expected values are the manual's, or worked by hand from its rules. -/

namespace Sys2Proof.Tests

set_option Elab.async false

open Sys2Proof Sys2Proof.Machine

/-! ## Small states -/

/-- The state a command leaves; every command leaves one. -/
def after (o : Host.Outcome State Fault Refusal) : State :=
  match o with
  | .next s => s
  | .fault _ => State.reset
  | .refused _ => State.reset

/-- A screen slot with cell vector (1, 0), flat knots and flat thresholds. -/
def slotA : ScreenSlot := ⟨1, 0, List.replicate 17 0x80, List.replicate 256 0x40⟩

/-- Levels with preload 2 and high-water 16. -/
def levelsA : LaneLevels := ⟨.positive, 2, 16⟩

/-- A latched profile of hold limit 20 and generation 7. -/
def profileA : Profile := ⟨20, 7, ⟨levelsA, levelsA, levelsA, levelsA⟩, ⟨slotA, slotA, slotA, slotA⟩, []⟩

/-- The key of the test page. -/
def keyA : Key := ⟨2, 5, 0⟩

/-- The test page: one tile, in a page state. -/
def pageA (st : PageState) : Page := newPage keyA st false 1 1 0 .good 5

/-- An ACTIVE part at clock 5000 with the test page in frame 0 and frame 1 FREE. -/
def live (p : Page) : State :=
  { State.reset with engine := .active, profile := some profileA, clock := 5000, pages := [some p, none] }

/-- An ACTIVE part whose test page is CLOSED. -/
def liveA : State := live (pageA .closed)

/-- A plate of lane 0 for the test page. -/
def plateA (tag : Tag) (st : PlateState) : Plate :=
  ⟨tag, keyA, 0, 2, 1, false, false, 50000, false, false, st, none, none, false, none, none⟩

/-- The composition context of the test page on lane 0. -/
def contextA : Context :=
  { key := keyA, frame := 0, tw := 1, th := 1, version := 1, generation := 7, slot := slotA, marks := []
    polarity := .positive, attempt := 1 }

/-- A state with lane 0 changed. -/
def lane0 (g : Lane → Lane) (s : State) : State := modLane 0 g s

/-- A running part whose lane 0 has a front plate 7, a back plate 8 and a QUEUED plate 9. -/
def busy (st : PlateState) : State :=
  lane0 (fun L => { L with
      mode := .run, lastMessage := some 4990, lastSent := 4950
      queue := [plateA 7 st, plateA 8 .loading, plateA 9 .queued]
      frontCtx := some ⟨contextA, 4, []⟩, backCtx := some ⟨contextA, 0, []⟩
      buffer := [⟨.front, List.replicate 32 0xFF⟩] }) (live { pageA .closed with lockCount := 2 })

/-- A part with an order of a kind for the test page in hand. -/
def withOrder (kind : Byte) (lane : Byte) (s : State) : State :=
  { s with inHand := some ⟨kind, false, false, 9, keyA, lane, 2, 1, 1, 50000⟩ }

/-- A segment of a kind for the test page, at the ring's head. -/
def segA (kind : Byte) (locator arg length : Nat) : Segment := ⟨0, ⟨kind, keyA, length, locator, arg⟩, 900⟩

/-- A Lander with a segment in BODY of payload length 5, 28 bytes in all. -/
def bodyA (start : Option Nat) (landed : Nat) (r : Option RingRequest) : Body :=
  ⟨[0xD2, 0x5A, 7, 0, 2, 5, 5, 0, 0, 0, 0, 0, 0x3F, 0x01, 0, 0], ⟨7, keyA, 5, 0, 0⟩, 4000, start, landed, r⟩

/-- A part whose Lander waits for the memory port. -/
def landing (s : State) : State := { s with lander := .body (bodyA (some 0) 0 (some ⟨0, [1], 0⟩)) }

/-- A part with requests waiting at the memory port. -/
def beside (rs : List Requester) (s : State) : State := { s with waiting := rs }

/-- A part with a segment landed and taken up by the Unpacker, its payload and trailer in the ring. -/
def taken (kind : Byte) (locator arg : Nat) (payload : List Byte) (s : State) : State :=
  let g := segA kind locator arg payload.length
  { s with
    landed := [⟨g, .landed⟩], ringUsed := g.total, ringTail := g.total
    mem := memWriteBytes s.mem (ringBase + 16) (payload ++ leBytes 4 (crc32 payload).toNat)
    unpacker := .working g .taken }

/-- A part whose Unpacker has had the claim granted, for frame 0, of the segment it had taken up. -/
def claimed (s : State) : State :=
  match s.unpacker with
  | .working g _ => { s with unpackerPage := some 0, unpacker := .working g .claimed }
  | _ => s

/-- A load at its end, of a valid record, or of memory that holds none. -/
def loading (c : LoadCause) (got : List (Option (List Byte))) : State :=
  { withOrder 9 0 State.reset with loader := some ⟨c, got⟩ }

/-- A lane with no front plate and a back plate of a number of buffered rows; its preload is 2. -/
def loaded (m : LaneMode) (rows : Nat) : State :=
  lane0 (fun L => { L with
      mode := m, lastMessage := some 4990, queue := [plateA 8 .loading], backCtx := some ⟨contextA, rows, []⟩
      buffer := List.replicate rows ⟨.back, List.replicate 32 0⟩ }) (live { pageA .closed with lockCount := 1 })

theorem exec_after (c : Instr) (s : State) : exec c s = .next (after (exec c s)) := by cases c <;> rfl

theorem step_after (s : State) : step s = .next (after (step s)) := by
  unfold step
  split
  · rfl
  · exact exec_after _ _

/-- A QueuesSafe from facts that can be decided. -/
theorem queuesSafe_of {s : State}
    (h : ∀ l : LaneId, (s.lane l).queue.length ≤ 16 ∧ (∀ p ∈ (s.lane l).queue, p.lane = l) ∧
      (∀ p ∈ (s.lane l).queue, 1 ≤ p.attempt ∧ p.attempt ≤ p.allowance ∧ p.allowance ≤ 3) ∧
      ((s.lane l).queue.filter fun p => p.state.onDrum).length ≤ 1 ∧
      ((s.lane l).queue.filter fun p => p.state == .loading).length ≤ 1)
    (t : (liveTags s).Nodup) : QueuesSafe s :=
  ⟨fun l => ⟨(h l).1, (h l).2.1, (h l).2.2.1, (h l).2.2.2.1, (h l).2.2.2.2⟩, t⟩

theorem busy_safe (st : PlateState) (h : st.onDrum = true) : QueuesSafe (busy st) := by
  cases st <;> first | exact absurd h (by decide) | exact queuesSafe_of (by decide) (by decide)

theorem liveA_safe : QueuesSafe liveA := queuesSafe_of (by decide) (by decide)

/-! ## Well-formedness -/

theorem test_inflow_write_unaligned_refused : WellFormed (.inflowChuteWrite 0x004 0xFF 0) = false := by decide
theorem test_order_write_unaligned_refused : WellFormed (.orderChuteWrite 0xFFF 0xFF 0) = false := by decide
theorem test_proof_read_unaligned_refused : WellFormed (.proofRead 1) = false := by decide
theorem test_passing_read_unaligned_refused : WellFormed (.passingAccess (.read 0x7)) = false := by decide
theorem test_passing_write_unaligned_refused : WellFormed (.passingAccess (.write 0x2 0xFF 0)) = false := by decide
theorem test_chute_read_unaligned_refused : WellFormed (.chuteRead .order 4) = false := by decide
theorem test_unmapped_read_unaligned_refused : WellFormed (.unmappedAccess (.read 0x404000001)) = false := by decide
theorem test_unmapped_write_unaligned_refused : WellFormed (.unmappedAccess (.write 0x404000004 1 0)) = false := by
  decide
theorem test_dropped_write_unaligned_refused : WellFormed (.droppedWrite 0x100004 0xFF 0) = false := by decide
theorem test_aligned_requests_accepted :
    WellFormed (.inflowChuteWrite 0xFF8 0 0) = true ∧ WellFormed (.unmappedAccess (.read 0x7FFFFFFF8)) = true := by
  decide

/-! ## Worked values of the manual -/

/-- The header sum of section 2.2: a STRIP of page 7, edition 2, cyan, strip 37, 1001 bytes. -/
theorem test_header_sum : headerSum [0xD2, 0x5A, 2, 1, 2, 7, 0xE9, 0x03, 0x25, 0, 0, 0] = 585 := by decide

/-- The CRC of section 2.2: the payload FFh FFh FFh FFh. -/
theorem test_crc_of_four_bytes : crc32 [0xFF, 0xFF, 0xFF, 0xFF] = 0xFFFFFFFF#32 := by decide +kernel

/-- The total length of section 2.2: a payload of 1001 bytes makes 1024. -/
theorem test_total_length : totalOf 1001 = 1024 := by decide

/-- The geometry of section 1.4: pixel (5000, 9000) of a page of 40 tile columns in frame 3. -/
theorem test_pixel_address : frameBase 3 + pixelOffset 40 5000 9000 = 0x1AB16511 := by decide

/-- The rising curve of section 5.3. -/
def risingCurve : List Byte := [0, 12, 25, 39, 54, 69, 84, 99, 114, 129, 144, 159, 174, 190, 207, 226, 255]

theorem test_rising_curve :
    [0, 7, 100, 104, 111, 112, 200, 248, 255].map (toneCurve risingCurve) =
      [0, 5, 88, 92, 98, 99, 182, 241, 253] := by decide

/-- The inverting curve of section 5.3. -/
theorem test_falling_curve :
    [0, 20, 255].map (toneCurve [255, 239, 223, 207, 191, 175, 159, 143, 127, 111, 95, 79, 63, 47, 31, 15, 0]) =
      [255, 235, 1] := by decide

/-- The pixel of section 5.6.1 at the slot (3, 4): u is 8 and v is 6, at each of its three places. -/
theorem test_cell_position :
    [(10, 7), (13, 11), (6, 10)].map (fun (x, y) => (cellU 3 4 x y, cellV 3 4 x y)) = [(8, 6), (8, 6), (8, 6)] := by decide

/-- The strip of section 3.4: its 16 rows, with 50 ink pixels in row 0, 256 in row 4 and 8 in row 5. -/
def stripPayload : List Byte :=
  [0x63, 0x31, 0xFF, 0xC2, 0xFD, 0xFE, 0x01, 0x00, 0xFC, 0x02, 0xAA, 0x55, 0xFF, 0xC9]

theorem test_strip_decode :
    let d := lineDecode 256 16 stripPayload
    d.error = false ∧ d.rows.map (fun r => r.countP id) = [50, 50, 50, 50, 256, 8, 8, 8, 8, 8, 8, 8, 8, 8, 8, 8] := by
  decide +kernel

/-- The same strip with 11 repetitions at its end stops in error after 6 rows. -/
theorem test_strip_decode_error :
    let d := lineDecode 256 16 (stripPayload.dropLast ++ [0xCA])
    d.error = true ∧ d.rows.length = 6 := by decide +kernel

/-- The header of section 2.2, written in two beats, begins a segment that waits for its body: 1024 bytes reserved. -/
theorem test_header_accepted :
    let s := after (exec (.inflowChuteWrite 0 0xFF 0x03E907020102_5AD2) liveA)
    let t := after (exec (.inflowChuteWrite 8 0xFF 0x0000024900000025) s)
    t.ringUsed = 1024 ∧ t.ringTail = 1024 ∧ t.reports = [] := by decide

/-! ## Witnesses: steps and the whole machine -/

/-- A tick with no load in progress, and with one that has read its first word; and beside the Lander's request, where
the loader and a composer of class 4 are granted nothing. -/
theorem witness_StepRunsFrontCommand :
    State.reset.pending = [] ∧ liveA.pending = [] ∧ liveA.loader = none ∧
    (loading .commit [some []]).pending = [] ∧ (loading .commit [some []]).loader = some ⟨.commit, [some []]⟩ ∧
    (landing (loading .reload [some []])).pending = [] ∧
    ((bodyA (some 0) 0 (some ⟨0, [1], 0⟩)).request).isSome ∧
    (beside [] (landing (loading .reload [some []]))).grants .profileLoader = false := by
  decide

/-- A full pending list, 256 unconsumed records and a full order queue. -/
def fullRecords : State :=
  { State.reset with
    reports := List.replicate 64 (linkUpNotice 0), writeCount := 256, attn := true
    orderQueue := List.replicate 32 ⟨6, false, false, 0, keyA, 0, 0, 0, 0, 0⟩, pending := [.reportWrite] }

/-- The pages of a state that holds one, in frame 0. -/
theorem page_of_one {s : State} {p q : Page} {f : Nat} (hs : s.pages = [some p, none]) (h : s.page f = some q) :
    f = 0 ∧ p = q := by
  match f with
  | 0 => exact ⟨rfl, by simpa [State.page, hs] using h⟩
  | 1 => simp [State.page, hs] at h
  | n + 2 => simp [State.page, hs] at h

/-- Two segments of 28 bytes on the list and one in landing, the first ending at the ring's last byte. -/
def wrapped : State :=
  { liveA with
    landed := [⟨⟨33554404, ⟨7, keyA, 5, 0, 0⟩, 900⟩, .landed⟩, ⟨⟨0, ⟨6, keyA, 5, 0, 0⟩, 900⟩, .deferred⟩]
    lander := .body (bodyA (some 28) 24 (some ⟨52, [1, 2, 3, 4], 4⟩)), ringHead := 33554404, ringTail := 56
    ringUsed := 84, pending := [.ringWriteDone] }

theorem wrapped_safe : RingSafe wrapped :=
  ⟨by decide, ⟨rfl, rfl, rfl, rfl⟩, by decide, by decide, by decide⟩

/-- A remake of a tile whose patch is SPOILT, the last slot of the pool its own. -/
def patched : State :=
  { taken 6 0 0 [0xFB, 0xFB, 0xFB, 0xFB, 0xCF] (live { pageA .closed with damaged := 1 }) with
    patches := [⟨0, 0, 0, 4095, true⟩], slotsInUse := [4095], slotPointer := 4095, pending := [.remakeTile .whole] }

theorem patched_safe : TablesSafe patched where
  tiles := by decide
  slots := by decide
  entries := by decide
  closed := by
    intro e he
    obtain rfl := List.mem_singleton.1 he
    exact ⟨_, rfl, rfl⟩
  inUse := by decide
  named := by intro n; simp [patched, taken, live, State.decodingSlot, eq_comm]
  apart := by intro n h; cases h
  inUseBound := by decide
  remake := by intro g f h; cases h
  place := by intro g f n h; cases h
  damage := by
    intro f p h
    obtain ⟨rfl, rfl⟩ := page_of_one rfl h
    decide +kernel

/-- The same remake with its slot taken, the first of the pool, while its reads wait beside a load's (R60). -/
def decoding : State :=
  { patched with
    unpackerPage := some 0, unpacker := .working (segA 6 0 0 5) (.decoding 0), slotsInUse := [0, 4095], slotPointer := 1
    loader := some ⟨.reload, []⟩, waiting := [.profileLoader, .unpacker] }

theorem decoding_safe : TablesSafe decoding where
  tiles := patched_safe.tiles
  slots := patched_safe.slots
  entries := patched_safe.entries
  closed := patched_safe.closed
  inUse := by decide
  named := by intro n; simp [decoding, patched, taken, live, State.decodingSlot, eq_comm, or_comm]
  apart := by
    rintro n h e he
    obtain rfl := List.mem_singleton.1 he
    obtain rfl := Option.some.inj h
    decide
  inUseBound := by decide
  remake := by
    rintro g f h -
    obtain rfl := Option.some.inj h
    exact ⟨_, rfl, rfl⟩
  place := by
    rintro g f n h -
    exact .inr (by decide)
  damage := patched_safe.damage

theorem decoding_waits : WaitingSafe decoding where
  once := by decide
  lander := by decide
  unpacker := fun _ => rfl
  loader := fun _ => ⟨_, rfl, by decide⟩
  payload := by decide
  rows := by
    intro l c h
    have n : ∀ l, (decoding.lane l).frontCtx = none ∧ (decoding.lane l).backCtx = none := by decide
    simp [n l] at h

/-- A lane's front plate about to be EXPOSED, with its back plate LOADING: two locks on one page. -/
def exposing : State := { busy .finishing with pending := [.exposed 0 7] }

theorem exposing_locks : LocksSafe exposing where
  keys := by
    intro f g p q hf hg _
    rw [(page_of_one rfl hf).1, (page_of_one rfl hg).1]
  locks := by
    intro f p h
    obtain ⟨rfl, rfl⟩ := page_of_one rfl h
    decide +kernel
  lockLimit := by
    intro f p h
    obtain ⟨rfl, rfl⟩ := page_of_one rfl h
    decide +kernel
  present := by decide +kernel
  claimed := by intro f p h; cases h
  buffers := by decide +kernel
  levels := by
    intro p h
    obtain rfl : profileA = p := Option.some.inj h
    decide +kernel

theorem witness_StepKeepsRecordsSafe :
    (RecordsSafe fullRecords ∧ step fullRecords = .next (after (step fullRecords))) ∧
    (RingSafe wrapped ∧ step wrapped = .next (after (step wrapped))) ∧
    (TablesSafe patched ∧ step patched = .next (after (step patched))) ∧
    TablesSafe decoding ∧ WaitingSafe decoding ∧ step decoding = .next (after (step decoding)) :=
  ⟨⟨⟨rfl, by decide +kernel, by decide +kernel, by decide +kernel, rfl, by decide +kernel⟩, step_after _⟩,
   ⟨wrapped_safe, step_after _⟩, ⟨patched_safe, step_after _⟩, decoding_safe, decoding_waits, step_after _⟩

theorem witness_StepKeepsQueuesSafe :
    QueuesSafe exposing ∧ LocksSafe exposing ∧ step exposing = .next (after (step exposing)) :=
  ⟨queuesSafe_of (by decide) (by decide), exposing_locks, step_after _⟩

theorem witness_OnlyLoadsAndResetsChangeProfile :
    exec (.ready 0) liveA = .next (after (exec (.ready 0) liveA)) ∧ isReset (.ready 0) = false ∧
    liveA.engine = .active ∧ Instr.ready 0 ≠ .profileLoadJudged ∧ isReset .profileLoadJudged = false :=
  ⟨exec_after _ _, rfl, rfl, by decide, rfl⟩

theorem witness_PartNeverWritesProfileRecord :
    let s := { State.reset with mem := [(0xFFF, 1)], reports := [linkUpNotice 0] }
    Memory.wf s.mem = true ∧ storesHostData .reportWrite = false ∧ Instr.reportWrite ≠ .powerOnReset ∧ 0xFFF < 0x1000 ∧
    exec .reportWrite s = .next (after (exec .reportWrite s)) :=
  ⟨rfl, rfl, by decide, by decide, exec_after _ _⟩

/-! ## Witnesses: host traffic -/

/-- A part that holds an inflow write. -/
def holding : State := { liveA with held := some ⟨.inflow, 0x200000, [1, 2, 3], 4000⟩ }

theorem witness_RequestsThatChangeNothing :
    holding.held.isSome = true ∧ liveA.held = none ∧ (0x403FFFFF8#35).toNat < 0x404000000 := by decide

/-- Each region's first and last beat, in ACTIVE with frame 0's page LOCAL. -/
theorem witness_WriteClassesFollowAddressMap :
    let s := live (pageA .localPage)
    [0x0, 0xFF8, 0x100000, 0x101FF8, 0x102000, 0x102008, 0x102010, 0x200000, 0x200FF8, 0x300000, 0x300FF8].map
        (writeClass s) =
      [.profileRecord, .profileRecord, .drop 1 0, .drop 1 0, .drop 2 0, .consumedCount, .overflowWord,
       .chute .inflow, .chute .inflow, .chute .order, .chute .order] ∧
    [0x1000000, 0x2FFFFF8, 0x4000000, 0x5FFFFF8, 0x8000000, 0xBFFFFF8, 0xC000000, 0xDFFFFF8, 0xE000000, 0x3C7FFFFF8,
        0x400000000, 0x403FFFFF8, 0x404000000].map (writeClass s) =
      [.drop 3 0, .drop 3 0, .drop 4 0, .drop 4 0, .pass, .pass, .drop 5 0, .drop 5 0, .drop 5 1, .drop 5 159,
       .drop 6 0, .drop 6 0, .error] ∧
    [0x1000, 0xFFFF8, 0x102018, 0x1FFFF8, 0x201000, 0x2FFFF8, 0x301000, 0xFFFFF8, 0x3000000, 0x3FFFFF8, 0x6000000,
        0x7FFFFF8, 0x3C8000000, 0x3FFFFFFF8].map (writeClass s) = List.replicate 14 .pass ∧
    0x3C7FFFFF8 = 0x8000000 + 159 * 0x6000000 + 0x5FFFFF8 ∧ (∃ p, s.page 0 = some p ∧ p.state = .localPage) :=
  ⟨by decide +kernel, by decide +kernel, by decide +kernel, by decide, _, rfl, rfl⟩

theorem witness_DroppedWriteIsReported :
    liveA.held = none ∧ (0x80#8 ≠ 0) ∧ writeClass liveA (8 * ((0x100000#35).toNat / 8)) = .drop 1 0 ∧
    writeClass liveA (8 * ((0x8000000#35).toNat / 8)) = .drop 5 0 ∧
    writeClass liveA (8 * ((0x403FFFFF8#35).toNat / 8)) = .drop 6 0 := by decide +kernel

/-- A part with an uncorrectable error in the word at 1000h. -/
def withBad : State := { liveA with badWords := [0x200], mem := [(0x1001, 9)] }

theorem witness_PassingWriteStoresEnabledBytes :
    Memory.wf withBad.mem = true ∧ withBad.held = none ∧ writeClass withBad 0x1000 = .pass ∧
    withBad.badWords.contains (0x1000 / 8) = true ∧ withBad.badWords.contains (0x1008 / 8) = false ∧
    writeClass withBad 0x1008 = .pass ∧ (0x01#8 ≠ BitVec.allOnes 8) := by decide +kernel

theorem witness_ReadsAreAnsweredByRegion :
    withBad.held = none ∧ withBad.engine = .active ∧ (0x3FFFFFFF8#35).toNat < 0x400000000 ∧
    withBad.badWords.contains ((0x1000#35).toNat / 8) = true ∧
    withBad.badWords.contains ((0x3FFFFFFF8#35).toNat / 8) = false ∧
    ¬ (0x200000 ≤ (0x1FFFF8#35).toNat) ∧ State.reset.held = none ∧ State.reset.engine = .passThrough ∧
    0x404000000 ≤ (0x404000000#35).toNat := by decide +kernel

/-- The value 0 is 256 behind a write count of 256, and 257 behind one of 257. -/
theorem witness_CountWordWritesAreWatched :
    let s := { liveA with writeCount := 256 }
    let u := { liveA with writeCount := 257 }
    s.held = none ∧ (0x0F#8 ≠ 0) ∧ s.badWords.contains 0x20401 = false ∧ s.badWords.contains 0x20402 = false ∧
    (0x0F#8 &&& 0x0F#8 = 0x0F#8) ∧ (s.writeCount - (0#64).extractLsb' 0 32).toNat ≤ 256 ∧
    ¬ ((u.writeCount - (0#64).extractLsb' 0 32).toNat ≤ 256) ∧ ¬ (0xF7#8 &&& 0x0F#8 = 0x0F#8) := by decide +kernel

theorem witness_CommitWriteStartsLoad :
    (State.reset.held = none ∧ (0x10#8 &&& 0xF0#8 ≠ 0) ∧ (0x80#8 &&& 0xF0#8 ≠ 0) ∧
      State.reset.badWords.contains 0x1FF = false ∧ State.reset.engine = .passThrough ∧ liveA.engine = .active ∧
      liveA.loader = none ∧ (0x80#8 ≠ BitVec.allOnes 8) ∧
      ({ State.reset with badWords := [0x1FF] } : State).badWords.contains 0x1FF = true) ∧
    (0x0F#8 &&& 0xF0#8 = 0 ∧ (0x0F#8 ≠ 0) ∧ 8 * ((0xFF8#35).toNat / 8) = 0xFF8 ∧ (0xFF8 < 0x1000) ∧
      (loading .reload [none]).held = none ∧ (loading .reload [none]).loader = some ⟨.reload, [none]⟩ ∧
      (loading .reload [none]).badWords.contains 0 = false ∧
      ({ liveA with badWords := [0] } : State).badWords.contains (8 * ((3#35).toNat / 8) / 8) = true) := by
  decide +kernel

/-- A commit write while a load's request waits behind the Unpacker's: the new load reads from byte 0, and the request
keeps its place (notes/assumptions/43.md). -/
theorem test_abandoned_load_keeps_request :
    let t := after (exec (.profileCommitWrite 0xFF 0) (beside [.unpacker, .profileLoader] (loading .warmReset [])))
    t.loader = some ⟨.commit, []⟩ ∧ t.waiting = [.unpacker, .profileLoader] := by decide +kernel

/-- A photo of scale 8 over the test page's one tile, with its first 5 rows landed. -/
def photoA : PhotoRecord := ⟨0, 0, 0, 1, 1, 8, 0, 5, .receiving⟩

/-- The last beat of the one tile, the first beyond it; and, at row 255, the word of the tile's line art in error, the
word of its patch slot, and, at row 4, the first word of its photo's samples. -/
theorem witness_ProofReadShowsComposedPixels :
    let s := { liveA with proof := some (keyA, 0) }
    let art : State := { s with badWords := [0x10003FC] }
    let patch : State := { s with badWords := [0x800BFF], patches := [⟨0, 0, 0, 2, false⟩], slotsInUse := [2] }
    let photo : State :=
      { s with badWords := [0x1800000], pages := [some { pageA .closed with photos := [photoA] }, none] }
    (s.held = none ∧ s.engine = .active ∧ liveA.proof = none ∧ s.proof = some (keyA, 0) ∧
      s.page 0 = some (pageA .closed) ∧ s.profile = some profileA ∧ (pageA .closed).key = keyA ∧
      8 * ((0x1FF8#26).toNat / 8) < 1 * 1 * 8192 ∧ 1 * 1 * 8192 ≤ 8 * ((0x2000#26).toNat / 8)) ∧
    spanError s 0 (pageA .closed) 0 255 (spanSource s 0 (pageA .closed) 0 0) = none ∧
    spanError art 0 (pageA .closed) 0 255 (spanSource art 0 (pageA .closed) 0 0) = some .lineArt ∧
    spanError patch 0 (pageA .closed) 0 255 (spanSource patch 0 (pageA .closed) 0 0) = some (.patchSlot 2) ∧
    spanError photo 0 { pageA .closed with photos := [photoA] } 0 4
      (spanSource photo 0 { pageA .closed with photos := [photoA] } 0 0) = some .tone := by decide +kernel

/-- A NEGATIVE context with a SLUG mark that does not hold the pixel (0, 0); a photo's rows 4 and 5, the last that has
come and the first that has not, and one that is COMPLETE. -/
theorem witness_PlatePixelEqualsProofPixel :
    let c := { contextA with polarity := .negative, attempt := 3, marks := [⟨.slug, 8, 8, 66, 7, 1, 1⟩] }
    (photoA.state = .receiving ∧ photoA.nextRow ≤ (40 - 256 * photoA.ty0) / photoA.scale ∧
      (39 - 256 * photoA.ty0) / photoA.scale < photoA.nextRow ∧
      { photoA with state := .complete }.state = .complete) ∧
    (∀ m ∈ c.marks, m.kind = .slug → m.holds 0 0 = false) ∧ c.polarity = .negative ∧ contextA.polarity = .positive := by
  decide

theorem witness_ToneLiesBetweenItsKnots :
    (255 ≤ 255) ∧ (let K : List Byte := List.replicate 17 255; knot K 15 = 255 ∧ knot K 16 = 255) ∧
    (let K : List Byte := [2, 1]; knot K 1 - knot K 0 = -1 ∧ 15 % 16 = 15 ∧ knot K 3 = knot K 2) := by decide

/-- A page whose strip 15 is BAD. -/
def damagedA : Page := { pageA .closed with strips := (List.replicate 16 .good).set 15 .bad, damaged := 1 }

theorem witness_DamagedTileIsHatched :
    tileDamaged (live damagedA).patches contextA.frame damagedA 0 (255 / 256) = true ∧ contextA.marks = [] ∧
    contextA.polarity = .positive := by decide +kernel

/-! ## Witnesses: reports and resets -/

/-- A part with a number of reports pending. -/
def reporting (n : Nat) (w : Count) (flag : Bool) : State :=
  { liveA with reports := List.replicate n (linkUpNotice 0), writeCount := w, overflowFlag := flag }

theorem witness_SubmissionQueuesOrDropsReport :
    (reporting 63 0 false).reports.length < 64 ∧ 64 ≤ (reporting 64 0 true).reports.length ∧
    (reporting 64 0 true).overflowFlag = true ∧ (reporting 64 0 false).overflowFlag = false := by decide +kernel

/-- A drop in another block's step leaves its write of the overflow word waiting (R156, R173): the word reads 0 until
REPORT_WRITE, which writes it before it handles the head report. -/
theorem test_overflow_write_waits :
    let t := after (exec (.droppedWrite 0x100000 0xFF 0) (reporting 64 0 false))
    let u := after (exec .reportWrite t)
    t.overflowOwed = 1 ∧ memRead t.mem 0x102010 = 0 ∧ u.overflowOwed = 0 ∧ memRead u.mem 0x102010 = 1 ∧
    u.reports.length = 64 := by decide +kernel

theorem witness_ReportIsWrittenOrDropped :
    Memory.wf liveA.mem = true ∧ (reporting 1 255 false).reports = linkUpNotice 0 :: [] ∧
    ((reporting 1 255 false).writeCount - (reporting 1 255 false).consumed).toNat < 256 ∧
    (reporting 1 255 false).grants .reportWriter = true ∧
    (landing (reporting 1 255 false)).grants .reportWriter = false ∧
    (beside [.reportWriter] (reporting 1 255 false)).grants .reportWriter = true ∧
    (∀ q ∈ [Requester.composer 1, .unpacker, .profileLoader, .systemPort],
      (beside [.reportWriter, q] (reporting 1 255 false)).grants .reportWriter = false) ∧
    ((reporting 1 256 false).writeCount - (reporting 1 256 false).consumed).toNat = 256 ∧
    (reporting 1 256 true).overflowFlag = true ∧ (reporting 1 256 false).overflowFlag = false ∧
    (reporting 1 256 false).overflowOwed = 0 ∧ (landing (reporting 1 256 false)).overflowFlag = false ∧
    (landing (reporting 1 256 false)).grants .reportWriter = false ∧
    0 < ({ reporting 1 256 true with overflowOwed := 1 } : State).overflowOwed ∧
    ({ reporting 1 256 true with overflowOwed := 1 } : State).grants .reportWriter = true ∧
    (reporting 0 256 false).reports = [] := by decide +kernel

/-- Memory with a Lander write in flight, and with a report to be written at entry 255, the last before the count
words. -/
theorem witness_ResetsClearOnChipState :
    let q : RingRequest := ⟨0, [1, 2, 3, 4, 5, 6, 7, 8], 0⟩
    let u := reporting 1 255 false
    Memory.wf liveA.mem = true ∧ ({ liveA with lander := .body (bodyA (some 0) 0 (some q)) } : State).lander =
      .body (bodyA (some 0) 0 (some q)) ∧ (bodyA (some 0) 0 (some q)).request = some q ∧ (0x102008 : Nat) ≤ 0x10200F ∧
    ¬ (ringAddr q.offset ≤ 0x10200F ∧ 0x10200F < ringAddr q.offset + q.bytes.length) ∧
    (u.unpacker = .idle ∧ u.reports ≠ [] ∧ (u.writeCount - u.consumed).toNat < 256 ∧
      0x100000 + 32 * (u.writeCount.toNat % 256) = 0x101FE0) := by decide +kernel

/-- The record of a LINK UP of lane 0 with stamp 0 has its bytes other than 0 in its first two words (R159, R175), and
the count word follows (R171): these a reset may find written. -/
theorem test_words_under_way_at_reset :
    (wordsWritten (reporting 1 255 false) (writesMade (reporting 1 255 false))).eraseDups =
      [0x203FC, 0x203FD, 0x20400] := by decide +kernel

/-! ## Witnesses: the inflow chute and the Lander -/

/-- Three bytes wait; a fourth completes the group, with and without the marker; eight make two groups, the second with
and without it. -/
theorem witness_SeekExaminesGroupsOfFour :
    liveA.held = none ∧ liveA.engine = .active ∧ (0x07#8 ≠ 0) ∧ liveA.lander = .seek [] ∧
    (enabledBytes 0x07 0x025AD2).length < 4 ∧ (enabledBytes 0x0F 0x07025AD2).length = 4 ∧
    (enabledBytes 0x0F 0x07025AD2).take 2 = [0xD2, 0x5A] ∧ (enabledBytes 0xF0 0x07025AD2).length = 4 ∧
    (enabledBytes 0xF0 0x07025AD2).take 2 ≠ [0xD2, 0x5A] ∧ (enabledBytes 0xFF 0x07025AD200000000).length = 8 ∧
    ((enabledBytes 0xFF 0x07025AD200000000).drop 4).take 2 = [0xD2, 0x5A] ∧
    ((enabledBytes 0xFF 0x07025AD2).drop 4).take 2 ≠ [0xD2, 0x5A] := by decide

/-- The header of `bodyA` without its last 4 bytes, and a write of them: the header sum is 319. -/
def headerA : State := { liveA with lander := .header ((bodyA none 0 none).raw.take 12), discarded := 4 }

/-- The header of `bodyA`, whole, with 4 bytes after it, with a place and room to the byte and without either; and
headers with a wrong sum: the marker at the second, third, fourth and fifth group or at none; and one whose second
group begins a header that passes. -/
theorem witness_AcceptedHeaderIsAdmitted :
    let g := (bodyA none 0 none).raw.take 12
    let bs := g ++ enabledBytes 0xFF 0x013F
    let passes (hb : List Byte) : Prop := (hb.take 12 |>.map BitVec.toNat).sum % 65536 = fieldAt hb 12 2 ∧
      fieldAt hb 6 2 ≤ 65520 ∧ fieldAt hb 14 2 = 0
    let m : List Byte := [0xD2, 0x5A, 0, 0]
    let z : List Byte := [0, 0, 0, 0]
    (headerA.held = none ∧ headerA.engine = .active ∧ headerA.lander = .header g ∧ g.length < 16 ∧ (0x0F#8 ≠ 0) ∧
      (g ++ enabledBytes 0x07 0x013F).length < 16 ∧ bs.length = 20 ∧ passes (bs.take 16) ∧
      (g ++ enabledBytes 0x0F 0x013F).drop 16 = [] ∧ bs.drop 16 ≠ [] ∧ headerA.landed.length < 1024 ∧
      16 + fieldAt bs 6 2 + 4 + (4 - fieldAt bs 6 2 % 4) % 4 = 28 ∧
      ({ headerA with ringUsed := 33554404 } : State).ringUsed + 28 ≤ 33554432 ∧
      33554432 < ({ headerA with ringUsed := 33554405 } : State).ringUsed + 28 ∧ 0 < headerA.discarded) ∧
    (¬ passes (m ++ m ++ z ++ z) ∧ ¬ passes (m ++ z ++ m ++ z) ∧ ¬ passes (m ++ z ++ z ++ m) ∧
      ¬ passes (m ++ z ++ z ++ z) ∧ (m ++ m ++ z ++ z).length = 16 ∧ (m ++ z ++ z ++ z ++ m).length = 20 ∧
      ((m ++ m ++ z ++ z).drop 4).take 2 = [0xD2, 0x5A] ∧ ((m ++ z ++ m ++ z).drop 4).take 2 ≠ [0xD2, 0x5A] ∧
      ((m ++ z ++ m ++ z).drop 8).take 2 = [0xD2, 0x5A] ∧ ((m ++ z ++ z ++ m).drop 8).take 2 ≠ [0xD2, 0x5A] ∧
      ((m ++ z ++ z ++ m).drop 12).take 2 = [0xD2, 0x5A] ∧ ((m ++ z ++ z ++ z).drop 12).take 2 ≠ [0xD2, 0x5A] ∧
      ((m ++ z ++ z ++ z ++ m).drop 16).take 2 = [0xD2, 0x5A] ∧
      ((m ++ z ++ z ++ z ++ z).drop 16).take 2 ≠ [0xD2, 0x5A]) ∧
    (¬ passes ((m ++ (bodyA none 0 none).raw).take 16) ∧ passes (((m ++ (bodyA none 0 none).raw).drop 4).take 16) ∧
      (m ++ (bodyA none 0 none).raw).length = 20 ∧ ¬ passes (((m ++ m ++ z ++ z ++ z).drop 4).take 16)) := by
  decide +kernel

/-- A body not admitted, with 28 bytes of the ring free, and with 27; one admitted, at the header's first word, at the
word it shares with the payload, and after it. -/
theorem witness_BodyWaitsForAdmission :
    let s := { liveA with lander := .body (bodyA none 0 none), ringUsed := 33554432 - 28 }
    let h : HeldWrite := ⟨.inflow, 0x200000, [1, 2, 3], 4000⟩
    (s.held = none ∧ s.engine = .active ∧ (1#8 ≠ 0) ∧ s.lander = .body (bodyA none 0 none) ∧
      (bodyA none 0 none).start = none ∧ (bodyA none 0 none).landed = 0 ∧ (bodyA none 0 none).request = none ∧
      s.landed.length < 1024 ∧ 16 + 5 + 4 + (4 - 5 % 4) % 4 ≤ 33554432 - s.ringUsed ∧
      (s.ringUsed + 1 : Nat) = 33554432 - 27 ∧ 33554432 - (s.ringUsed + 1) < 16 + 5 + 4 + (4 - 5 % 4) % 4 ∧
      ({ s with held := some h } : State).held = some h ∧ h.chute = .inflow) ∧
    ({ liveA with lander := .body (bodyA (some 4) 12 none) } : State).lander = .body (bodyA (some 4) 12 none) ∧
    (bodyA (some 4) 12 none).start = some 4 ∧ (bodyA (some 4) 12 none).request = none ∧
    (bodyA (some 4) 4 none).landed + (8 - (4 + (bodyA (some 4) 4 none).landed) % 8) ≤ 16 ∧
    (bodyA (some 4) 12 none).landed < 16 ∧ 16 < (bodyA (some 4) 12 none).landed + (8 - (4 + 12) % 8) ∧
    16 ≤ (bodyA (some 4) 20 none).landed ∧ ([1] : List Byte) ≠ [] := by decide +kernel

/-- A part with a body admitted at offset 0, a request for its next bytes and a held write of as many. -/
def ringing (landed n : Nat) (rest : List Byte) : State :=
  { liveA with
    lander := .body (bodyA (some 0) landed (some ⟨landed, (List.range n).map (BitVec.ofNat 8), n⟩))
    ringUsed := 28, ringTail := 28, held := some ⟨.inflow, 0x200000, rest, 4000⟩ }

theorem witness_RingWriteLandsItsBytes :
    let q : RingRequest := ⟨16, (List.range 8).map (BitVec.ofNat 8), 8⟩
    let s := ringing 16 8 [0, 1, 2, 3, 4, 5, 6, 7]
    let b := bodyA (some 0) 16 (some q)
    Memory.wf s.mem = true ∧ s.lander = .body b ∧ b.start = some 0 ∧ b.request = some q ∧ 0 < q.stream ∧
    s.held = some ⟨.inflow, 0x200000, [0, 1, 2, 3, 4, 5, 6, 7], 4000⟩ ∧
    b.landed + q.bytes.length < 16 + b.header.length + 4 + (4 - b.header.length % 4) % 4 ∧
    s.grants .lander = true ∧ (beside [.composer 0, .unpacker] s).grants .lander = true ∧
    (beside [.proofComposer] (landing liveA)).grants .lander = false ∧ q.bytes.length = 8 ∧
    [0, 1, 2, 3, 4, 5, 6, 7].length ≤ q.stream ∧
    q.stream < [0, 1, 2, 3, 4, 5, 6, 7, 8].length := by
  decide +kernel

theorem witness_LastRingWriteLandsSegment :
    let q : RingRequest := ⟨24, (List.range 4).map (BitVec.ofNat 8), 4⟩
    let s := ringing 24 4 [0, 1, 2, 3]
    let b := bodyA (some 0) 24 (some q)
    Memory.wf s.mem = true ∧ s.lander = .body b ∧ b.start = some 0 ∧ b.request = some q ∧ 0 < q.stream ∧
    s.held = some ⟨.inflow, 0x200000, [0, 1, 2, 3], 4000⟩ ∧
    16 + b.header.length + 4 + (4 - b.header.length % 4) % 4 ≤ b.landed + q.bytes.length ∧ s.grants .lander = true ∧
    s.badWords.contains (ringAddr q.offset / 8) = false ∧ [0, 1, 2, 3].length ≤ q.stream := by decide +kernel

/-- The hold limit of 20 ms is 200 ticks: a write held since 4800 is at its limit at 5000, one held since 4799 past it;
without a ring word outstanding, and with one of the write's bytes, as a held write of an admitted segment has. -/
theorem witness_InflowTimeoutCutsSegment :
    let h (since : Tick) : HeldWrite := ⟨.inflow, 0x200000, [1, 2, 3], since⟩
    let b := bodyA (some 0) 16 none
    let s (since : Tick) : State :=
      { liveA with held := some (h since), lander := .body b, ringUsed := 28, ringTail := 28 }
    (s 4800).held = some (h 4800) ∧ (h 4800).chute = .inflow ∧ (s 4800).profile = some profileA ∧
    (s 4800).lander = .body b ∧ ((s 4800).clock - (h 4800).since).toNat ≤ 10 * profileA.holdLimit ∧
    10 * profileA.holdLimit < ((s 4799).clock - (h 4799).since).toNat ∧ b.request = none ∧
    Memory.wf (s 4799).mem = true ∧
    (let c := bodyA (some 0) 16 (some ⟨16, [1, 2, 3], 3⟩)
     ({ s 4799 with lander := .body c } : State).lander = .body c ∧ c.request = some ⟨16, [1, 2, 3], 3⟩) := by
  decide +kernel

/-! ## Witnesses: the order chute and the executor -/

/-- Bytes 24 to 31 of an order, with and without a place in the queue. -/
theorem witness_OrderBytesAssembleRecords :
    let s (q : Nat) (hand : Bool) : State :=
      { liveA with
        assembly := List.replicate 24 1, orderQueue := List.replicate q (orderOf [])
        inHand := if hand then some (orderOf []) else none }
    (s 0 false).held = none ∧ (s 0 false).engine = .active ∧ (0xFF#8 ≠ 0) ∧ (s 0 false).assembly.length < 32 ∧
    ((s 0 false).assembly ++ enabledBytes 0x7F 5).length < 32 ∧
    32 ≤ ((s 0 false).assembly ++ enabledBytes 0xFF 5).length ∧
    (s 31 true).orderQueue.length < 32 ∧ (s 31 true).inHand.isSome = true ∧ (s 0 false).orderQueue = [] ∧
    (s 0 false).inHand = none ∧ 32 ≤ (s 32 true).orderQueue.length := by decide +kernel

theorem witness_HeldOrderIsQueuedOrDiscarded :
    let h (since : Tick) : HeldWrite := ⟨.order, 0x300000, [1, 2, 3], since⟩
    let s (q : Nat) (since : Tick) : State :=
      { liveA with
        held := some (h since), assembly := List.replicate 32 1, inHand := some (orderOf [])
        orderQueue := List.replicate q (orderOf []) }
    (s 31 4800).held = some (h 4800) ∧ (h 4800).chute = .order ∧ (s 31 4800).assembly.length = 32 ∧
    (h 4800).rest.length < 32 ∧ (s 31 4800).inHand = some (orderOf []) ∧ (s 31 4800).profile = some profileA ∧
    (s 31 4800).orderQueue.length < 32 ∧ 32 ≤ (s 32 4800).orderQueue.length ∧
    ((s 32 4800).clock - (h 4800).since).toNat ≤ 10 * profileA.holdLimit ∧
    10 * profileA.holdLimit < ((s 32 4799).clock - (h 4799).since).toNat := by decide +kernel

/-- A lane whose queue is full: plates 100 to 115. -/
def fullQueue : State :=
  lane0 (fun L => { L with queue := (List.range 16).map fun i => plateA (BitVec.ofNat 16 (100 + i)) .queued }) liveA

/-- The executor's states for the orders answered at once. -/
theorem witness_OrdersWithoutEffectAreAnswered :
    (withOrder 10 0 liveA).inHand = some ⟨10, false, false, 9, keyA, 0, 2, 1, 1, 50000⟩ ∧ 9 < (10#8).toNat ∧
    (0#8).toNat = 0 ∧ 3 < (4#8).toNat ∧ (0#8).toNat ≤ 3 ∧
    State.reset.findPage keyA = none ∧ (withOrder 1 0 liveA).findPage keyA = some 0 ∧
    (9 : Tag) ∈ liveTags (busy .exposing) ∧ (9 : Tag) ∉ liveTags liveA ∧ 16 ≤ (fullQueue.lane 0).queue.length ∧
    (9 : Tag) ∉ liveTags fullQueue ∧ ((3#8).toNat = (3 : LaneId).val) ∧
    (live { pageA .closed with lockCount := 1 }).present keyA = some (0, { pageA .closed with lockCount := 1 }) ∧
    (live { pageA .closed with purgePending := some 5 }).present keyA =
      some (0, { pageA .closed with purgePending := some 5 }) ∧
    ({ liveA with pages := [some { pageA .closed with key := ⟨1, 1, 0⟩ }] } : State).findPage keyA = none ∧
    ({ liveA with pages := [some { pageA .closed with key := ⟨1, 1, 0⟩ }] } : State).freeFrame = none ∧
    (pageA .closed).state ≠ .localPage ∧ keyA ≠ ⟨0, 0, 0⟩ ∧ (liveA.lane 0).mode = .fault ∧
    ((busy .exposing).lane 0).mode = .run ∧ (liveA.lane 0).mode ≠ .run := by decide +kernel

/-- An order on time, one late, and a rush order beside a rush plate and a returned plate. -/
theorem witness_AcceptedPlateIsQueued :
    let s := withOrder 1 0 liveA
    let o : Order := ⟨1, false, false, 9, keyA, 0, 2, 1, 1, 50000⟩
    let r : Order := { o with rush := true, latestStart := 5000 }
    let q := [{ plateA 6 .queued with rush := true }, { plateA 8 .queued with returned := true }, plateA 5 .queued]
    let u : State := { lane0 (fun L => { L with queue := q }) s with inHand := some r }
    (s.inHand = some o ∧ o.kind = 1 ∧ o.lane.toNat = (0 : LaneId).val ∧ (s.findPage o.key).isSome = true ∧
      o.tag ∉ liveTags s ∧ (s.lane 0).queue.length < 16 ∧ o.rush = false ∧
      2147483648 ≤ (s.clock - o.latestStart).toNat) ∧
    (u.inHand = some r ∧ r.kind = 1 ∧ (u.findPage r.key).isSome = true ∧ r.tag ∉ liveTags u ∧ r.rush = true ∧
      (u.lane 0).queue = q.take 2 ++ q.drop 2 ∧ (∀ x ∈ q.drop 2, x.rush = false ∧ x.returned = false) ∧
      (∀ x ∈ (q.take 2).getLast?, x.rush = true ∨ x.returned = true) ∧
      (u.clock - r.latestStart).toNat < 2147483648) := by decide +kernel

/-- A local page's size at its bounds, 64 by 128 tiles, and beyond them. -/
theorem witness_LocalPagesOpenAndClose :
    let o (kind tw th : Byte) : Order := ⟨kind, false, false, 9, ⟨2, 1, 3⟩, 0, 2, tw, th, 50000⟩
    let s (x : Order) : State := { liveA with inHand := some x }
    (s (o 4 64 128)).inHand = some (o 4 64 128) ∧ (o 4 64 128).kind = 4 ∧ (s (o 4 64 128)).findPage ⟨2, 1, 3⟩ = none ∧
    1 < (s (o 4 64 128)).pages.length ∧ (s (o 4 64 128)).page 1 = none ∧
    (∀ g, g < 1 → (s (o 4 64 128)).page g ≠ none) ∧
    ((o 4 64 128).tw.toNat ≤ 64 ∧ 1 ≤ (o 4 64 128).tw.toNat ∧ 1 ≤ (o 4 64 128).th.toNat ∧ (o 4 64 128).th.toNat ≤ 128 ∧
      1 ≤ (o 4 64 128).key.page.toNat ∧ (o 4 64 128).key.separation.toNat ≤ 3) ∧
    ¬ ((o 4 65 128).tw.toNat ≤ 64) ∧
    (withOrder 5 0 (live (pageA .localPage))).present keyA = some (0, pageA .localPage) ∧
    (pageA .localPage).state = .localPage := by decide +kernel

theorem witness_ProofBindingIsSet :
    let o (k : Key) : Order := ⟨6, false, false, 9, k, 0, 0, 0, 0, 0⟩
    let s (k : Key) : State := { liveA with inHand := some (o k) }
    (s ⟨0, 0, 0⟩).inHand = some (o ⟨0, 0, 0⟩) ∧ (o ⟨0, 0, 0⟩).kind = 6 ∧ (s keyA).inHand = some (o keyA) ∧
    (o keyA).key ≠ ⟨0, 0, 0⟩ ∧ (s keyA).findPage (o keyA).key = some 0 := by decide +kernel

/-- A withdraw of tag 9, 8 or 7 beside a part with a plate in each place. -/
def withdrawing (tag : Tag) (st : PlateState) (pend : Bool) : State :=
  let s := busy st
  { lane0 (fun L => { L with queue := L.queue.map fun p => { p with withdrawPending := pend } }) s with
    inHand := some ⟨2, false, false, tag, ⟨0, 0, 0⟩, 0, 0, 0, 0, 0⟩ }

/-- A QUEUED, a LOADING and a waiting plate; and a LOADING one in a part where no lane runs. -/
theorem witness_WithdrawnPlateLeavesQueue :
    (QueuesSafe (withdrawing 9 .exposing false) ∧ (withdrawing 9 .exposing false).inHand =
        some ⟨2, false, false, 9, ⟨0, 0, 0⟩, 0, 0, 0, 0, 0⟩ ∧
      plateA 9 .queued ∈ ((withdrawing 9 .exposing false).lane 0).queue ∧ (plateA 9 .queued).withdrawPending = false) ∧
    (QueuesSafe (withdrawing 8 .exposing false) ∧
      plateA 8 .loading ∈ ((withdrawing 8 .exposing false).lane 0).queue ∧ (plateA 8 .loading).withdrawPending = false) ∧
    (let s := lane0 (fun L => { L with mode := .stop }) (withdrawing 8 .exposing false)
     QueuesSafe s ∧ plateA 8 .loading ∈ (s.lane 0).queue ∧ (s.lane 0).mode ≠ .run ∧ (∀ l, (s.lane l).mode ≠ .run) ∧
     s.present keyA = some (0, { pageA .closed with lockCount := 2 })) ∧
    QueuesSafe (withdrawing 7 .cancelling true) ∧
      { plateA 7 .cancelling with withdrawPending := true } ∈ ((withdrawing 7 .cancelling true).lane 0).queue :=
  ⟨⟨queuesSafe_of (by decide) (by decide), rfl, by decide, rfl⟩,
   ⟨queuesSafe_of (by decide) (by decide), by decide, rfl⟩,
   ⟨queuesSafe_of (by decide) (by decide), by decide, by decide, by decide, rfl⟩,
   queuesSafe_of (by decide) (by decide), by decide⟩

theorem witness_WithdrawOnDrumCancels :
    (QueuesSafe (withdrawing 7 .exposing false) ∧ plateA 7 .exposing ∈ ((withdrawing 7 .exposing false).lane 0).queue ∧
      (plateA 7 .exposing).withdrawPending = false ∧ (plateA 7 .exposing).state.onDrum = true) ∧
    QueuesSafe (withdrawing 7 .cancelling false) ∧
      plateA 7 .cancelling ∈ ((withdrawing 7 .cancelling false).lane 0).queue ∧
      (plateA 7 .cancelling).state.onDrum = true :=
  ⟨⟨queuesSafe_of (by decide) (by decide), by decide, rfl, rfl⟩, queuesSafe_of (by decide) (by decide), by decide, rfl⟩

theorem witness_PurgeFreesPageOrWaits :
    let s : State := { withOrder 3 0 liveA with unpackerPage := some 0, unpacker := .working (segA 6 0 0 1) .claimed }
    let u : State :=
      { withOrder 3 0 liveA with unpackerPage := some 0, unpacker := .stalled (segA 6 0 0 1) .patches none true }
    let p := { pageA .closed with purgePending := some 9, deferred := [24] }
    let v : State := { live p with unpackerPage := some 0, unpacker := .working (segA 6 0 0 1) .applied }
    (QueuesSafe (withOrder 3 0 liveA) ∧
      (withOrder 3 0 liveA).inHand = some ⟨3, false, false, 9, keyA, 0, 2, 1, 1, 50000⟩ ∧
      (withOrder 3 0 liveA).present keyA = some (0, pageA .closed) ∧ (pageA .closed).lockCount = 0 ∧
      (pageA .closed).purgePending = none ∧ (withOrder 3 0 liveA).unpackerPage ≠ some 0) ∧
    (QueuesSafe s ∧ s.unpackerPage = some 0 ∧ s.unpacker = .working (segA 6 0 0 1) .claimed ∧
      ∀ g h i, s.unpacker ≠ .stalled g .patches h i) ∧
    (QueuesSafe u ∧ u.unpackerPage = some 0 ∧ u.unpacker = .stalled (segA 6 0 0 1) .patches none true ∧
      (∀ l, (u.lane l).mode ≠ .run) ∧ Memory.wf u.mem = true) ∧
    (QueuesSafe v ∧ v.unpacker = .working (segA 6 0 0 1) .applied ∧ v.unpackerPage = some 0 ∧ v.page 0 = some p ∧
      p.purgePending = some 9 ∧ (∀ l, (v.lane l).mode ≠ .run) ∧ Memory.wf v.mem = true) :=
  ⟨⟨queuesSafe_of (by decide) (by decide), by decide +kernel⟩,
   ⟨queuesSafe_of (by decide) (by decide), rfl, rfl, fun _ _ _ h => nomatch h⟩,
   ⟨queuesSafe_of (by decide) (by decide), by decide +kernel⟩, queuesSafe_of (by decide) (by decide), by decide +kernel⟩

/-- A stalled remake finds a place while the Lander's request waits: it takes its slot, is stalled no longer, and a purge
of its page waits for it (R18, R60). -/
theorem test_slot_taken_before_reads :
    let s := landing { withOrder 3 0 (taken 6 0 0 [0xFF] liveA) with
      unpackerPage := some 0, unpacker := .stalled (segA 6 0 0 1) .patches none true }
    let t := after (exec .patchesStallEnd s)
    let u := after (exec .purgePage t)
    s.grants .unpacker = false ∧ t.unpacker = .working (segA 6 0 0 1) (.decoding 0) ∧ t.slotsInUse = [0] ∧
    t.slotPointer = 1 ∧ u.unpacker = t.unpacker ∧ (u.page 0).map Page.purgePending = some (some 9) := by decide +kernel

/-- Lanes in STOP with no back plate, with a back plate one row short of its preload of 2, and with one that starts. -/
theorem witness_LaneOrdersChangeMode :
    let s := withOrder 8 0 (busy .exposing)
    let u := withOrder 7 1 (modLane 1 (fun L => { L with mode := .stop, lastMessage := some 4990 }) liveA)
    let ready (n : Nat) := withOrder 7 0 (lane0 (fun L => { L with drumReady := true }) (loaded .stop n))
    (s.inHand = some ⟨8, false, false, 9, keyA, 0, 2, 1, 1, 50000⟩ ∧ (0#8).toNat = (0 : LaneId).val ∧
      (s.lane 0).mode = .run ∧ u.inHand = some ⟨7, false, false, 9, keyA, 1, 2, 1, 1, 50000⟩ ∧
      (1#8).toNat = (1 : LaneId).val ∧ (u.lane 1).mode = .stop ∧ (u.lane 1).queue = [] ∧ (u.lane 1).back = none) ∧
    ((ready 1).inHand = some ⟨7, false, false, 9, keyA, 0, 2, 1, 1, 50000⟩ ∧ ((ready 1).lane 0).mode = .stop ∧
      ((ready 1).lane 0).backCtx = some ⟨contextA, 1, []⟩ ∧
      (rowsOf .back ((ready 1).lane 0).buffer).length < min ((ready 1).preload 0) (1 * 256) ∧
      ((ready 1).lane 0).back ≠ none) ∧
    (((ready 2).lane 0).mode = .stop ∧ ((ready 2).lane 0).front = none ∧ ((ready 2).lane 0).drumReady = true ∧
      ((ready 2).lane 0).back = some (plateA 8 .loading) ∧ ((ready 2).lane 0).backCtx = some ⟨contextA, 2, []⟩ ∧
      min ((ready 2).preload 0) (1 * 256) ≤ (rowsOf .back ((ready 2).lane 0).buffer).length) := by decide +kernel

/-! ## A valid profile record -/

/-- A word of a profile record. -/
def word (bs : List Byte) : Option (List Byte) := some (bs ++ List.replicate (8 - bs.length) 0)

/-- The 512 words of a record with hold limit 20, generation 7, preload 2 and high-water 16 for every lane, the cell
vector (1, 0) for every slot, and marks OFF. -/
def recordWords : List (Option (List Byte)) :=
  [word [0x44, 0x48, 0x34, 0x36, 1, 0, 20], word [7]] ++ List.replicate 4 (word [0, 0, 2, 0, 16]) ++ [word [1]] ++
    List.replicate 35 (word []) ++ [word [1]] ++ List.replicate 35 (word []) ++ [word [1]] ++
    List.replicate 35 (word []) ++ [word [1]] ++ List.replicate 396 (word []) ++ [word [0, 0, 0, 0, 215, 201, 29, 209]]

/-- Its bytes. -/
def recordBytesA : List Byte := recordWords.flatMap fun w => w.getD []

/-- A function of a number, after the number is evaluated: it keeps the evaluation below shallow. -/
def evaluated {α : Type} (k : Nat → α) : Nat → α
  | 0 => k 0
  | n + 1 => k (n + 1)

theorem evaluated_eq {α : Type} (k : Nat → α) (n : Nat) : evaluated k n = k n := by cases n <;> rfl

/-- The CRC register over a list, byte by byte. -/
def crcRun : List Byte → Nat → Nat
  | [], r => r
  | b :: bs, r => evaluated (crcRun bs) (crcByte (BitVec.ofNat 32 r) b).toNat

theorem crcRun_eq : ∀ (bs : List Byte) (r : BitVec 32), crcRun bs r.toNat = (bs.foldl crcByte r).toNat
  | [], _ => rfl
  | b :: bs, r => by
    rw [crcRun, evaluated_eq, BitVec.ofNat_toNat, BitVec.setWidth_eq, crcRun_eq bs, List.foldl_cons]

theorem record_run : crcRun (recordBytesA.take 4092) 0xFFFFFFFF = 786576936 := by decide +kernel

theorem record_crc : crc32 (recordBytesA.take 4092) = 3508390359#32 := by
  have e : (recordBytesA.take 4092).foldl crcByte 0xFFFFFFFF#32 = 786576936#32 :=
    BitVec.eq_of_toNat_eq ((crcRun_eq _ 0xFFFFFFFF#32).symm.trans record_run)
  rw [crc32, e]; rfl

theorem record_fields :
    recordBytesA.take 4 = [0x44, 0x48, 0x34, 0x36] ∧ fieldAt recordBytesA 4 2 = 1 ∧
    fieldAt recordBytesA 4092 4 = 3508390359 ∧ firstFail recordBytesA = none ∧
    recordWords.any Option.isNone = false := by decide +kernel

theorem record_valid : judge recordWords = .valid (profileOf recordBytesA) := by
  have h : recordWords.flatMap (fun w => w.getD []) = recordBytesA := rfl
  simp [judge, h, judgeBytes, record_fields, record_crc]

/-- A load that has read its 512 words reads no more. -/
theorem record_read (c : LoadCause) (s : State) : (Load.readTo ⟨c, recordWords⟩ 512 s).got = recordWords := by
  have h : (List.range 512).drop recordWords.length = [] := by decide +kernel
  simp only [Load.readTo, h, List.map_nil, List.append_nil]

/-- Each word is read as memory holds it at its grant (R162): an error that arises in the first word after a load has
read its words does not reject it. -/
theorem test_error_after_reading :
    judge (Load.readTo ⟨.commit, recordWords⟩ 512 { loading .commit recordWords with badWords := [0] }).got =
      .valid (profileOf recordBytesA) := by rw [record_read, record_valid]

theorem witness_ProfileLoadIsJudged :
    ((withOrder 9 0 State.reset).inHand = some ⟨9, false, false, 9, keyA, 0, 2, 1, 1, 50000⟩ ∧
      (withOrder 9 0 State.reset).loader = none) ∧
    ((landing (loading .reload [some []])).loader = some ⟨.reload, [some []]⟩ ∧
      ([some []] : List (Option (List Byte))).length < 512 ∧ none ∉ ([some []] : List (Option (List Byte))) ∧
      (landing (loading .reload [some []])).grants .profileLoader = false ∧
      (landing (loading .reload [none])).loader = some ⟨.reload, [none]⟩ ∧
      (landing (loading .reload [none])).grants .profileLoader = false ∧
      (loading .commit recordWords).grants .profileLoader = true ∧
      (beside [.unpacker] (loading .commit [])).grants .profileLoader = false ∧
      (beside [.profileLoader, .unpacker, .reportWriter] (loading .commit [])).grants .profileLoader = true ∧
      Requester.unpacker ∈ (beside [.profileLoader, .unpacker] (loading .commit [])).waiting ∧
      (loading .commit []).badWords.contains ([] : List (Option (List Byte))).length = false ∧
      ({ loading .commit [] with badWords := [0] } : State).badWords.contains 0 = true) ∧
    ((loading .commit recordWords).loader = some ⟨.commit, recordWords⟩ ∧
      judge (Load.readTo ⟨.commit, recordWords⟩ 512 (loading .commit recordWords)).got =
        .valid (profileOf recordBytesA) ∧ LoadCause.commit ≠ .reload) ∧
    ((loading .reload recordWords).loader = some ⟨.reload, recordWords⟩ ∧
      judge (Load.readTo ⟨.reload, recordWords⟩ 512 (loading .reload recordWords)).got =
        .valid (profileOf recordBytesA) ∧
      (loading .reload recordWords).inHand = some ⟨9, false, false, 9, keyA, 0, 2, 1, 1, 50000⟩ ∧
      ∀ l, ((loading .reload recordWords).lane l).back = none) ∧
    judge (Load.readTo ⟨.warmReset, [none]⟩ 512 (loading .warmReset [none])).got = .invalid 3 0 ∧
    judge (Load.readTo ⟨.reload, [none]⟩ 512 (loading .reload [none])).got = .invalid 3 0 := by
  refine ⟨⟨rfl, rfl⟩, ⟨rfl, by decide, by decide, by decide, rfl, by decide, by decide, by decide, by decide, by decide,
    by decide, by decide⟩,
    ⟨rfl, ?_, by decide⟩,
    ⟨rfl, ?_, rfl, by decide⟩, by decide +kernel, by decide +kernel⟩ <;>
    rw [record_read, record_valid]

/-- A load that runs while the Lander's request waits, of class 3, reads no word before a host write to the record: each
is read later, with its new bytes (R156, R162). -/
theorem test_load_waits_for_lander :
    (after (exec (.passingAccess (.write 0 0xFF 1)) (landing (loading .reload [])))).loader = some ⟨.reload, []⟩ := by
  decide +kernel

/-- While the Unpacker's request waits behind a load's that has two words to read, the load waits too; with one word to
read it is judged, and no request of the loader's waits then (R156, R162). -/
theorem test_load_lets_unpacker_have_its_turn :
    let s (read : Nat) := beside [.profileLoader, .unpacker] (loading .commit (List.replicate read (some [])))
    loadWaits (s 510) ⟨.commit, List.replicate 510 (some [])⟩ = true ∧
    loadWaits (s 511) ⟨.commit, List.replicate 511 (some [])⟩ = false ∧
    (after (exec .profileLoadJudged (beside [.profileLoader, .unpacker] (loading .commit [none])))).waiting =
      [.unpacker] := by decide +kernel

/-- The byte, and the 16-bit field, at an offset of a record. -/
def recByte (bs : List Byte) (i : Nat) : Nat := (bs.getD i 0).toNat
def recHalf (bs : List Byte) (i : Nat) : Nat := leNat ((bs.drop i).take 2)

/-- The tests of R162 that name an offset, on a lane's, a slot's and a mark's entry of a record, and on all its fields. -/
abbrev laneFails (bs : List Byte) (o e : Nat) : Prop :=
  o = e ∧ 1 < recByte bs e ∨
  o = e + 2 ∧ (recHalf bs (e + 2) = 0 ∨ 256 < recHalf bs (e + 2) ∨ recHalf bs (e + 4) < recHalf bs (e + 2)) ∨
  o = e + 4 ∧ (recHalf bs (e + 4) < 16 ∨ 256 < recHalf bs (e + 4))
abbrev slotFails (bs : List Byte) (o e : Nat) : Prop :=
  o = e ∧ (15 < recByte bs e ∨ recByte bs e = 0 ∧ recByte bs (e + 1) = 0) ∨ o = e + 1 ∧ 15 < recByte bs (e + 1)
abbrev markFails (bs : List Byte) (o e : Nat) : Prop :=
  o = e ∧ 3 < recByte bs e ∨
  o = e + 10 ∧ recByte bs e = 2 ∧ (recByte bs (e + 10) = 0 ∨ 64 < recByte bs (e + 10)) ∨
  o = e + 11 ∧ recByte bs e = 3 ∧ (recByte bs (e + 11) = 0 ∨ 32 < recByte bs (e + 11))
abbrev fieldFails (bs : List Byte) (o : Nat) : Prop :=
  o = 6 ∧ (recHalf bs 6 = 0 ∨ 250 < recHalf bs 6) ∨ (∃ n, n < 4 ∧ laneFails bs o (16 + 8 * n)) ∨
    (∃ n, n < 4 ∧ slotFails bs o (48 + 288 * n)) ∨ ∃ m, m < 8 ∧ markFails bs o (1200 + 16 * m)

/-- The offsets those tests name. -/
def fieldOffsets : List Nat :=
  6 :: ((List.range 4).flatMap fun n => [16 + 8 * n, 18 + 8 * n, 20 + 8 * n, 48 + 288 * n, 49 + 288 * n]) ++
    (List.range 8).flatMap fun m => [1200 + 16 * m, 1210 + 16 * m, 1211 + 16 * m]

theorem fieldFails_mem {bs : List Byte} {o : Nat} (h : fieldFails bs o) : o ∈ fieldOffsets := by
  simp only [fieldOffsets, List.mem_append, List.mem_cons, List.mem_flatMap, List.mem_range, List.not_mem_nil]
  rcases h with ⟨rfl, -⟩ | ⟨n, hn, h⟩ | ⟨n, hn, h⟩ | ⟨n, hn, h⟩
  · exact .inl (.inl rfl)
  · exact .inl (.inr ⟨n, hn, by omega⟩)
  · exact .inl (.inr ⟨n, hn, by omega⟩)
  · exact .inr ⟨n, hn, by omega⟩

/-- Records cut short, their last four bytes chosen so that the CRC is that of the zeros a short list reads as, and the
first field of each that is out of its range: a hold limit of 251, a polarity of 2, a preload of 257, and one above the
high-water level; and the record above cut at its first slot's cell vector. -/
def cutRecords : List (List Byte × Nat) :=
  let low : List Byte := [0x44, 0x48, 0x34, 0x36, 1, 0]
  let z : List Byte := List.replicate 8 0
  [(low ++ [251, 0] ++ z ++ z ++ [0xD0, 0xBD, 0xDA, 0x2C], 6),
   (low ++ [250, 0] ++ z ++ [2, 0, 0, 0, 0, 0, 0, 0, 0x4C, 0x0C, 0xAD, 0x81], 16),
   (low ++ [1, 0] ++ z ++ [1, 0, 1, 1, 1, 1, 0, 0, 0x4F, 0xFD, 0xB4, 0xDA], 18),
   (low ++ [250, 0] ++ z ++ [1, 0, 17, 0, 16, 0, 0, 0, 0x0E, 0x8D, 0xB1, 0x97], 18),
   (recordBytesA.take 48 ++ [0xA7, 0x7D, 0x52, 0x72], 48)]

set_option synthInstance.maxSize 512 in
theorem record_fields_hold : ∀ o ∈ fieldOffsets, ¬ fieldFails recordBytesA o := by decide +kernel

set_option synthInstance.maxSize 512 in
theorem witness_JudgingFollowsTestOrder :
    none ∈ [some [0x44#8], none] ∧ none ∉ [some [0x45#8]] ∧ ([0x45] : List Byte).take 4 ≠ [0x44, 0x48, 0x34, 0x36] ∧
    (let bs : List Byte := [0x44, 0x48, 0x34, 0x36, 2, 0]
     bs.take 4 = [0x44, 0x48, 0x34, 0x36] ∧ leNat ((bs.drop 4).take 2) ≠ 1) ∧
    (let bs : List Byte := [0x44, 0x48, 0x34, 0x36, 1, 0]
     leNat ((bs.drop 4).take 2) = 1 ∧ (crc32 (bs.take 4092)).toNat ≠ leNat ((bs.drop 4092).take 4)) ∧
    (∀ c ∈ cutRecords, c.1.take 4 = [0x44, 0x48, 0x34, 0x36] ∧ leNat ((c.1.drop 4).take 2) = 1 ∧
      crcRun (c.1.take 4092) 0xFFFFFFFF = 0xFFFFFFFF ∧ leNat ((c.1.drop 4092).take 4) = 0 ∧
      fieldFails c.1 c.2 ∧ ∀ i, i < c.2 → ¬ fieldFails c.1 i) ∧
    (∀ o, ¬ fieldFails recordBytesA o) ∧
    none ∉ recordWords ∧ judge recordWords = .valid (profileOf recordBytesA) := by
  refine ⟨by decide, by decide, by decide, by decide, by decide +kernel, by decide +kernel,
    fun o h => record_fields_hold o (fieldFails_mem h) h, by decide +kernel, record_valid⟩

/-- The start of lane 1's entry: a preload above its high-water value is reported at the preload's offset, 26. -/
theorem test_preload_offset :
    firstFail (recordBytesA.set 26 17) = some 26 ∧ firstFail (recordBytesA.set 20 15) = some 20 ∧
    firstFail (recordBytesA.set 624 0) = some 624 := by decide +kernel

/-! ## Witnesses: lane queues and lanes -/

/-- A plate is late in the tick of its latest start, and 2³¹ ticks before it reads as still to come. -/
theorem witness_LatePlateIsReportedOnce :
    let s : State := { busy .exposing with clock := 50000 }
    QueuesSafe s ∧ plateA 9 .queued ∈ (s.lane 0).queue ∧ (plateA 9 .queued).state = .queued ∧
    (plateA 9 .queued).lateReported = false ∧ (s.clock - (plateA 9 .queued).latestStart).toNat < 2147483648 ∧
    2147483648 ≤ ((busy .exposing).clock - (plateA 9 .queued).latestStart).toNat ∧
    plateA 8 .loading ∈ (s.lane 0).queue ∧ (plateA 8 .loading).state ≠ .queued :=
  ⟨queuesSafe_of (by decide) (by decide), by decide +kernel⟩

/-- A running lane with one QUEUED plate and no back plate. -/
def waiting : State :=
  lane0 (fun L => { L with mode := .run, lastMessage := some 4990, queue := [plateA 9 .queued] }) liveA

/-- A running lane whose first QUEUED plate is granted, one whose second is, one whose first is refused with a reason it
has not been told, and the same told; and a lane with none QUEUED, in RUN and in STOP. -/
theorem witness_ChoiceLoadsEligiblePlate :
    let two : State :=
      lane0 (fun L => { L with queue := [{ plateA 8 .queued with key := ⟨1, 1, 1⟩ }, plateA 9 .queued] }) waiting
    let open1 : State := { waiting with pages := [some (pageA .opened), none] }
    let told : State := lane0 (fun L => { L with lastHeld := some (9, .pageOpen) }) open1
    let none1 : State := lane0 (fun L => { L with queue := [] }) waiting
    (QueuesSafe waiting ∧ (waiting.lane 0).mode = .run ∧ (waiting.lane 0).back = none ∧
      (waiting.lane 0).queued = [] ++ plateA 9 .queued :: [] ∧ waiting.profile = some profileA ∧
      loadRequest waiting keyA false = .granted 0 ∧ waiting.page 0 = some (pageA .closed) ∧
      State.reset.findPage keyA = none ∧ waiting.present keyA = some (0, pageA .closed)) ∧
    (QueuesSafe two ∧ (two.lane 0).queued = [{ plateA 8 .queued with key := ⟨1, 1, 1⟩ }] ++ plateA 9 .queued :: [] ∧
      loadRequest two ⟨1, 1, 1⟩ false = .refused none ∧ loadRequest two keyA false = .granted 0) ∧
    (QueuesSafe open1 ∧ (open1.lane 0).queued = plateA 9 .queued :: [] ∧ (open1.lane 0).back = none ∧
      loadRequest open1 keyA false = .refused (some .pageOpen) ∧ (open1.lane 0).lastHeld = none) ∧
    (QueuesSafe told ∧ (told.lane 0).lastHeld = some (9, .pageOpen) ∧
      loadRequest told keyA false = .refused (some .pageOpen)) ∧
    (QueuesSafe none1 ∧ (none1.lane 0).queued = [] ∧ (none1.lane 0).mode = .run) ∧
    QueuesSafe liveA ∧ (liveA.lane 0).mode ≠ .run :=
  ⟨⟨queuesSafe_of (by decide) (by decide), by decide +kernel⟩, ⟨queuesSafe_of (by decide) (by decide), by decide +kernel⟩,
   ⟨queuesSafe_of (by decide) (by decide), by decide +kernel⟩, ⟨queuesSafe_of (by decide) (by decide), by decide +kernel⟩,
   ⟨queuesSafe_of (by decide) (by decide), by decide +kernel⟩, liveA_safe, by decide⟩

/-- A part whose lane 0 composes a row for its front plate, with rows owed and none buffered, or for its back plate. -/
def composing (owed : Nat) (front : Bool) (buffer : List BufferedRow) : State :=
  lane0 (fun L => { L with
      owed := owed, buffer := buffer
      frontCtx := if front then some ⟨contextA, 4, []⟩ else some ⟨contextA, 256, []⟩
      backCtx := if front then none else some ⟨contextA, 15, []⟩ }) (busy .exposing)

/-- Lane 0's row 4 under a photo, which takes two requests, in class 4 beside those that wait: four words of line art, and
the four of the samples of row 0. -/
def twoRequests (rs : List Requester) : State :=
  beside rs { composing 0 true [⟨.front, []⟩, ⟨.front, []⟩] with
    pages := [some { pageA .closed with lockCount := 2, photos := [photoA] }, none] }

/-- A strip whose payload and trailer lie in the ring's last word and its first, and so take two requests. -/
def roundEnd : Segment := { segA 2 0 0 12 with offset := 33554408 }

/-- That strip in hand, its claim granted, beside the requests that wait and a load. -/
def twoReads (rs : List Requester) : State :=
  beside rs { live (pageA .opened) with
    unpacker := .working roundEnd .claimed, unpackerPage := some 0, loader := some ⟨.reload, []⟩ }

/-- Readings at their first word and at their last; a row that reads and one that does not; a lane of class 4 beside the
Lander and beside another lane of its class, and one of class 1; and requests whose next has no turn at once. -/
theorem witness_ArbiterGrantsRequestsInTurn :
    (Reading.start.words < [0, 8, 16].length ∧ (⟨2, none, 0⟩ : Reading).words < [0, 8, 16].length ∧
      Reading.start.asked = 0 ∧ (0 < 8)) ∧
    ((twoRequests []).page contextA.frame = some { pageA .closed with lockCount := 2, photos := [photoA] } ∧
      rowAccesses (twoRequests []) ⟨contextA, 4, []⟩ = 2 ∧
      rowAccesses { composing 0 true [] with pages := [some damagedA, none] } ⟨contextA, 4, []⟩ = 0) ∧
    (arbiterGrant liveA [.lander, .composer 0, .composer 2] = some .lander ∧
      arbiterGrant { liveA with arbLast4 := 1 } [.composer 0, .composer 2] = some (.composer 2) ∧
      composerClass liveA 0 = composerClass liveA 2) ∧
    (((composing 64 true []).lane 0).exposing = true ∧
      ((composing 64 true []).lane 0).buffer.length < (composing 64 true []).preload 0 ∧
      composerClass (composing 64 true []) 0 = 1 ∧ composerClass (composing 64 true []) 1 = 4 ∧
      (beside [.composer 0] (composing 64 true [])).grants (.composer 1) = false ∧
      (beside [.composer 1, .composer 2] liveA).grants (.composer 2) = false ∧
      (beside [.composer 1, .composer 2] { liveA with arbLast4 := 1 }).grants (.composer 2) = true ∧
      Requester.composer 0 ∈ (beside [.composer 1, .systemPort, .composer 0] (composing 64 true [])).requests) ∧
    (Requester.composer 1 ∈ (twoRequests [.composer 1]).waiting ∧
      composerClass (twoRequests [.composer 1]) 1 = composerClass (twoRequests [.composer 1]) 0 ∧
      (twoRequests [.composer 1]).grantsRun (.composer 0) 1 = true ∧
      (twoRequests [.unpacker]).grantsRun (.composer 0) 2 = true) ∧
    Requester.profileLoader ∈ (twoReads [.profileLoader]).waiting := by decide +kernel

/-- A row of a span that reads and one of a damaged tile; a row with two requests left, alone and beside another lane of its
class, and one with a span read and its request for the next waiting; the plate's last row, owed; and a row that fills
the preload, with an error elsewhere. -/
theorem witness_ComposedRowEntersBuffer :
    (let s := composing 0 true [⟨.front, []⟩]
     s.engine = .active ∧ s.badWords = [] ∧ s.page 0 = some { pageA .closed with lockCount := 2 } ∧
     (s.lane 0).buffer.length < s.highWater 0 ∧ 4 < 1 * 256 ∧ (s.lane 0).frontCtx = some ⟨contextA, 4, []⟩ ∧
     (s.lane 0).owed = 0 ∧ s.grants (.composer 0) = true ∧ rowRequestsLeft s 0 ⟨contextA, 4, []⟩ = 1) ∧
    (let s := twoRequests []
     let u := twoRequests [.composer 1]
     let c : Latched := ⟨contextA, 4, [⟨.page (some photoA), ⟨4, none, 4⟩⟩]⟩
     let v := lane0 (fun L => { L with frontCtx := some c }) (twoRequests [.composer 0])
     rowRequestsLeft s 0 ⟨contextA, 4, []⟩ = 2 ∧ s.grantsRun (.composer 0) 2 = true ∧
     u.grantsRun (.composer 0) 2 = false ∧ (u.lane 0).frontCtx = some ⟨contextA, 4, []⟩ ∧
     (u.lane 0).buffer.length < u.highWater 0 ∧ u.engine = .active ∧
     (v.lane 0).frontCtx = some c ∧ rowRequestsLeft v 0 c = 1 ∧ v.grantsRun (.composer 0) 1 = true ∧
     (⟨.page (some photoA), ⟨4, none, 4⟩⟩ : SpanWork).error v 0 { pageA .closed with lockCount := 2, photos := [photoA] } 0 4
       = none) ∧
    (let s := composing 64 true []
     (s.lane 0).buffer.length < s.highWater 0 ∧ (s.lane 0).frontCtx = some ⟨contextA, 4, []⟩ ∧
     (s.lane 0).front = some (plateA 7 .exposing) ∧ (s.lane 0).buffer = [] ∧ 0 < (s.lane 0).owed) ∧
    (let s := landing (composing 0 false (List.replicate 15 ⟨.back, []⟩))
     s.grantsRun (.composer 0) (rowRequestsLeft s 0 ⟨contextA, 15, []⟩) = false ∧
     (s.lane 0).backCtx = some ⟨contextA, 15, []⟩) ∧
    rowRequestsLeft { composing 0 true [] with pages := [some damagedA, none] } 0 ⟨contextA, 4, []⟩ = 0 ∧
    (let s := composing 0 false (List.replicate 15 ⟨.back, []⟩)
     (s.lane 0).buffer.length < s.highWater 0 ∧ (∀ d, (s.lane 0).frontCtx = some d → d.ctx.th * 256 ≤ d.composed) ∧
     (s.lane 0).backCtx = some ⟨contextA, 15, []⟩ ∧ (s.lane 0).front ≠ none) ∧
    (let s := lane0 (fun L => { L with frontCtx := some ⟨contextA, 255, []⟩ }) (composing 64 true [])
     (s.lane 0).frontCtx = some ⟨contextA, 255, []⟩ ∧ (s.lane 0).buffer = [] ∧ 0 < (s.lane 0).owed ∧ 255 + 1 = 1 * 256) ∧
    (let s : State := { lane0 (fun L => { L with drumReady := true }) (loaded .run 1) with badWords := [0] }
     QueuesSafe s ∧ (∀ tx, tx < 1 → (lookUpSpan s 0 (pageA .closed) tx 1).error s 0 (pageA .closed) tx 1 = none) ∧
     (s.lane 0).frontCtx = none ∧ (s.lane 0).backCtx = some ⟨contextA, 1, []⟩ ∧ (s.lane 0).mode = .run ∧
     (s.lane 0).front = none ∧ (s.lane 0).drumReady = true ∧ (s.lane 0).back = some (plateA 8 .loading) ∧
     s.grantsRun (.composer 0) (rowRequestsLeft s 0 ⟨contextA, 1, []⟩) = true ∧
     min (s.preload 0) (1 * 256) ≤ (rowsOf .back (s.lane 0).buffer).length + 1) ∧
    let s := loaded .run 0
    (s.lane 0).drumReady = false ∧ (rowsOf .back (s.lane 0).buffer).length + 1 < min (s.preload 0) (1 * 256) :=
  ⟨by decide +kernel, by decide +kernel, by decide +kernel, by decide +kernel, by decide +kernel,
   ⟨by decide +kernel, by rintro d ⟨rfl⟩; decide, rfl, by decide⟩, by decide +kernel,
   ⟨queuesSafe_of (by decide) (by decide), by decide +kernel⟩, by decide +kernel⟩

/-- Lane 0's row takes two requests, and with lane 1's waiting its command ends nothing: lane 0 has a grant, which reads
four words, then lane 1 its turn, then lane 0 again; and then the command ends the row with no further grant (R156). -/
theorem test_row_gives_turns_between_requests :
    let s := twoRequests [.composer 1]
    let a := grantNext (requestArrives (.composer 0) 8 s)
    let b := grantNext (requestArrives (.composer 0) 8 a)
    let c := grantNext b
    let words (t : State) := ((t.lane 0).frontCtx.map fun c => c.row.map fun w => w.read.words)
    after (exec (.laneRowComposed 0) s) = s ∧
    words a = some [4] ∧ a.waiting = [.composer 1] ∧ a.arbLast4 = 0 ∧
    words b = some [4] ∧ b.waiting = [.composer 0] ∧ b.arbLast4 = 1 ∧
    words c = some [8] ∧ c.waiting = [] ∧ c.arbLast4 = 0 ∧
    (let t := after (exec (.laneRowComposed 0) (beside [.composer 1] c))
     (t.lane 0).buffer.length = 3 ∧ t.waiting = [.composer 1] ∧ t.arbLast4 = 0) := by decide +kernel

/-- An access is of 8 consecutive words at most, or of fewer if fewer are asked for or the next is elsewhere (R156). -/
theorem test_access_of_1_to_8_words :
    let twelve := (List.range 12).map fun i => 8 * i
    (Reading.start.ask twelve 20).asked = 8 ∧ (Reading.start.ask twelve 3).asked = 3 ∧
    ((⟨8, none, 0⟩ : Reading).ask twelve 20).asked = 4 ∧ (Reading.start.ask [0, 8, 24] 8).asked = 2 ∧
    Reading.start.requestsLeft twelve = 2 ∧ Reading.start.requestsLeft [0, 8, 24] = 2 := by decide

/-- The Unpacker's two requests and the profile loader's take turns by arrival; the strip's command ends nothing as long as
the loader's turn comes between them (R156). -/
theorem test_payload_and_load_take_turns :
    let s := twoReads [.profileLoader]
    let a := requestArrives .profileLoader 1 (grantNext (requestArrives .unpacker 8 s))
    let b := requestArrives .unpacker 8 (grantNext a)
    let c := grantNext b
    let d := grantNext c
    after (exec (.strip .whole) s) = s ∧ a.waiting = [.unpacker, .profileLoader] ∧
    after (exec (.strip .whole) a) = a ∧ b.payloadRead = ⟨1, none, 1⟩ ∧ b.waiting = [.profileLoader, .unpacker] ∧
    c.loader.map (fun ld => ld.got.length) = some 2 ∧ c.waiting = [.unpacker] ∧ d.payloadRead = ⟨2, none, 0⟩ := by
  decide +kernel

/-- An error that arises in a word after its grant is not met: of a row's line art, nor of a payload (R155). -/
theorem test_error_after_grant_is_not_met :
    let row := grantNext (requestArrives (.composer 0) 8 (twoRequests []))
    let payload := grantNext (requestArrives .unpacker 8 (twoReads []))
    (after (exec (.laneRowComposed 0) { row with badWords := [0x1000010] })).reports = [] ∧
    (after (exec (.laneRowComposed 0) { row with badWords := [0x1800000] })).reports ≠ [] ∧
    segmentError { payload with badWords := [0x5FFFFF] } roundEnd = none ∧
    segmentError { payload with badWords := [0x200000] } roundEnd = some 1 := by decide +kernel

/-- The Lander's request waits behind one of class 1, and RING_WRITE_DONE then leaves the state as it is; a host's read
is granted after the request of class 1 and before the Lander's, and the class remembers the lane (R156). -/
theorem test_ring_write_waits_for_class_1 :
    let s := beside [.composer 0, .unpacker] (landing (composing 64 true []))
    let t := after (exec (.passingAccess (.read 0x1000)) s)
    after (exec .ringWriteDone s) = s ∧ t.waiting = [.unpacker] ∧ t.arbLast1 = 0 ∧
    after (exec .ringWriteDone t) ≠ t := by decide +kernel

/-- Within a tick, while the Lander's request waits nothing of classes 4 to 6 is granted, and a request that arrives waits
behind those there; without it the requests are granted class by class, lanes of a class in rotation, each remembered
(R156). -/
theorem test_port_runs_by_class :
    let waits := beside [.reportWriter, .composer 2, .unpacker, .composer 0] (composing 3 true [])
    let t := requestArrives (.composer 1) 8 (beside [.unpacker] (composing 64 true []))
    grantNext (landing liveA) = landing liveA ∧
    grantNext (beside [.reportWriter, .composer 2] (landing liveA)) = beside [.reportWriter, .composer 2] (landing liveA) ∧
    t.waiting = [.unpacker] ∧
    (requestArrives (.composer 0) 8 (beside [.unpacker] (composing 64 true []))).waiting = [.unpacker, .composer 0] ∧
    (grantNext waits).waiting = [.reportWriter, .composer 2, .unpacker] ∧ (grantNext waits).arbLast1 = 0 ∧
    (grantNext (grantNext waits)).waiting = [.reportWriter, .unpacker] ∧ (grantNext (grantNext waits)).arbLast4 = 2 ∧
    (grantNext (grantNext (grantNext waits))).waiting = [.reportWriter] ∧
    (grantNext (beside [.systemPort, .composer 2] liveA)).waiting = [.systemPort, .composer 2] := by decide +kernel

/-- A load reads one word at a grant, in ascending order, and a word with an uncorrectable error waits for
PROFILE_LOAD_JUDGED (R162). -/
theorem test_loader_reads_a_word_at_a_grant :
    let s := beside [.profileLoader] (loading .commit [some [1]])
    ((grantNext s).loader.map Load.got) = some [some [1], some [0, 0, 0, 0, 0, 0, 0, 0]] ∧ (grantNext s).waiting = [] ∧
    grantNext { s with badWords := [1] } = { s with badWords := [1] } := by decide +kernel

/-- The word of row 4 of the page's one tile, 32 × 4 bytes into frame 0, has an uncorrectable error. -/
def storeError : State := { composing 3 true [] with badWords := [0x1000010] }

/-- The front plate's row 4 with its line art in error, its photo's first samples, or the patch slot of its tile; and the
back plate's row 1, in RUN and in a part where no lane runs. -/
theorem witness_StoreErrorSpoilsFrontPlate :
    let page := { pageA .closed with lockCount := 2, photos := [photoA] }
    let tone : State := { storeError with badWords := [0x1800000], pages := [some page, none] }
    let patch : State :=
      { storeError with badWords := [0x800810], patches := [⟨0, 0, 0, 2, false⟩], slotsInUse := [2] }
    let back (m : LaneMode) : State := { loaded m 1 with badWords := [0x1000004] }
    (QueuesSafe tone ∧ tone.grantsRun (.composer 0) (rowRequestsLeft tone 0 ⟨contextA, 4, []⟩) = true ∧
      (tone.lane 0).frontCtx = some ⟨contextA, 4, []⟩ ∧
      (lookUpSpan tone 0 page 0 4).error tone 0 page 0 4 = some .tone ∧
      (⟨.page none, ⟨4, some 1, 0⟩⟩ : SpanWork).error liveA 0 page 0 4 = some .lineArt) ∧
    (QueuesSafe patch ∧ patch.grantsRun (.composer 0) (rowRequestsLeft patch 0 ⟨contextA, 4, []⟩) = true ∧
      findPatch patch.patches 0 0 0 = some ⟨0, 0, 0, 2, false⟩ ∧ (patch.lane 0).frontCtx = some ⟨contextA, 4, []⟩ ∧
      (lookUpSpan patch 0 (pageA .closed) 0 4).error patch 0 (pageA .closed) 0 4 = some (.patchSlot 2)) ∧
    (∀ m ∈ [LaneMode.run, .stop], QueuesSafe (back m) ∧
      (back m).grantsRun (.composer 0) (rowRequestsLeft (back m) 0 ⟨contextA, 1, []⟩) = true ∧
      ((back m).lane 0).frontCtx = none ∧ ((back m).lane 0).backCtx = some ⟨contextA, 1, []⟩ ∧
      ((back m).lane 0).back = some (plateA 8 .loading) ∧ ((back m).lane 0).buffer.length < (back m).highWater 0 ∧
      (lookUpSpan (back m) 0 (pageA .closed) 0 1).error (back m) 0 (pageA .closed) 0 1 = some .lineArt) ∧
    (∀ l, ((back .stop).lane l).mode ≠ .run) ∧
    QueuesSafe storeError ∧ storeError.engine = .active ∧
    storeError.grantsRun (.composer 0) (rowRequestsLeft storeError 0 ⟨contextA, 4, []⟩) = true ∧
    storeError.page 0 = some { pageA .closed with lockCount := 2 } ∧
    (storeError.lane 0).buffer.length < storeError.highWater 0 ∧ (storeError.lane 0).frontCtx = some ⟨contextA, 4, []⟩ ∧
    (storeError.lane 0).front = some (plateA 7 .exposing) ∧ (pageA .closed).key = contextA.key ∧
    (pageA .closed).th = contextA.th ∧
    4 / 256 * 1 < (pageA .closed).tiles.length ∧ findPatch storeError.patches 0 0 (4 / 256) = none ∧
    tileDamaged storeError.patches 0 { pageA .closed with lockCount := 2 } 0 (4 / 256) = false ∧
    storeError.bad (frameBase 0 + spanOffset 1 0 4) = true :=
  ⟨⟨queuesSafe_of (by decide) (by decide), by decide +kernel⟩, ⟨queuesSafe_of (by decide) (by decide), by decide +kernel⟩,
   by
    intro m hm
    fin_cases hm <;> exact ⟨queuesSafe_of (by decide) (by decide), by decide +kernel⟩,
   by decide +kernel, queuesSafe_of (by decide) (by decide), by decide +kernel⟩

theorem witness_ReadyStartsBufferedPlate :
    ((loaded .run 1).lane 0).front = none ∧ ((loaded .run 1).lane 0).drumReady = false ∧
    ((loaded .run 1).lane 0).mode ≠ .fault ∧ ((loaded .run 1).lane 0).backCtx = some ⟨contextA, 1, []⟩ ∧
    (rowsOf .back ((loaded .run 1).lane 0).buffer).length < min ((loaded .run 1).preload 0) (1 * 256) ∧
    ((loaded .stop 2).lane 0).mode = .stop ∧
    QueuesSafe (loaded .run 2) ∧ ((loaded .run 2).lane 0).mode = .run ∧
    ((loaded .run 2).lane 0).back = some (plateA 8 .loading) ∧
    ((loaded .run 2).lane 0).backCtx = some ⟨contextA, 2, []⟩ ∧
    min ((loaded .run 2).preload 0) (1 * 256) ≤ (rowsOf .back ((loaded .run 2).lane 0).buffer).length :=
  ⟨by decide +kernel, by decide +kernel, by decide +kernel, by decide +kernel, by decide +kernel, by decide +kernel,
   queuesSafe_of (by decide) (by decide), by decide +kernel⟩

/-- The last row of a plate buffered: a PULL of it finishes the plate; with a row owed it is an underrun. -/
def pulling (owed composed : Nat) : State :=
  lane0 (fun L => { L with owed := owed, frontCtx := some ⟨contextA, composed, []⟩ }) (busy .exposing)

theorem witness_PullFeedsFrontPlate :
    QueuesSafe (pulling 0 256) ∧ ((pulling 0 256).lane 0).mode ≠ .fault ∧
    ((pulling 0 256).lane 0).front = some (plateA 7 .exposing) ∧ 1 ≤ (64#16).toNat ∧ (64#16).toNat ≤ 64 ∧
    (plateA 7 .exposing).state = .exposing ∧ ((pulling 0 256).lane 0).owed = 0 ∧
    ((pulling 0 256).lane 0).frontCtx = some ⟨contextA, 256, []⟩ ∧
    0 < min 64 (((pulling 0 256).lane 0).buffer.takeWhile fun r => r.mark == .front).length ∧
    rowsOf .front (((pulling 0 256).lane 0).buffer.drop 1) = [] ∧
    ((pulling 0 255).lane 0).frontCtx = some ⟨contextA, 255, []⟩ ∧ 255 < 1 * 256 ∧
    0 < ((pulling 1 255).lane 0).owed ∧ QueuesSafe (pulling 1 255) ∧ QueuesSafe (busy .cancelling) ∧
    ((busy .cancelling).lane 0).front = some (plateA 7 .cancelling) :=
  ⟨queuesSafe_of (by decide) (by decide), by decide +kernel, by decide +kernel, by decide, by decide, rfl,
   by decide +kernel, by decide +kernel, by decide +kernel, by decide +kernel, by decide +kernel, by decide,
   by decide +kernel, queuesSafe_of (by decide) (by decide), busy_safe _ rfl, by decide +kernel⟩

/-- The state `busy` with lane 0 in STOP and the front plate's withdraw pending, attempt and pending spoil set. -/
def settling (st : PlateState) (withdraw : Bool) (attempt : Nat) : State :=
  lane0 (fun L => { L with
      mode := .stop
      queue := [{ plateA 7 st with withdrawPending := withdraw, attempt := attempt, spoil := some .underrun },
                plateA 8 .loading] }) (busy st)

theorem witness_ExposedPlateLeavesLane :
    QueuesSafe (settling .finishing false 1) ∧ QueuesSafe (settling .cancelling true 1) ∧
    ((settling .cancelling true 1).lane 0).mode ≠ .fault ∧
    ((settling .finishing false 1).lane 0).front = some { plateA 7 .finishing with spoil := some .underrun } ∧
    ((settling .cancelling true 1).lane 0).front =
      some { plateA 7 .cancelling with withdrawPending := true, spoil := some .underrun } ∧
    (∀ l, ((settling .finishing false 1).lane l).mode ≠ .run) ∧
    (settling .finishing false 1).present keyA = some (0, { pageA .closed with lockCount := 2 }) ∧
    QueuesSafe (busy .finishing) ∧ ((busy .finishing).lane 0).mode = .run ∧
    ((busy .finishing).lane 0).drumReady = false :=
  ⟨queuesSafe_of (by decide) (by decide), queuesSafe_of (by decide) (by decide), by decide +kernel, by decide +kernel,
   by decide +kernel, by decide +kernel, by decide +kernel, busy_safe _ rfl, by decide +kernel⟩

/-- Below the allowance of 2, in STOP and in RUN, at it, and with a withdraw pending. -/
theorem witness_EjectedPlateIsResolved :
    QueuesSafe (settling .cancelling false 1) ∧ QueuesSafe (settling .cancelling false 2) ∧
    QueuesSafe (settling .cancelling true 2) ∧ ((settling .cancelling false 1).lane 0).mode ≠ .fault ∧
    ((settling .cancelling false 2).lane 0).front =
      some { plateA 7 .cancelling with attempt := 2, spoil := some .underrun } ∧
    ((settling .cancelling true 2).lane 0).front =
      some { plateA 7 .cancelling with attempt := 2, withdrawPending := true, spoil := some .underrun } ∧
    (∀ l, ((settling .cancelling false 1).lane l).mode ≠ .run) ∧
    (((busy .cancelling).lane 0).front = some (plateA 7 .cancelling) ∧ ((busy .cancelling).lane 0).mode = .run ∧
      ((busy .cancelling).lane 0).drumReady = false ∧
      (plateA 7 .cancelling).attempt < (plateA 7 .cancelling).allowance) ∧ QueuesSafe (busy .cancelling) :=
  ⟨queuesSafe_of (by decide) (by decide), queuesSafe_of (by decide) (by decide),
   queuesSafe_of (by decide) (by decide), by decide +kernel, by decide +kernel, by decide +kernel, by decide +kernel,
   by decide +kernel, busy_safe _ rfl⟩

/-- A rush plate accepted while a returned plate stands behind one on the drum (R118): it goes behind both. -/
theorem test_rush_goes_behind_returned :
    placePlate { plateA 9 .queued with rush := true }
        [plateA 7 .exposing, { plateA 8 .queued with returned := true }, plateA 6 .queued] =
      [plateA 7 .exposing, { plateA 8 .queued with returned := true }, { plateA 9 .queued with rush := true },
       plateA 6 .queued] := by decide

/-- A front plate EXPOSING below its allowance in RUN, FINISHING at it in a part where no lane runs, FINISHING below it
there, and CANCELLING with a withdraw pending, at the allowance and below it. -/
theorem witness_SetterFaultStopsLane :
    (((loaded .run 2).lane 0).front = none ∧ QueuesSafe (busy .exposing) ∧ ((busy .exposing).lane 0).mode ≠ .fault ∧
      ((busy .exposing).lane 0).front = some (plateA 7 .exposing) ∧ (plateA 7 .exposing).withdrawPending = false ∧
      (plateA 7 .exposing).attempt < (plateA 7 .exposing).allowance ∧ ((busy .exposing).lane 0).drumReady = false ∧
      (busy .exposing).reports.length + 4 ≤ 64) ∧
    (QueuesSafe (settling .finishing false 2) ∧ ((settling .finishing false 2).lane 0).drumReady = false ∧
      ((settling .finishing false 2).lane 0).mode ≠ .fault ∧ ((settling .finishing false 2).lane 0).front =
        some { plateA 7 .finishing with attempt := 2, spoil := some .underrun }) ∧
    (QueuesSafe (settling .finishing false 1) ∧ (∀ l, ((settling .finishing false 1).lane l).mode ≠ .run)) ∧
    (QueuesSafe (settling .cancelling true 2) ∧ ((settling .cancelling true 2).lane 0).drumReady = false ∧
      ((settling .cancelling true 2).lane 0).front =
        some { plateA 7 .cancelling with attempt := 2, withdrawPending := true, spoil := some .underrun }) ∧
    (QueuesSafe (settling .cancelling false 2) ∧ ((settling .cancelling false 2).lane 0).front =
      some { plateA 7 .cancelling with attempt := 2, spoil := some .underrun }) ∧
    (QueuesSafe (settling .cancelling false 1) ∧ ((settling .cancelling false 1).lane 0).front =
      some { plateA 7 .cancelling with spoil := some .underrun }) :=
  ⟨⟨by decide +kernel, queuesSafe_of (by decide) (by decide), by decide +kernel⟩,
   ⟨queuesSafe_of (by decide) (by decide), by decide +kernel⟩, ⟨queuesSafe_of (by decide) (by decide), by decide +kernel⟩,
   ⟨queuesSafe_of (by decide) (by decide), by decide +kernel⟩, ⟨queuesSafe_of (by decide) (by decide), by decide +kernel⟩,
   queuesSafe_of (by decide) (by decide), by decide +kernel⟩

theorem witness_MessagesRestartLinkTimer :
    (liveA.lane 0).mode = .fault ∧ (liveA.lane 0).front = none ∧ (liveA.lane 0).drumReady = false ∧
    ((busy .exposing).lane 0).mode ≠ .fault ∧ ((busy .exposing).lane 0).front ≠ none ∧
    Instr.ready 0 ∈ [Instr.ready 0, .pull 0 1, .exposed 0 7, .ejected 0 7, .setterFault 0 .jam, .setterIdle 0] ∧
    Instr.ready 0 ≠ .setterFault 0 .jam ∧
    (0#16).toNat = 0 ∧ 64 < (65#16).toNat ∧ ((loaded .run 2).lane 0).mode ≠ .fault ∧
    ((loaded .run 2).lane 0).front = none ∧
    ((busy .exposing).lane 0).front = some (plateA 7 .exposing) ∧ (plateA 7 .exposing).tag ≠ 6 ∧
    ((busy .finishing).lane 0).front = some (plateA 7 .finishing) := by decide +kernel

/-- 1000 and 999 ticks after the last message, the front plate below its allowance, at it, or with a withdraw pending;
a lane with neither plate; 100 and 99 ticks after the last message sent. -/
theorem witness_LinkTimersAreKept :
    let s (c : Tick) : State := { busy .exposing with clock := c }
    let u (wd : Bool) (n : Nat) : State := { settling .cancelling wd n with clock := 5990 }
    let v : State := { waiting with clock := 5990 }
    (QueuesSafe (s 5990) ∧ ((s 5990).lane 0).mode ≠ .fault ∧ ((s 5990).lane 0).lastMessage = some 4990 ∧
      1000 ≤ ((s 5990).clock - 4990).toNat ∧ ((s 5989).clock - 4990).toNat < 1000 ∧ (liveA.lane 0).mode = .fault ∧
      ((s 5990).lane 0).front = some (plateA 7 .exposing) ∧ ((s 5990).lane 0).back = some (plateA 8 .loading) ∧
      (plateA 7 .exposing).attempt < (plateA 7 .exposing).allowance ∧
      2147483648 ≤ ((s 5990).clock - (plateA 8 .loading).latestStart).toNat) ∧
    (QueuesSafe (u true 1) ∧ ((u true 1).lane 0).front =
      some { plateA 7 .cancelling with withdrawPending := true, spoil := some .underrun }) ∧
    (QueuesSafe (u false 2) ∧ ((u false 2).lane 0).front =
      some { plateA 7 .cancelling with attempt := 2, spoil := some .underrun }) ∧
    (QueuesSafe v ∧ (v.lane 0).mode ≠ .fault ∧ (v.lane 0).lastMessage = some 4990 ∧ (v.lane 0).front = none ∧
      (v.lane 0).back = none) ∧
    100 ≤ ((s 5050).clock - ((s 5050).lane 0).lastSent).toNat ∧
    ((s 5049).clock - ((s 5049).lane 0).lastSent).toNat < 100 :=
  ⟨⟨queuesSafe_of (by decide) (by decide), by decide +kernel⟩, ⟨queuesSafe_of (by decide) (by decide), by decide +kernel⟩,
   ⟨queuesSafe_of (by decide) (by decide), by decide +kernel⟩, ⟨queuesSafe_of (by decide) (by decide), by decide +kernel⟩,
   by decide +kernel⟩

/-! ## Witnesses: segments -/

theorem witness_PlainSegmentsAreMarkedDone :
    let s (kind : Byte) := taken kind 0 0 [1] liveA
    Memory.wf (s 7).mem = true ∧ (s 7).unpacker = .working (segA 7 0 0 1) .taken ∧ (s 7).unpackerPage = none ∧
    (segA 7 0 0 1).header.kind = 7 ∧ (s 8).unpacker = .working (segA 8 0 0 1) .taken ∧ Memory.wf (s 8).mem = true ∧
    7 < (segA 8 0 0 1).header.kind.toNat ∧ (segA 0 0 0 1).header.kind.toNat = 0 ∧
    (∀ l, ((s 7).lane l).mode ≠ .run) ∧ (∀ l, ((s 8).lane l).mode ≠ .run) := by decide +kernel

/-- A remake of tile (0, 0) out of place, free to claim, behind a lock, and behind a lock and 8 deferred entries; a
PAGE CLOSE whose reads wait. -/
theorem witness_SegmentsClaimTheirPage :
    let s (p : Page) := taken 6 0 0 [0xFF] (live p)
    let g := segA 6 0 0 1
    let locked := { pageA .closed with lockCount := 1 }
    let full := { locked with deferred := [64, 96, 128, 160, 192, 224, 256, 288] }
    let waits := landing (taken 5 0 0 [] liveA)
    Memory.wf (s locked).mem = true ∧ (s locked).unpackerPage = none ∧ (s locked).unpacker = .working g .taken ∧
    g.header.kind.toNat = 6 ∧ State.reset.findPage g.header.key = none ∧
    (s (pageA .opened)).present keyA = some (0, pageA .opened) ∧ headerTest (pageA .opened) g.header = false ∧
    (s (pageA .closed)).present keyA = some (0, pageA .closed) ∧ headerTest (pageA .closed) g.header = true ∧
    (pageA .closed).lockCount = 0 ∧ (s locked).present keyA = some (0, locked) ∧ headerTest locked g.header = true ∧
    0 < locked.lockCount ∧ locked.deferred.length < 8 ∧ (⟨g, .landed⟩ : LandedEntry) ∈ (s locked).landed ∧
    (s full).present keyA = some (0, full) ∧ 8 ≤ full.deferred.length ∧
    (waits.unpacker = .working (segA 5 0 0 0) .taken ∧ segmentGranted waits (segA 5 0 0 0) 0 = false ∧
      (beside [.profileLoader] (taken 5 0 0 [] liveA)).grants .unpacker = false ∧
      (beside [.unpacker, .profileLoader] (taken 5 0 0 [] liveA)).grants .unpacker = true ∧
      segmentGranted (twoReads [.unpacker, .profileLoader]) roundEnd 0 = false ∧
      headerTest (pageA .closed) (segA 5 0 0 0).header = true ∧ Memory.wf waits.mem = true) ∧
    (∀ c ∈ [(2, Instr.strip .whole), (3, .photoHead .whole), (5, .pageClose .whole)],
      let h := segA (BitVec.ofNat 8 c.1) 0 0 0
      let w := landing (claimed (taken (BitVec.ofNat 8 c.1) 0 0 [] liveA))
      w.unpacker = .working h .claimed ∧ w.unpackerPage = some 0 ∧ w.page 0 = some (pageA .closed) ∧
      segmentGranted w h (if h.header.kind = 2 then stripWrites h (pageA .closed) w else 0) = false ∧
      h.header.kind.toNat = c.1) ∧
    ({ s full with unpacker := .stalled g .deferral none true } : State).unpacker = .stalled g .deferral none true := by
  decide +kernel

/-- A PAGE OPEN of 64 by 128 tiles and slot 3, one of 65, one with a bad trailer, one without a FREE frame, one judged,
and one whose reads wait. -/
theorem witness_PageOpenCreatesPage :
    let base : State := { liveA with pages := [some { pageA .closed with key := ⟨1, 1, 0⟩ }, none] }
    let s (tw : Byte) := taken 1 0 0 [tw, 128, 3] base
    let g := segA 1 0 0 3
    Memory.wf (s 64).mem = true ∧ Memory.wf (s 65).mem = true ∧
    (s 64).unpackerPage = none ∧ (s 64).unpacker = .working g .taken ∧ g.header.kind = 1 ∧
    (s 64).findPage g.header.key = none ∧ crcGood (s 64) g = true ∧ openGood (s 64) g = true ∧
    segmentGranted (s 64) g 0 = true ∧ segmentGranted (landing (s 64)) g 0 = false ∧
    1 < (s 64).pages.length ∧ (s 64).page 1 = none ∧ (∀ k, k < 1 → (s 64).page k ≠ none) ∧
    crcGood (s 65) g = true ∧ openGood (s 65) g = false ∧
    crcGood { s 64 with mem := memWrite (s 64).mem (ringBase + 19) 0 } g = false ∧
    ({ s 64 with pages := base.pages.take 1 } : State).freeFrame = none ∧
    ({ s 64 with pages := base.pages.take 1 } : State).findPage g.header.key = none ∧
    ((taken 1 0 0 [1, 1, 0] liveA).findPage g.header.key).isSome = true ∧
    ({ s 64 with unpacker := .working g .opening } : State).unpacker = .working g .opening ∧
    segmentGranted { landing (s 64) with unpacker := .working g .opening } g 0 = false ∧
    ({ s 64 with unpacker := .working g (.judged ⟨64, 128, 3⟩) } : State).unpacker = .working g (.judged ⟨64, 128, 3⟩) ∧
    ({ s 64 with unpacker := .stalled g .frames (some ⟨64, 128, 3⟩) true } : State).unpacker =
      .stalled g .frames (some ⟨64, 128, 3⟩) true := by decide +kernel

/-- The strip of section 3.4 as the last strip of an OPEN page. -/
theorem witness_GoodStripIsDecodedIntoFrame :
    let s := taken 2 15 0 stripPayload (live (pageA .opened))
    let g := segA 2 15 0 14
    Memory.wf s.mem = true ∧ UnpackerHas g 0 s ∧ UnpackerHas g 0 (claimed s) ∧ g.header.kind = 2 ∧
    s.present g.header.key = some (0, pageA .opened) ∧ (pageA .opened).state = .opened ∧
    g.header.locator < (pageA .opened).th * 16 ∧ segmentGranted s g (stripWrites g (pageA .opened) s) = true ∧
    crcGood s g = true ∧
    (lineDecode ((pageA .opened).tw * 256) 16 (payloadOf s g)).error = false := by decide +kernel

/-- The strip with a byte changed in the ring, and the strip cut to end in an error. -/
theorem witness_BadCrcStripIsRefused :
    let t := taken 2 15 0 stripPayload (live (pageA .opened))
    let s : State := { t with mem := memWrite t.mem (ringBase + 16) 1 }
    let u := taken 2 15 0 (stripPayload.dropLast ++ [0xCA]) (live (pageA .opened))
    let g := segA 2 15 0 14
    Memory.wf s.mem = true ∧ UnpackerHas g 0 s ∧ UnpackerHas g 0 (claimed s) ∧
    s.present g.header.key = some (0, pageA .opened) ∧ segmentGranted s g (stripWrites g (pageA .opened) s) = true ∧
    crcGood s g = false ∧
    Memory.wf u.mem = true ∧ UnpackerHas g 0 u ∧ UnpackerHas g 0 (claimed u) ∧
    segmentGranted u g (stripWrites g (pageA .opened) u) = true ∧ crcGood u g = true ∧
    (lineDecode 256 16 (payloadOf u g)).error = true := by decide +kernel

/-- A photo of scale 8 over the page's one tile, which fills the photo area to its last byte, or is one byte too large;
the same photo again, another at the same index, and one that shares its tile; a scale code of 2; a bad trailer. -/
theorem witness_NewPhotoIsPlaced :
    let p := { pageA .closed with photoFill := 33554432 - 1024 }
    let full := { pageA .closed with photoFill := 33554432 - 1023 }
    let with0 (i : Nat) (scale : Nat) := { p with photos := [⟨i, 0, 0, 1, 1, scale, 0, 3, .receiving⟩] }
    let s (p : Page) := taken 3 0 0 [0, 0, 1, 1, 1] (live p)
    let bad := taken 3 0 0 [0, 0, 1, 1, 2] (live p)
    let g := segA 3 0 0 5
    let r := headRecord (s p) g
    let size := (r.w * 256 / r.scale) * (r.h * 256 / r.scale)
    (Memory.wf (s p).mem = true ∧ UnpackerHas g 0 (s p) ∧ UnpackerHas g 0 (claimed (s p)) ∧ g.header.kind = 3 ∧
      (s p).present g.header.key = some (0, p) ∧ headerTest p g.header = true ∧ segmentGranted (s p) g 0 = true ∧
      crcGood (s p) g = true ∧ headGood (s p) g p = true ∧ p.photo g.header.locator = none ∧
      (∀ q ∈ p.photos, r.shares q = false) ∧ p.photoFill + size ≤ 33554432) ∧
    33554432 < full.photoFill + size ∧ (with0 0 8).photo 0 = some ⟨0, 0, 0, 1, 1, 8, 0, 3, .receiving⟩ ∧ r.scale = 8 ∧
    (with0 0 4).photo 0 = some ⟨0, 0, 0, 1, 1, 4, 0, 3, .receiving⟩ ∧ (with0 1 8).photo 0 = none ∧
    r.shares ⟨1, 0, 0, 1, 1, 8, 0, 3, .receiving⟩ = true ∧ crcGood bad g = true ∧ headGood bad g p = false ∧
    crcGood { s p with mem := memWrite (s p).mem (ringBase + 16) 7 } g = false := by decide +kernel

/-- The last row of a photo of 32 by 32 samples, with the rows before it landed or missing; a decode error; a photo
COMPLETE, one past the row, one absent; a bad trailer. -/
theorem witness_PhotoRowsAreWritten :
    let r (n : Nat) (st : PhotoState) : PhotoRecord := ⟨0, 0, 0, 1, 1, 8, 0, n, st⟩
    let p (n : Nat) (st : PhotoState) := { pageA .closed with photos := [r n st], photoFill := 1024 }
    let s := taken 4 0 31 [158, 0x33] (live (p 31 .receiving))
    let u := taken 4 0 31 [0xFF] (live (p 3 .receiving))
    let g := segA 4 0 31 2
    (r 0 .receiving).scale = 8 ∧ (3 < 31) ∧
    Memory.wf s.mem = true ∧ UnpackerHas g 0 s ∧ UnpackerHas g 0 (claimed s) ∧ g.header.kind = 4 ∧
    UnpackerHas g 0 (landing s) ∧ segmentGranted (landing s) g (partWrites g (r 31 .receiving) (landing s)) = false ∧
    s.present g.header.key = some (0, p 31 .receiving) ∧ headerTest (p 31 .receiving) g.header = true ∧
    segmentGranted s g (partWrites g (r 31 .receiving) s) = true ∧
    (p 31 .receiving).photo g.header.locator = some (r 31 .receiving) ∧
    (r 31 .receiving).nextRow ≤ g.header.arg ∧ (r 3 .receiving).nextRow < g.header.arg ∧
    g.header.arg < photoHeight 1 8 ∧ 0 < photoWidth 1 8 ∧ crcGood s g = true ∧
    (toneDecode ((photoHeight 1 8 - 31) * photoWidth 1 8) (payloadOf s g)).error = false ∧
    crcGood u (segA 4 0 31 1) = true ∧
    (toneDecode ((photoHeight 1 8 - 31) * photoWidth 1 8) (payloadOf u (segA 4 0 31 1))).error = true ∧
    (∀ l, (u.lane l).mode ≠ .run) ∧ (pageA .closed).photo 0 = none ∧ (p 32 .complete).photo 0 = some (r 32 .complete) ∧
    g.header.arg < (r 32 .receiving).nextRow ∧ photoHeight 1 8 ≤ 32 ∧
    crcGood { s with mem := memWrite s.mem (ringBase + 16) 7 } g = false := by decide +kernel

/-- An OPEN page and a CLOSED one, with a photo of 31 rows landed and one COMPLETE; a bad trailer. -/
theorem witness_PageCloseEndsPageOrRevision :
    let p (st : PageState) := { pageA st with
      photos := [⟨0, 0, 0, 1, 1, 8, 0, 31, .receiving⟩, ⟨3, 0, 0, 1, 1, 8, 1024, 32, .complete⟩] }
    let s (st : PageState) := taken 5 0 0 [] (live (p st))
    let g := segA 5 0 0 0
    Memory.wf (s .opened).mem = true ∧ UnpackerHas g 0 (s .opened) ∧ UnpackerHas g 0 (claimed (s .opened)) ∧
    g.header.kind = 5 ∧ (s .opened).present keyA = some (0, p .opened) ∧ headerTest (p .opened) g.header = true ∧
    segmentGranted (s .opened) g 0 = true ∧ crcGood (s .opened) g = true ∧
    ((p .opened).photos.map PhotoRecord.index).Pairwise (· < ·) ∧ (31 < photoHeight 1 8) ∧
    (s .closed).present keyA = some (0, p .closed) ∧ headerTest (p .closed) g.header = true ∧
    crcGood (s .closed) g = true ∧
    crcGood { s .opened with mem := memWrite (s .opened).mem (ringBase + 16) 7 } g = false := by decide +kernel

/-- A remake of 256 white rows, as a tile's first patch and as its second, and with its slot taken; one with a bad trailer,
one that ends too early, one whose reads wait; and with no place in the table, a purge pending or not. -/
theorem witness_RemakeMovesTileToNewSlot :
    let s := taken 6 0 0 [0xFB, 0xFB, 0xFB, 0xFB, 0xCF] liveA
    let g := segA 6 0 0 5
    let again : State := { s with patches := [⟨0, 0, 0, 4095, true⟩], slotsInUse := [4095], slotPointer := 4095 }
    let none4 : State := { s with patches := List.replicate 4000 ⟨1, 0, 0, 5, false⟩ }
    let short := taken 6 0 0 [0xFB] liveA
    Memory.wf s.mem = true ∧ s.page 0 = some (pageA .closed) ∧ UnpackerHas g 0 s ∧
    UnpackerHas g 0 (claimed s) ∧ g.header.kind = 6 ∧ s.present keyA = some (0, pageA .closed) ∧
    headerTest (pageA .closed) g.header = true ∧ segmentGranted s g (remakeWrites g s) = true ∧
    segmentGranted (landing s) g (remakeWrites g (landing s)) = false ∧
    remakeSlot s 0 0 0 = some 0 ∧ remakeSlot again 0 0 0 = some 0 ∧ remakeSlot (landing s) 0 0 0 = some 0 ∧
    (∀ e ∈ again.patches, e.slot ∈ insertSorted 0 again.slotsInUse ∧ e.slot ≠ 0) ∧ crcGood s g = true ∧
    (decoding.unpackerPage = some 0 ∧ decoding.unpacker = .working g (.decoding 0) ∧ 0 ∈ decoding.slotsInUse ∧
      (∀ e ∈ decoding.patches, e.slot ∈ decoding.slotsInUse ∧ e.slot ≠ 0) ∧
      segmentGranted decoding g (remakeWrites g decoding) = false ∧
      segmentGranted (beside [.unpacker] decoding) g (remakeWrites g (beside [.unpacker] decoding)) = true ∧
      crcGood decoding g = true ∧ Memory.wf decoding.mem = true ∧
      decoding.page 0 = some { pageA .closed with damaged := 1 }) ∧
    ({ pageA .closed with purgePending := some 9 } : Page).purgePending.isSome ∧ (pageA .closed).purgePending = none ∧
    (lineDecode 256 256 (payloadOf s g)).error = false ∧ remakeSlot none4 0 0 0 = none ∧
    crcGood { s with mem := memWrite s.mem (ringBase + 16) 7 } g = false ∧ crcGood short (segA 6 0 0 1) = true ∧
    (lineDecode 256 256 (payloadOf short (segA 6 0 0 1))).error = true ∧
    ({ s with unpackerPage := some 0, unpacker := .stalled g .patches none true } : State).unpacker =
      .stalled g .patches none true := by decide +kernel

end Sys2Proof.Tests
end

section
/-! ## Finding pages, plates and lanes -/

namespace Sys2Proof.Machine

/-! ### Pages by key -/

theorem findPage_eq_some {s : State} {k : Key} {f : Nat} (h : s.findPage k = some f) :
    ∃ p, s.page f = some p ∧ p.key = k := by
  obtain ⟨hf, hk, -⟩ := List.findIdx?_eq_some_iff_getElem.1 h
  have hp : s.page f = s.pages[f] := by simp [State.page, List.getD_eq_getElem?_getD, hf]
  rw [hp]
  cases hr : s.pages[f] with
  | none => simp [holdsKey, hr] at hk
  | some p => exact ⟨p, rfl, by simpa [holdsKey, hr] using hk⟩

theorem present_eq_some {s : State} {k : Key} {f : Nat} {p : Page} :
    s.present k = some (f, p) ↔ s.findPage k = some f ∧ s.page f = some p := by
  unfold State.present
  constructor
  · intro h
    split at h
    · split at h
      · obtain ⟨rfl, rfl⟩ : _ = f ∧ _ = p := by simpa using h
        exact ⟨‹_›, ‹_›⟩
      · cases h
    · cases h
  · rintro ⟨hf, hp⟩
    simp [hf, hp]

theorem present_key {s : State} {k : Key} {f : Nat} {p : Page} (h : s.present k = some (f, p)) : p.key = k := by
  obtain ⟨hf, hp⟩ := present_eq_some.1 h
  obtain ⟨q, hq, hk⟩ := findPage_eq_some hf
  rwa [Option.some.inj (hp.symm.trans hq)]

theorem present_eq_none {s : State} {k : Key} : s.present k = none ↔ s.findPage k = none := by
  constructor
  · intro h
    by_contra hn
    obtain ⟨f, hf⟩ := Option.ne_none_iff_exists'.1 hn
    obtain ⟨p, hp, -⟩ := findPage_eq_some hf
    rw [present_eq_some.2 ⟨hf, hp⟩] at h
    cases h
  · intro h
    simp [State.present, h]

/-- The lowest-numbered FREE frame (R4). -/
theorem freeFrame_eq_some {s : State} {f : Nat} (hl : f < s.pages.length) (hf : s.page f = none)
    (hg : ∀ g, g < f → s.page g ≠ none) : s.freeFrame = some f := by
  have page_getElem : ∀ g (h : g < s.pages.length), s.page g = s.pages[g] := fun g h => by
    simp [State.page, List.getD_eq_getElem?_getD, h]
  refine List.findIdx?_eq_some_iff_getElem.2 ⟨hl, by simp [← page_getElem f hl, hf], fun g hgf => ?_⟩
  have := hg g hgf
  rw [page_getElem g (by omega)] at this
  simpa using this

/-! ### Changing a page -/

theorem modPage_eq {s : State} {f : Nat} {p : Page} (h : s.page f = some p) (g : Page → Page) :
    modPage f g s = { s with pages := s.pages.set f (some (g p)) } := by
  simp only [modPage, h, setPage]

theorem modPage_modPage (f : Nat) (g h : Page → Page) (s : State) :
    modPage f g (modPage f h s) = modPage f (fun p => g (h p)) s := by
  cases hp : s.page f with
  | none => simp [modPage, hp]
  | some p =>
    rw [modPage_eq (page_modPage h hp), modPage_eq hp, modPage_eq hp]
    simp

theorem pages_set_self {s : State} {f : Nat} {p : Page} (h : s.page f = some p) :
    s.pages.set f (some p) = s.pages := by
  have hl := page_lt h
  have : s.pages[f] = some p := by simpa [State.page, List.getD_eq_getElem?_getD, hl] using h
  rw [← this, List.set_getElem_self]

theorem withPages_self {s : State} {f : Nat} {p : Page} (h : s.page f = some p) :
    { s with pages := s.pages.set f (some p) } = s := by rw [pages_set_self h]

/-! ### Plates by tag -/

theorem mem_allLanes (l : LaneId) : l ∈ allLanes := by revert l; decide

theorem findPlate_isSome {s : State} {tag : Tag} : (s.findPlate tag).isSome = true ↔ tag ∈ liveTags s := by
  unfold State.findPlate liveTags Lane.plate
  simp [List.findSome?_isSome_iff]

theorem findPlate_eq_none {s : State} {tag : Tag} : s.findPlate tag = none ↔ tag ∉ liveTags s := by
  rw [← findPlate_isSome, Bool.not_eq_true, Option.isSome_eq_false_iff, Option.isNone_iff_eq_none]

theorem laneOf_eq_some {b : Byte} {l : LaneId} (h : b.toNat = l.val) : laneOf b = some l := by
  unfold laneOf
  have := l.isLt
  rw [dif_pos (by omega)]
  simp [h]

theorem laneOf_eq_none {b : Byte} (h : 3 < b.toNat) : laneOf b = none := by
  unfold laneOf
  rw [dif_neg (by omega)]

end Sys2Proof.Machine
end

section
/-! ## Orders answered by their ORDER DONE alone, local pages, and the state after reset -/

namespace Sys2Proof.Machine

/-! ### The executor -/

theorem finishOrder_of_cons {s : State} {o : Order} {os : List Order} (h : s.orderQueue = o :: os) :
    finishOrder s = { s with inHand := some o, orderQueue := os } := by
  simp [finishOrder, takeOrder, h]

theorem finishOrder_of_nil {s : State} (h : s.orderQueue = []) : finishOrder s = { s with inHand := none } := by
  simp [finishOrder, takeOrder, h]

/-- The executor's next order is chosen from what no reaction changes. -/
theorem steady_finishOrder (s : State) : (finishOrder s).steady = finishOrder s.steady := by
  cases h : s.orderQueue with
  | nil => rw [finishOrder_of_nil h, finishOrder_of_nil (s := s.steady) h]; rfl
  | cons o os => rw [finishOrder_of_cons h, finishOrder_of_cons (s := s.steady) h]; rfl

theorem finishOrder_reports (s : State) : (finishOrder s).reports = s.reports := by
  cases h : s.orderQueue with
  | nil => rw [finishOrder_of_nil h]
  | cons o os => rw [finishOrder_of_cons h]

theorem finishOrder_mem (s : State) : (finishOrder s).mem = s.mem := by
  cases h : s.orderQueue with
  | nil => rw [finishOrder_of_nil h]
  | cons o os => rw [finishOrder_of_cons h]

theorem finishOrder_lanes (s : State) : (finishOrder s).lanes = s.lanes := by
  cases h : s.orderQueue with
  | nil => rw [finishOrder_of_nil h]
  | cons o os => rw [finishOrder_of_cons h]

/-- An order of the command's kind is decided, and the executor goes on (R153). -/
theorem handleOrder_of_kind {s : State} {o : Order} {kind : Byte} (h : s.inHand = some o) (hk : o.kind = kind)
    (d : Order → State → State) : handleOrder kind d s = finishOrder (d o s) := by
  simp [handleOrder, h, hk]

/-- An order of a kind that is answered by its ORDER DONE alone. -/
theorem handleOrder_answer {s : State} {o : Order} {kind : Byte} (h : s.inHand = some o) (hk : o.kind = kind)
    {d : Order → State → State} {oc : OrderOutcome} (hd : d o s = answer o oc s) :
    Host.Outcome.next (φ := Fault) (ρ := Refusal) (handleOrder kind d s) =
      .next (finishOrder (submit (orderDone o oc 0 0) s)) := by
  rw [handleOrder_of_kind h hk, hd, answer]

/-! ### What each order's owner answers -/

theorem unknownOrder_answer {s : State} {o : Order} (h : s.inHand = some o)
    (hk : o.kind.toNat = 0 ∨ 9 < o.kind.toNat) :
    unknownOrder s = finishOrder (answer o .unknownOrder s) := by
  have : unknownOrderCode o.kind = true := decide_eq_true (by omega)
  simp [unknownOrder, h, this]

theorem decideQueue_badField {s : State} {o : Order} (h : 3 < o.lane.toNat) :
    decideQueue o s = answer o .badField s := by
  simp [decideQueue, laneOf_eq_none h]

theorem decideQueue_noPage {s : State} {o : Order} (hl : o.lane.toNat ≤ 3) (h : s.findPage o.key = none) :
    decideQueue o s = answer o .noPage s := by
  simp [decideQueue, laneOf_eq_some (l := ⟨o.lane.toNat, by omega⟩) rfl, h]

theorem decideQueue_duplicateTag {s : State} {o : Order} (hl : o.lane.toNat ≤ 3)
    (h : (s.findPage o.key).isSome = true) (ht : o.tag ∈ liveTags s) :
    decideQueue o s = answer o .duplicateTag s := by
  have h' : s.findPage o.key ≠ none := Option.isSome_iff_ne_none.1 h
  simp [decideQueue, laneOf_eq_some (l := ⟨o.lane.toNat, by omega⟩) rfl, h', findPlate_isSome.2 ht]

theorem decideQueue_queueFull {s : State} {o : Order} {l : LaneId} (hl : o.lane.toNat = l.val)
    (h : (s.findPage o.key).isSome = true) (ht : o.tag ∉ liveTags s) (hq : 16 ≤ (s.lane l).queue.length) :
    decideQueue o s = answer o .queueFull s := by
  have h' : s.findPage o.key ≠ none := Option.isSome_iff_ne_none.1 h
  simp [decideQueue, laneOf_eq_some hl, h', findPlate_eq_none.2 ht, hq]

theorem decideWithdraw_noPlate {s : State} {o : Order} (ht : o.tag ∉ liveTags s) :
    decideWithdraw o s = answer o .noPlate s := by
  simp [decideWithdraw, findPlate_eq_none.2 ht]

theorem decidePurge_noPage {s : State} {o : Order} (h : s.findPage o.key = none) :
    decidePurge o s = answer o .noPage s := by
  simp [decidePurge, present_eq_none.2 h]

theorem decidePurge_busy {s : State} {o : Order} {f : Nat} {p : Page} (h : s.present o.key = some (f, p))
    (hb : 0 < p.lockCount ∨ p.purgePending.isSome = true) : decidePurge o s = answer o .busy s := by
  rcases hb with hb | hb <;> simp [decidePurge, h, hb]

theorem decideOpenLocal_duplicatePage {s : State} {o : Order} (h : (s.findPage o.key).isSome = true) :
    decideOpenLocal o s = answer o .duplicatePage s := by
  simp [decideOpenLocal, h]

theorem decideOpenLocal_noFrame {s : State} {o : Order} (h : s.findPage o.key = none) (hf : s.freeFrame = none) :
    decideOpenLocal o s = answer o .noFrame s := by
  simp [decideOpenLocal, h, hf]

theorem decideCloseLocal_noPage {s : State} {o : Order} (h : s.findPage o.key = none) :
    decideCloseLocal o s = answer o .noPage s := by
  simp [decideCloseLocal, present_eq_none.2 h]

theorem decideCloseLocal_notLocal {s : State} {o : Order} {f : Nat} {p : Page} (h : s.present o.key = some (f, p))
    (hp : p.state ≠ .localPage) : decideCloseLocal o s = answer o .noPage s := by
  simp [decideCloseLocal, h, hp]

theorem decideProof_noPage {s : State} {o : Order} (hk : o.key ≠ ⟨0, 0, 0⟩) (h : s.findPage o.key = none) :
    decideProof o s = answer o .noPage s := by
  have : o.key ≠ Key.zero := hk
  simp [decideProof, this, h]

theorem decideRun_badField {s : State} {o : Order} (h : 3 < o.lane.toNat) : decideRun o s = answer o .badField s := by
  simp [decideRun, laneOf_eq_none h]

theorem decideRun_linkDown {s : State} {o : Order} {l : LaneId} (hl : o.lane.toNat = l.val)
    (hm : (s.lane l).mode = .fault) : decideRun o s = answer o .linkDown s := by
  simp [decideRun, laneOf_eq_some hl, hm]

theorem decideRun_running {s : State} {o : Order} {l : LaneId} (hl : o.lane.toNat = l.val)
    (hm : (s.lane l).mode = .run) : decideRun o s = answer o .done s := by
  simp [decideRun, laneOf_eq_some hl, hm]

theorem decideStop_badField {s : State} {o : Order} (h : 3 < o.lane.toNat) :
    decideStop o s = answer o .badField s := by
  simp [decideStop, laneOf_eq_none h]

theorem decideStop_stopped {s : State} {o : Order} {l : LaneId} (hl : o.lane.toNat = l.val)
    (hm : (s.lane l).mode ≠ .run) : decideStop o s = answer o .done s := by
  simp only [decideStop, laneOf_eq_some hl]
  cases h : (s.lane l).mode with
  | run => exact absurd h hm
  | stop => rfl
  | fault => rfl

/-- Settles O31: each case is an answer of the order's owner, after which the executor goes on. -/
theorem ordersWithoutEffectAreAnswered : Obligations.OrdersWithoutEffectAreAnswered := by
  refine ⟨fun s => ⟨fun o os h => finishOrder_of_cons h, fun h => finishOrder_of_nil h⟩, fun s o ho => ?_⟩
  refine ⟨fun h => ?_, fun hk hl => ?_, fun hk hl hp => ?_, fun hk hl hp ht => ?_, fun l hk hl hp ht hq => ?_,
    fun hk ht => ?_, fun hk hp => ?_, fun f p hk hp hb => ?_, fun hk hp => ?_, fun hk hp hf => ?_, fun hk hp => ?_,
    fun f p hk hp hs => ?_, fun hk hz hp => ?_, fun hk hl => ?_, fun hk hl => ?_, fun l hk hl hm => ?_,
    fun l hk hl hm => ?_, fun l hk hl hm => ?_⟩
  · exact congrArg Host.Outcome.next (unknownOrder_answer ho h)
  · exact handleOrder_answer ho hk (decideQueue_badField hl)
  · exact handleOrder_answer ho hk (decideQueue_noPage hl hp)
  · exact handleOrder_answer ho hk (decideQueue_duplicateTag hl hp ht)
  · exact handleOrder_answer ho hk (decideQueue_queueFull hl hp ht hq)
  · exact handleOrder_answer ho hk (decideWithdraw_noPlate ht)
  · exact handleOrder_answer ho hk (decidePurge_noPage hp)
  · exact handleOrder_answer ho hk (decidePurge_busy hp hb)
  · exact handleOrder_answer ho hk (decideOpenLocal_duplicatePage hp)
  · exact handleOrder_answer ho hk (decideOpenLocal_noFrame hp hf)
  · exact handleOrder_answer ho hk (decideCloseLocal_noPage hp)
  · exact handleOrder_answer ho hk (decideCloseLocal_notLocal hp hs)
  · exact handleOrder_answer ho hk (decideProof_noPage hz hp)
  · exact handleOrder_answer ho hk (decideRun_badField hl)
  · exact handleOrder_answer ho hk (decideStop_badField hl)
  · exact handleOrder_answer ho hk (decideRun_linkDown hl hm)
  · exact handleOrder_answer ho hk (decideRun_running hl hm)
  · exact handleOrder_answer ho hk (decideStop_stopped hl hm)

/-! ### Local pages -/

/-- R20's ranges, and that the key can name a page. -/
theorem sizeAndKeyGood_iff {tw th : Nat} {k : Key} : sizeAndKeyGood tw th k = true ↔
    1 ≤ tw ∧ tw ≤ 64 ∧ 1 ≤ th ∧ th ≤ 128 ∧ 1 ≤ k.page.toNat ∧ k.separation.toNat ≤ 3 := by
  have : k.page ≠ 0 ↔ 1 ≤ k.page.toNat := by
    rw [ne_eq, ← BitVec.toNat_inj]
    simp
    omega
  rw [sizeAndKeyGood, decide_eq_true_iff, this]

theorem submitFor_eq {s : State} {f : Nat} {p : Page} (h : s.page f = some p) (r : Page → Report) :
    submitFor f r s = submit (r p) s := by
  simp [submitFor, h]

/-- CLOSE LOCAL PAGE of a LOCAL page (R21). -/
theorem decideCloseLocal_local {s : State} {o : Order} {f : Nat} {p : Page} (h : s.present o.key = some (f, p))
    (hp : p.state = .localPage) :
    decideCloseLocal o s =
      let q := { p with state := PageState.closed, closeStamp := some s.clock }
      announce (submit (orderDone o .done 0 0)
        (submit (pageClosedReport 1 f q) { s with pages := s.pages.set f (some q) })) := by
  obtain ⟨-, hf⟩ := present_eq_some.1 h
  simp only [decideCloseLocal, h, hp, if_true, answer]
  rw [submitFor_eq (page_modPage _ hf), modPage_eq hf]

/-- What a submission adds to the pending list depends on the list and the clock alone (R159, R170). -/
theorem submit_reports (r : Report) (s : State) : (submit r s).reports =
    if s.reports.length < 64 then s.reports ++ [{ r with stamp := s.clock }] else s.reports := by
  rcases submit_cases r s with ⟨hl, h⟩ | ⟨hl, h⟩
  · rw [h, if_pos hl]
  · rw [h, if_neg (by omega), noteDrop_reports]

theorem submit_reports_congr (r : Report) {s t : State} (hr : t.reports = s.reports) (hc : t.clock = s.clock) :
    (submit r t).reports = (submit r s).reports := by
  rw [submit_reports, submit_reports, hr, hc]

/-- Settles O33: a local page opened in the lowest FREE frame, and closed with its report. -/
theorem localPagesOpenAndClose : Obligations.LocalPagesOpenAndClose := by
  refine ⟨fun s o f ho hk hp hl hf hg => ⟨fun hgood => ?_, fun hbad => ?_⟩, fun s o f p ho hk hp hs => ?_⟩
  · have hd : decideOpenLocal o s = answer o .done
        (setPage f (some (newPage o.key .localPage true o.tw.toNat o.th.toNat 0 .good s.clock)) s) := by
      simp [decideOpenLocal, hp, freeFrame_eq_some hl hf hg, sizeAndKeyGood_iff.2 hgood]
    exact congrArg Host.Outcome.next ((handleOrder_of_kind ho hk _).trans (congrArg finishOrder hd))
  · have hd : decideOpenLocal o s = answer o .badField s := by
      have : sizeAndKeyGood o.tw.toNat o.th.toNat o.key = false := by
        rw [← Bool.not_eq_true, sizeAndKeyGood_iff]; exact hbad
      simp [decideOpenLocal, hp, freeFrame_eq_some hl hf hg, this]
    exact handleOrder_answer ho hk hd
  · intro q
    have hr := announce_reacts (submit (orderDone o .done 0 0)
      (submit (pageClosedReport 1 f q) { s with pages := s.pages.set f (some q) }))
    have hq := (submit_reacts (pageClosedReport 1 f q) { s with pages := s.pages.set f (some q) }).trans
      ((submit_reacts (orderDone o .done 0 0) _).trans hr)
    refine ⟨_, congrArg Host.Outcome.next (handleOrder_of_kind ho hk _), ?_, ?_, fun _ x _ => ?_⟩
    · rw [decideCloseLocal_local hp hs, steady_finishOrder, steady_finishOrder]
      exact congrArg finishOrder hq.steady
    · change (submit (orderDone o .done 0 0) (submit (pageClosedReport 1 f q) s)).reports <+: _
      rw [decideCloseLocal_local hp hs, finishOrder_reports]
      have hsame := submit_reports_congr (orderDone o .done 0 0)
        (submit_reports_congr (pageClosedReport 1 f q) (s := s) (t := { s with pages := s.pages.set f (some q) })
          rfl rfl) (by simp)
      rw [← hsame]
      exact hr.reports
    · rw [finishOrder_mem, decideCloseLocal_local hp hs]
      exact hq.bytesKept x

/-! ### Power-on reset -/

theorem reset_page (f : Nat) : State.reset.page f = none := by
  simp only [State.page, State.reset, List.getD_eq_getElem?_getD, List.getElem?_replicate]
  split <;> rfl

theorem reset_lane (l : LaneId) : State.reset.lane l = Lane.reset := by
  match l with
  | 0 | 1 | 2 | 3 => rfl

theorem reset_recordsSafe : RecordsSafe State.reset where
  memory := rfl
  pendingReports := by decide
  unconsumed := by decide
  attn := by decide
  pages := List.length_replicate
  orders := by decide

theorem reset_queuesSafe : QueuesSafe State.reset where
  each l := by
    have hq : (State.reset.lane l).queue = [] := by rw [reset_lane]; rfl
    constructor <;> simp [hq]
  tags := by decide

theorem reset_ringSafe : RingSafe State.reset where
  head := by decide
  chain := rfl
  used := rfl
  room := by decide
  places := by decide

theorem reset_tablesSafe : TablesSafe State.reset where
  tiles := List.nodup_nil
  slots := List.nodup_nil
  entries := by decide
  closed e he := by cases he
  inUse := List.nodup_nil
  named n := by simp [State.reset, State.decodingSlot]
  apart n h e he := by cases he
  inUseBound := by decide
  remake g f h := by cases h
  place g f n h := by cases h
  damage f p h := by rw [reset_page] at h; cases h

theorem reset_waitingSafe : WaitingSafe State.reset where
  once := List.nodup_nil
  lander := List.not_mem_nil
  unpacker h := by cases h
  loader h := by cases h
  payload := by decide
  rows l c h := by
    rw [reset_lane] at h
    rcases h with h | h <;> cases h

theorem reset_locksSafe : LocksSafe State.reset where
  keys f g p q h := by rw [reset_page] at h; cases h
  locks f p h := by rw [reset_page] at h; cases h
  lockLimit f p h := by rw [reset_page] at h; cases h
  present l p h := by rw [reset_lane] at h; cases h
  claimed f p h := by cases h
  buffers l := by rw [reset_lane]; decide
  levels p h := by cases h

/-- Settles O3: the values are those of `State.reset` and `Lane.reset`, and each promise holds of them. -/
theorem resetLeavesStatedValues : Obligations.ResetLeavesStatedValues := by
  refine ⟨reset_page, List.length_replicate, rfl, rfl, rfl, rfl, rfl, rfl, rfl, rfl, rfl, rfl, rfl, rfl, rfl,
    fun l => ?_, rfl, rfl, rfl, rfl, rfl, rfl, rfl, rfl, rfl, rfl, rfl, rfl, rfl, rfl, rfl, rfl, rfl,
    reset_recordsSafe, reset_queuesSafe, reset_ringSafe, reset_tablesSafe, reset_waitingSafe, reset_locksSafe⟩
  rw [reset_lane]
  exact ⟨rfl, rfl, rfl, rfl, rfl, rfl, rfl, rfl, rfl⟩

end Sys2Proof.Machine
end

section
/-! ## What the reactions and the end of a segment keep -/

namespace Sys2Proof.Machine

/-! ### Reading the steady part -/

theorem steady_page (s : State) (f : Nat) : s.steady.page f = (s.page f).map Page.content := by
  simp only [State.page, State.steady, List.getD_eq_getElem?_getD, List.getElem?_map]
  cases s.pages[f]? <;> rfl

theorem steady_lane (s : State) (l : LaneId) : s.steady.lane l = (s.lane l).control := by
  match l with
  | 0 | 1 | 2 | 3 => rfl

/-- A steady page record keeps all but its locks and its deferred list. -/
theorem page_of_steady {s t : State} (h : t.steady = s.steady) {f : Nat} {p : Page} (hp : s.page f = some p) :
    ∃ q, t.page f = some q ∧ q.content = p.content := by
  have e := congrArg (fun u => State.page u f) h
  simp only [steady_page, hp, Option.map_some] at e
  exact Option.map_eq_some_iff.1 e

theorem control_of_steady {s t : State} (h : t.steady = s.steady) (l : LaneId) :
    (t.lane l).control = (s.lane l).control := by
  rw [← steady_lane, ← steady_lane, h]

theorem NoLaneRuns.congr {s t : State} (h : NoLaneRuns s) (hs : t.steady = s.steady) : NoLaneRuns t := fun l => by
  have e : (t.lane l).control.mode = (s.lane l).control.mode := by rw [control_of_steady hs l]
  exact fun hr => h l (e.symm.trans hr)

/-! ### What a choice leaves alone -/

/-- What no choice of a lane changes: all but the locks, the lanes, and the reports with their drops. -/
def State.apartFromChoices (s : State) : State :=
  { s with
    pages := s.pages.map (Option.map fun p => { p with lockCount := 0 })
    lanes := ⟨Lane.reset, Lane.reset, Lane.reset, Lane.reset⟩
    reports := [], overflowFlag := false, overflowOwed := 0 }

theorem apartFromChoices_submit (r : Report) (s : State) : (submit r s).apartFromChoices = s.apartFromChoices := by
  rcases submit_cases r s with ⟨-, h⟩ | ⟨-, h⟩
  · rw [h]; rfl
  · rcases noteDrop_cases s with ⟨-, k⟩ | ⟨-, k⟩
    · rw [h, k]
    · rw [h, k]; rfl

theorem apartFromChoices_modLane (l : LaneId) (g : Lane → Lane) (s : State) :
    (modLane l g s).apartFromChoices = s.apartFromChoices := rfl

theorem apartFromChoices_takeLock (f : Nat) (s : State) :
    (takeLock f s).apartFromChoices = s.apartFromChoices := by
  unfold takeLock modPage
  cases hp : s.page f with
  | none => rfl
  | some p =>
    simp only [State.apartFromChoices, setPage]
    congr 1
    rw [List.map_set]
    refine List.ext_getElem? fun i => ?_
    by_cases hi : f = i
    · subst hi
      have hl := page_lt hp
      have : s.pages[f] = some p := by simpa [State.page, List.getD_eq_getElem?_getD, hl] using hp
      simp [hl, this]
    · simp [hi]

theorem apartFromChoices_chooseFrom (l : LaneId) (ps : List Plate) (s : State) :
    (chooseFrom l ps s).apartFromChoices = s.apartFromChoices := by
  induction ps generalizing s with
  | nil =>
    unfold chooseFrom choiceEmpty
    split
    · rfl
    · split
      · rfl
      · split
        · rfl
        · rw [apartFromChoices_modLane, apartFromChoices_submit]
  | cons p ps ih =>
    unfold chooseFrom
    split
    · unfold beginLoading
      split
      · rw [apartFromChoices_modLane, modPlate, apartFromChoices_modLane, apartFromChoices_takeLock]
      · rfl
    · rw [ih]
      unfold setHeld
      split <;> rfl

theorem apartFromChoices_choose (l : LaneId) (s : State) :
    (choose l s).apartFromChoices = s.apartFromChoices := by
  unfold choose
  split
  · exact apartFromChoices_chooseFrom l _ s
  · rfl

theorem apartFromChoices_announce (s : State) : (announce s).apartFromChoices = s.apartFromChoices := by
  simp only [announce, apartFromChoices_choose]

theorem apartFromChoices_announceIf (b : Bool) (s : State) :
    (announceIf b s).apartFromChoices = s.apartFromChoices := by
  cases b
  · rfl
  · exact apartFromChoices_announce s

/-- Choices change nothing of a page record but its locks. -/
theorem page_of_apartFromChoices {s t : State} (h : t.apartFromChoices = s.apartFromChoices) {f : Nat} {p : Page}
    (hp : s.page f = some p) : ∃ n, t.page f = some { p with lockCount := n } := by
  have key : ∀ u : State, u.apartFromChoices.page f = (u.page f).map fun p => { p with lockCount := 0 } := fun u => by
    simp only [State.page, State.apartFromChoices, List.getD_eq_getElem?_getD, List.getElem?_map]
    cases u.pages[f]? <;> rfl
  have e := congrArg (fun u => State.page u f) h
  simp only [key, hp, Option.map_some] at e
  obtain ⟨q, hq, he⟩ := Option.map_eq_some_iff.1 e
  refine ⟨q.lockCount, hq.trans (congrArg some ?_)⟩
  cases p; cases q; simp_all

theorem page_none_of_apartFromChoices {s t : State} (h : t.apartFromChoices = s.apartFromChoices) {f : Nat}
    (hp : s.page f = none) : t.page f = none := by
  cases ht : t.page f with
  | none => rfl
  | some q =>
    obtain ⟨n, hn⟩ := page_of_apartFromChoices h.symm ht
    rw [hp] at hn; cases hn

/-! ### What holds through the Unpacker's choice -/

/-- A property that every choice of a lane and every step of the Unpacker's own choice keep (R16, R17, R42). -/
structure ReactionsKeep (P : State → Prop) : Prop where
  lane : ∀ l s, P s → P (choose l s)
  take : ∀ e s, P s → P (takeUp e s)
  claim : ∀ s, P s → P (claimNow s)
  free : ∀ s, P s → P (useFree s)

theorem ReactionsKeep.announce {P : State → Prop} (k : ReactionsKeep P) {s : State} (h : P s) :
    P (Machine.announce s) :=
  k.lane 3 _ (k.lane 2 _ (k.lane 1 _ (k.lane 0 _ h)))

theorem ReactionsKeep.announceIf {P : State → Prop} (k : ReactionsKeep P) (b : Bool) {s : State} (h : P s) :
    P (Machine.announceIf b s) := by
  cases b
  · exact h
  · exact k.announce h

theorem ReactionsKeep.lanesThenWork {P : State → Prop} (k : ReactionsKeep P) (b : Bool) {s : State} (h : P s) :
    P (Machine.lanesThenWork b s) := by
  unfold Machine.lanesThenWork
  simp only
  split
  · exact k.announceIf b h
  · exact k.announceIf _ (k.take _ _ (k.announceIf b h))

theorem ReactionsKeep.takeWork {P : State → Prop} (k : ReactionsKeep P) (b : Bool) {s : State} (h : P s) :
    P (Machine.takeWork b s) := by
  unfold Machine.takeWork
  split
  · exact k.announceIf b h
  · split
    · split
      · exact k.announce (k.claim _ (k.take _ _ (k.free s h)))
      · exact k.lanesThenWork b (k.free s h)
    · exact k.lanesThenWork b h

theorem ReactionsKeep.settleLocks {P : State → Prop} (k : ReactionsKeep P) (before released : State) {s : State}
    (h : P s) : P (Machine.settleLocks before released s) := by
  unfold Machine.settleLocks
  simp only
  split
  · exact k.takeWork false (k.announceIf _ h)
  · exact k.announceIf _ h

theorem choose_of_not_run {l : LaneId} {s : State} (h : (s.lane l).mode ≠ .run) : choose l s = s := by
  simp [choose, h]

/-- Where no lane runs an announcement changes nothing (R119). -/
theorem announce_quiet {s : State} (h : NoLaneRuns s) : announce s = s := by
  simp only [announce, choose_of_not_run (h _)]

theorem announceIf_quiet {s : State} (b : Bool) (h : NoLaneRuns s) : announceIf b s = s := by
  cases b
  · rfl
  · exact announce_quiet h

theorem undefer_reports (k : Key) (o : Nat) (s : State) : (undefer k o s).reports = s.reports := by
  unfold undefer
  split <;> simp

theorem takeUp_reports (e : LandedEntry) (s : State) : (takeUp e s).reports = s.reports := by
  rw [takeUp, undefer_reports]

theorem claimNow_reports (s : State) : (claimNow s).reports = s.reports := by
  unfold claimNow
  split
  · split <;> rfl
  · rfl

/-- A property that the steps of the Unpacker's own choice keep, where no lane runs. -/
theorem reactionsKeep_quiet {P : State → Prop} (take : ∀ e s, P s → P (takeUp e s))
    (claim : ∀ s, P s → P (claimNow s)) (free : ∀ s, P s → P (useFree s)) :
    ReactionsKeep fun t => NoLaneRuns t ∧ P t where
  lane l t := fun ⟨hn, h⟩ => by rw [choose_of_not_run (hn l)]; exact ⟨hn, h⟩
  take e t := fun ⟨hn, h⟩ => ⟨hn.congr (takeUp_reacts e t).steady, take e t h⟩
  claim t := fun ⟨hn, h⟩ => ⟨hn.congr (claimNow_reacts t).steady, claim t h⟩
  free t := fun ⟨hn, h⟩ => ⟨hn, free t h⟩

/-- Where no lane runs the Unpacker's choice of work gives no report. -/
theorem takeWork_quiet {s : State} (b : Bool) (h : NoLaneRuns s) : (takeWork b s).reports = s.reports :=
  ((reactionsKeep_quiet (P := fun t => t.reports = s.reports) (fun e t hr => (takeUp_reports e t).trans hr)
    (fun t hr => (claimNow_reports t).trans hr) fun _ hr => hr).takeWork b ⟨h, rfl⟩).2

/-! ### Reclaim -/

theorem reclaim_eq (s : State) : reclaim s =
    { s with
      landed := s.landed.dropWhile LandedEntry.isDone
      ringUsed := s.ringUsed - totalBytes (s.landed.takeWhile LandedEntry.isDone)
      ringHead := if (s.landed.takeWhile LandedEntry.isDone) = [] then s.ringHead
        else headOf (s.landed.dropWhile LandedEntry.isDone) s } := by
  unfold reclaim
  split
  · next h =>
    have hd : s.landed.dropWhile LandedEntry.isDone = s.landed := by
      conv_rhs => rw [← List.takeWhile_append_dropWhile (p := LandedEntry.isDone) (l := s.landed), h, List.nil_append]
    simp [h, hd, totalBytes]
  · rfl

theorem markDone_eq (o : Nat) (s : State) : markDone o s =
    { s with landed := (markDone o s).landed, ringUsed := (markDone o s).ringUsed,
             ringHead := (markDone o s).ringHead } := by
  simp only [markDone, reclaim_eq, setEntry]

/-- Reclaim goes by what no reaction changes (R39). -/
theorem steady_markDone (o : Nat) (s : State) : (markDone o s).steady = markDone o s.steady := by
  simp only [markDone, reclaim_eq]
  rfl

theorem markDone_reports (o : Nat) (s : State) : (markDone o s).reports = s.reports := by rw [markDone_eq]
theorem markDone_mem (o : Nat) (s : State) : (markDone o s).mem = s.mem := by rw [markDone_eq]
theorem markDone_lanes (o : Nat) (s : State) : (markDone o s).lanes = s.lanes := by rw [markDone_eq]

/-! ### The end of a segment -/

theorem purgeWaits_of_none {s : State} (h : s.unpackerPage = none) : purgeWaits s = false := by
  simp [purgeWaits, h]

theorem purgeWaits_of_page {s : State} {f : Nat} {p : Page} (hu : s.unpackerPage = some f) (hp : s.page f = some p) :
    purgeWaits s = p.purgePending.isSome := by
  simp [purgeWaits, hu, hp]

/-- With no purge pending a segment's end marks its entry and is a reaction from there on (R14, R42). -/
theorem endSegment_reacts {g : Segment} {s : State} (h : purgeWaits s = false) :
    Reacts (markDone g.offset { s with unpacker := .idle, unpackerPage := none }) (endSegment g s) := by
  unfold endSegment
  rw [h]
  exact takeWork_reacts _ _

theorem endSegment_steady {g : Segment} {s : State} (h : purgeWaits s = false) :
    (endSegment g s).steady = (markDone g.offset s).steady := by
  rw [(endSegment_reacts h).steady, steady_markDone, steady_markDone]
  rfl

theorem endSegment_reports {g : Segment} {s : State} (h : purgeWaits s = false) :
    s.reports <+: (endSegment g s).reports := by
  have := (endSegment_reacts (g := g) h).reports
  rwa [markDone_reports] at this

theorem endSegment_mem {g : Segment} {s : State} (h : purgeWaits s = false) : (endSegment g s).mem = s.mem := by
  rw [(endSegment_reacts h).mem, markDone_mem]

theorem endSegment_quiet {g : Segment} {s : State} (h : purgeWaits s = false) (hn : NoLaneRuns s) :
    (endSegment g s).reports = s.reports := by
  have hm : NoLaneRuns (markDone g.offset { s with unpacker := .idle, unpackerPage := none }) := fun l => by
    rw [State.lane, markDone_lanes]
    exact hn l
  unfold endSegment
  rw [h]
  exact (takeWork_quiet _ hm).trans (markDone_reports _ _)

/-- `u` stands for `s` with the Unpacker at work on a segment that no purge waits for: it differs in nothing steady,
nor in memory, and reactions have given its further reports. -/
structure AtWork (s u : State) : Prop where
  steady : u.steady = s.steady
  mem : u.mem = s.mem
  reports : s.reports <+: u.reports
  quiet : NoLaneRuns s → u.reports = s.reports
  ends : purgeWaits u = false

theorem bytesKept_of_mem {s t : State} (h : t.mem = s.mem) : BytesKeptBut 0 0 s t := fun x _ => by rw [h]

/-- A segment that ends without a notice. -/
theorem AtWork.ended {g : Segment} {s u : State} (h : AtWork s u) : SegmentEnds g [] s (endSegment g u) where
  state := by rw [endSegment_steady h.ends, steady_markDone, steady_markDone, h.steady]
  reports := h.reports.trans (endSegment_reports h.ends)
  quiet hn := (endSegment_quiet h.ends (hn.congr h.steady)).trans (h.quiet hn)

theorem AtWork.ended_mem {g : Segment} {s u : State} (h : AtWork s u) : (endSegment g u).mem = s.mem :=
  (endSegment_mem h.ends).trans h.mem

theorem AtWork.clock {s u : State} (h : AtWork s u) : u.clock = s.clock :=
  show u.steady.clock = s.steady.clock by rw [h.steady]

theorem purgeWaits_submit (r : Report) (s : State) : purgeWaits (submit r s) = purgeWaits s := by
  simp [purgeWaits, State.page]

/-- A notice given at work: it stands first where no reaction has reported before it. -/
theorem AtWork.tells {s u : State} (h : AtWork s u) (hr : u.reports = s.reports) (r : Report) :
    AtWork (submit r s) (submit r u) where
  steady := by rw [(submit_reacts r u).steady, (submit_reacts r s).steady, h.steady]
  mem := by rw [submit_mem, submit_mem, h.mem]
  reports := by rw [submit_reports_congr r hr h.clock]
  quiet _ := submit_reports_congr r hr h.clock
  ends := by rw [purgeWaits_submit, h.ends]

/-- A segment refused ends with its notice first (R43). -/
theorem AtWork.refused {g : Segment} {s u : State} (h : AtWork s u) (hr : u.reports = s.reports) (k : NoticeKind)
    (d : Nat) : SegmentEnds g [segmentNotice k g.header g.stamp d] s (refuseSegment k g d u) := by
  have e := (h.tells hr (segmentNotice k g.header g.stamp d)).ended (g := g)
  refine ⟨e.state.trans ?_, e.reports, fun hn => e.quiet (hn.congr (submit_reacts _ s).steady)⟩
  rw [steady_markDone, steady_markDone, (submit_reacts _ s).steady]

theorem AtWork.refused_mem {g : Segment} {s u : State} (h : AtWork s u) (k : NoticeKind) (d : Nat) :
    (refuseSegment k g d u).mem = s.mem := by
  unfold refuseSegment notice
  rw [endSegment_mem (by rw [purgeWaits_submit, h.ends]), submit_mem, h.mem]

theorem purgeWaits_of_apartFromChoices {s t : State} (h : t.apartFromChoices = s.apartFromChoices) :
    purgeWaits t = purgeWaits s := by
  have hu : t.apartFromChoices.unpackerPage = s.apartFromChoices.unpackerPage := by rw [h]
  change t.unpackerPage = s.unpackerPage at hu
  unfold purgeWaits
  rw [hu]
  cases s.unpackerPage with
  | none => rfl
  | some f =>
    cases hp : s.page f with
    | none => simp [hp, page_none_of_apartFromChoices h hp]
    | some p =>
      obtain ⟨n, hn⟩ := page_of_apartFromChoices h hp
      simp [hp, hn]

/-- An announcement made at work is a reaction (R17). -/
theorem AtWork.announced {s u : State} (h : AtWork s u) (b : Bool) : AtWork s (announceIf b u) where
  steady := (announceIf_reacts b u).steady.trans h.steady
  mem := (announceIf_reacts b u).mem.trans h.mem
  reports := h.reports.trans (announceIf_reacts b u).reports
  quiet hn := by rw [announceIf_quiet b (hn.congr h.steady), h.quiet hn]
  ends := (purgeWaits_of_apartFromChoices (apartFromChoices_announceIf b u)).trans h.ends

/-! ### Taking a segment up and reading it -/

theorem steady_payloadDone (g : Segment) (s : State) : (payloadDone g s).steady = s.steady := by
  simp only [payloadDone, State.served, State.steady, List.filter_filter, Bool.and_self]

/-- The payload's reading changes nothing of what its CRC check gives (R44). -/
theorem crcGood_payloadDone (g : Segment) (s : State) : crcGood (payloadDone g s) g = crcGood s g := by
  unfold crcGood
  rw [segmentError_payloadDone]
  rfl

/-- The state with the claim of a segment granted on a frame (R14). -/
theorem grantClaim_of_claimed {g : Segment} {f : Nat} {s : State} (hu : s.unpacker = .working g .claimed)
    (hp : s.unpackerPage = some f) : grantClaim g f s = s := by
  cases s
  simp only at hu hp
  subst hu hp
  rfl

theorem headerClaim_granted {s : State} {h : SegHeader} {f : Nat} {p : Page} (hp : s.present h.key = some (f, p))
    (ht : headerTest p h = true) (hl : p.lockCount = 0) : headerClaim s h = .granted f := by
  simp [headerClaim, hp, ht, hl]

/-- The whole command of a segment kind that claims its page, where the segment is taken up or claimed already (R43). -/
theorem handleKind_of_has {s : State} {g : Segment} {f : Nat} {p : Page} {kind : Byte} (hu : UnpackerHas g f s)
    (hk : g.header.kind = kind) (hp : s.present g.header.key = some (f, p)) (ht : headerTest p g.header = true)
    (hl : p.lockCount = 0) (apply : Segment → Nat → State → State) :
    handleKind kind .whole apply s = apply g f (grantClaim g f s) := by
  rcases hu with ⟨hw, -⟩ | ⟨hw, hf⟩
  · simp [handleKind, hw, hk, claimThen, headerClaim_granted hp ht hl]
  · simp [handleKind, hw, hk, hf, grantClaim_of_claimed hw hf]

/-- A segment with its claim granted and its payload read is at work. -/
theorem atWork_read {s : State} {g : Segment} {f : Nat} {p : Page} (hp : s.page f = some p)
    (hn : p.purgePending = none) : AtWork s (payloadDone g (grantClaim g f s)) where
  steady := steady_payloadDone g _
  mem := rfl
  reports := List.prefix_rfl
  quiet _ := rfl
  ends := by
    rw [purgeWaits_of_page (s := payloadDone g (grantClaim g f s)) rfl hp, hn]
    rfl

end Sys2Proof.Machine
end

section
/-! ## Flags, counts, and PHOTO HEAD -/

namespace Sys2Proof.Machine

/-! ### Changing flags -/

/-- Changing flags changes the flags alone. -/
theorem modFlagsOf_eq (p : Page) (g : TileFlags → TileFlags) (ts : List (Nat × Nat)) :
    p.modFlagsOf g ts = { p with tiles := (p.modFlagsOf g ts).tiles } := by
  unfold Page.modFlagsOf
  induction ts generalizing p with
  | nil => rfl
  | cons t ts ih => rw [List.foldl_cons, ih (p.modFlags g t)]; rfl

theorem modFlags_tiles (p : Page) (g : TileFlags → TileFlags) (t : Nat × Nat) : (p.modFlags g t).tiles =
    if p.holds t.1 t.2 then p.tiles.modify (t.2 * p.tw + t.1) g else p.tiles := rfl

/-- The flags changed are those of the page's tiles, whatever else the record holds. -/
theorem modFlagsOf_tiles_congr {p q : Page} (hw : q.tw = p.tw) (hh : q.th = p.th) (ht : q.tiles = p.tiles)
    (g : TileFlags → TileFlags) (ts : List (Nat × Nat)) : (q.modFlagsOf g ts).tiles = (p.modFlagsOf g ts).tiles := by
  unfold Page.modFlagsOf
  induction ts generalizing p q with
  | nil => exact ht
  | cons t ts ih => exact ih hw hh (by
      rw [modFlags_tiles, modFlags_tiles, ht, hw, show q.holds t.1 t.2 = p.holds t.1 t.2 by simp [Page.holds, hw, hh]])

/-- What setting PHOTO flags does to the flags of any tile. -/
theorem modFlagsOf_photo_flags (p : Page) (ts : List (Nat × Nat)) (x y : Nat) :
    ((p.flags x y).photo = true →
      ((p.modFlagsOf (fun v => { v with photo := true }) ts).flags x y).photo = true) ∧
    ((p.modFlagsOf (fun v => { v with photo := true }) ts).flags x y).store = (p.flags x y).store := by
  unfold Page.modFlagsOf
  induction ts generalizing p with
  | nil => exact ⟨id, rfl⟩
  | cons t ts ih =>
    have one : ((p.flags x y).photo = true →
          ((p.modFlags (fun v => { v with photo := true }) t).flags x y).photo = true) ∧
        ((p.modFlags (fun v => { v with photo := true }) t).flags x y).store = (p.flags x y).store := by
      simp only [Page.flags, Page.modFlags]
      split
      · simp only [List.getD_eq_getElem?_getD, List.getElem?_modify]
        split <;> cases p.tiles[y * p.tw + x]? <;> simp
      · exact ⟨id, rfl⟩
    obtain ⟨hp, hs⟩ := ih (p.modFlags (fun v => { v with photo := true }) t)
    exact ⟨fun h => hp (one.1 h), hs.trans one.2⟩

/-- Setting PHOTO flags undoes no damage (R76). -/
theorem tileDamaged_setPhoto {ps : List PatchEntry} {f : Nat} {p : Page} {ts : List (Nat × Nat)} {x y : Nat}
    (h : tileDamaged ps f p x y = true) :
    tileDamaged ps f (p.modFlagsOf (fun v => { v with photo := true }) ts) x y = true := by
  obtain ⟨hp, hs⟩ := modFlagsOf_photo_flags p ts x y
  have hh : (p.modFlagsOf (fun v => { v with photo := true }) ts).holds x y = p.holds x y := by
    rw [modFlagsOf_eq]; rfl
  have hc : (p.modFlagsOf (fun v => { v with photo := true }) ts).stripCondition y = p.stripCondition y := by
    rw [modFlagsOf_eq]; rfl
  unfold tileDamaged at h ⊢
  rw [hh, hc, hs]
  cases he : findPatch ps f x y with
  | some e => simpa [he] using h
  | none =>
    simp only [he, Bool.and_eq_true, Bool.or_eq_true] at h ⊢
    obtain ⟨hin, (h | h) | h⟩ := h
    · exact ⟨hin, .inl (.inl h)⟩
    · exact ⟨hin, .inl (.inr (hp h))⟩
    · exact ⟨hin, .inr h⟩

/-! ### Recounts -/

theorem damagedAmong_eq {s : State} {f : Nat} {p : Page} (h : s.page f = some p) (ts : List (Nat × Nat)) :
    damagedAmong s f ts = damagedOf s f ts p := by
  simp [damagedAmong, damagedOf, h]

/-- A page changed and then recounted (R77). -/
theorem recount_modPage {s : State} {f : Nat} {p : Page} {g : Page → Page} (h : s.page f = some p)
    (hd : (g p).damaged = p.damaged) (ts : List (Nat × Nat)) :
    recount f ts s (modPage f g s) =
      { s with pages := s.pages.set f (some ((g p).recounted p s f ts)) } := by
  have hpatch : ∀ q, damagedOf (modPage f g s) f ts q = damagedOf s f ts q := fun q => by simp [damagedOf]
  unfold recount
  rw [modPage_modPage, modPage_eq h, damagedAmong_eq h, damagedAmong_eq (page_modPage g h), hpatch]
  simp only [Page.recounted, hd]

theorem damagedOf_of_steady {s u : State} (h : u.steady = s.steady) (f : Nat) (ts : List (Nat × Nat)) (p : Page) :
    damagedOf u f ts p = damagedOf s f ts p := by
  have hp : u.steady.patches = s.steady.patches := by rw [h]
  change u.patches = s.patches at hp
  simp [damagedOf, hp]

/-- A change after which every tile damaged before still is lowers no count. -/
theorem countFell_modPage {s : State} {f : Nat} {p : Page} {g : Page → Page} (h : s.page f = some p)
    {ts : List (Nat × Nat)}
    (hm : ∀ x y, tileDamaged s.patches f p x y = true → tileDamaged s.patches f (g p) x y = true) :
    countFell f ts s (modPage f g s) = false := by
  unfold countFell
  rw [damagedAmong_eq h, damagedAmong_eq (page_modPage g h)]
  refine decide_eq_false (Nat.not_lt.2 ?_)
  simp only [damagedOf, modPage_patches]
  exact List.countP_mono_left fun t _ ht => hm t.1 t.2 ht

/-! ### A page changed at work -/

theorem steady_withPage (s : State) (f : Nat) (q : Page) :
    { s with pages := s.pages.set f (some q) }.steady =
      { s.steady with pages := s.steady.pages.set f (some q.content) } := by
  simp only [State.steady, List.map_set, Option.map_some]

/-- The Unpacker's page changed at work. -/
theorem AtWork.withPage {s u : State} (h : AtWork s u) {f : Nat} (hu : u.unpackerPage = some f)
    (hl : f < u.pages.length) {q : Page} (hq : q.purgePending = none) :
    AtWork { s with pages := s.pages.set f (some q) } { u with pages := u.pages.set f (some q) } where
  steady := by rw [steady_withPage, steady_withPage, h.steady]
  mem := h.mem
  reports := h.reports
  quiet := h.quiet
  ends := by
    rw [purgeWaits_of_page (s := { u with pages := u.pages.set f (some q) }) (p := q) hu (page_setPage (some q) u hl),
      hq]
    rfl

/-- The Unpacker's page changed and recounted at work, the lanes told of a count that falls (R77). -/
theorem AtWork.recounted {s u : State} (h : AtWork s u) {f : Nat} (hu : u.unpackerPage = some f) {p : Page}
    (hp : u.page f = some p) {g : Page → Page} (hd : (g p).damaged = p.damaged) (hq : (g p).purgePending = none)
    (ts : List (Nat × Nat)) :
    AtWork { s with pages := s.pages.set f (some ((g p).recounted p s f ts)) }
      (recountTell f ts u (modPage f g u)) := by
  have e : (g p).recounted p u f ts = (g p).recounted p s f ts := by
    simp only [Page.recounted, damagedOf_of_steady h.steady]
  unfold recountTell
  rw [recount_modPage hp hd, e]
  exact (h.withPage hu (page_lt hp) (q := (g p).recounted p s f ts) hq).announced _

/-- A recount that lowers no count tells the lanes nothing. -/
theorem recountTell_reports {f : Nat} {ts : List (Nat × Nat)} {s t : State} (h : countFell f ts s t = false) :
    (recountTell f ts s t).reports = t.reports := by
  unfold recountTell
  rw [h]
  exact modPage_reports _ _ _

/-! ### PHOTO HEAD -/

/-- The page with photos, a photo fill and PHOTO flags changed, and its version raised if it is CLOSED (R53, R54,
R62). -/
def Page.photosRevised (p : Page) (photos : List PhotoRecord) (fill : Nat) (flag : Bool) (ts : List (Nat × Nat)) :
    Page :=
  { p.modFlagsOf (fun x => { x with photo := flag }) ts with
    photos := photos, photoFill := fill,
    version := if p.state = .closed then (if p.version = BitVec.allOnes 32 then 1 else p.version + 1)
      else p.version }

/-- The page PHOTO HEAD changes, as one change of its record (R53). -/
theorem photosRevised_eq (p : Page) (photos : List PhotoRecord) (fill : Nat) (flag : Bool) (ts : List (Nat × Nat)) :
    (fun q : Page => if q.state = .closed then { q with version := nextVersion q.version } else q)
      (({ p with photos := photos, photoFill := fill } : Page).modFlagsOf (fun x => { x with photo := flag }) ts) =
      p.photosRevised photos fill flag ts := by
  have ht : (({ p with photos := photos, photoFill := fill } : Page).modFlagsOf (fun x => { x with photo := flag })
      ts).tiles = (p.modFlagsOf (fun x => { x with photo := flag }) ts).tiles :=
    modFlagsOf_tiles_congr (p := p) (q := { p with photos := photos, photoFill := fill }) rfl rfl rfl _ _
  rw [modFlagsOf_eq ({ p with photos := photos, photoFill := fill } : Page), Page.photosRevised, modFlagsOf_eq p, ht]
  by_cases hs : p.state = .closed
  · simp only [hs, if_true, nextVersion]
  · simp only [hs, if_false]

theorem photosRevised_keeps (p : Page) (photos : List PhotoRecord) (fill : Nat) (flag : Bool) (ts : List (Nat × Nat)) :
    (p.photosRevised photos fill flag ts).damaged = p.damaged ∧
      (p.photosRevised photos fill flag ts).purgePending = p.purgePending := by
  rw [Page.photosRevised, modFlagsOf_eq]
  exact ⟨rfl, rfl⟩

theorem placePhoto_eq (f : Nat) (r : PhotoRecord) (fill : Nat) (s : State) : placePhoto f r fill s =
    recountTell f r.tiles s
      (modPage f (fun p => p.photosRevised (putPhoto r p.photos) fill false r.tiles) s) := by
  simp only [placePhoto, reviseIfClosed, setPhotoFlags, modPage_modPage]
  congr 2
  funext p
  exact photosRevised_eq p _ fill false r.tiles

theorem refusePhoto_eq (g : Segment) (f : Nat) (r : PhotoRecord) (s : State) : refusePhoto g f r s =
    refuseSegment .photoSpace g (photoSize r.w r.h r.scale) (recountTell f r.tiles s
      (modPage f (fun p => p.photosRevised p.photos p.photoFill true r.tiles) s)) := by
  simp only [refusePhoto, reviseIfClosed, setPhotoFlags, modPage_modPage]
  congr 3
  funext p
  exact photosRevised_eq p _ _ true r.tiles

theorem tileDamaged_photosRevised {ps : List PatchEntry} {f : Nat} {p : Page} {photos : List PhotoRecord} {fill : Nat}
    {ts : List (Nat × Nat)} {x y : Nat} (h : tileDamaged ps f p x y = true) :
    tileDamaged ps f (p.photosRevised photos fill true ts) x y = true :=
  tileDamaged_setPhoto (ts := ts) h

theorem takePhoto_again {g : Segment} {f : Nat} {p : Page} {r o : PhotoRecord} {s : State}
    (ho : p.photo r.index = some o)
    (h : o.tx0 = r.tx0 ∧ o.ty0 = r.ty0 ∧ o.w = r.w ∧ o.h = r.h ∧ o.scale = r.scale) :
    takePhoto g f p r s = endSegment g (placePhoto f { r with base := o.base } p.photoFill s) := by
  simp only [takePhoto, ho]
  rw [if_pos h]

theorem takePhoto_changed {g : Segment} {f : Nat} {p : Page} {r o : PhotoRecord} {s : State}
    (ho : p.photo r.index = some o)
    (h : ¬ (o.tx0 = r.tx0 ∧ o.ty0 = r.ty0 ∧ o.w = r.w ∧ o.h = r.h ∧ o.scale = r.scale)) :
    takePhoto g f p r s = refuseSegment .outOfPlace g 0 s := by
  simp only [takePhoto, ho]
  rw [if_neg h]

theorem takePhoto_shared {g : Segment} {f : Nat} {p : Page} {r : PhotoRecord} {s : State}
    (ho : p.photo r.index = none) (h : ∃ o ∈ p.photos, r.shares o = true) :
    takePhoto g f p r s = refuseSegment .outOfPlace g 0 s := by
  simp only [takePhoto, ho]
  rw [if_pos (by simpa using h)]

theorem takePhoto_fits {g : Segment} {f : Nat} {p : Page} {r : PhotoRecord} {s : State}
    (ho : p.photo r.index = none) (h : ∀ o ∈ p.photos, r.shares o = false)
    (hs : p.photoFill + photoSize r.w r.h r.scale ≤ photoAreaSize) :
    takePhoto g f p r s = endSegment g
      (placePhoto f { r with base := p.photoFill } (p.photoFill + photoSize r.w r.h r.scale) s) := by
  simp only [takePhoto, ho]
  rw [if_neg (by simpa using h), if_neg (Nat.not_lt.2 hs)]

theorem takePhoto_full {g : Segment} {f : Nat} {p : Page} {r : PhotoRecord} {s : State}
    (ho : p.photo r.index = none) (h : ∀ o ∈ p.photos, r.shares o = false)
    (hs : photoAreaSize < p.photoFill + photoSize r.w r.h r.scale) :
    takePhoto g f p r s = refusePhoto g f r s := by
  simp only [takePhoto, ho]
  rw [if_neg (by simpa using h), if_pos hs]

/-- PHOTO HEAD with its requests granted (R53): the payload is read, and its tests go by it. -/
theorem applyPhotoHead_read {s : State} {g : Segment} {f : Nat} {p : Page} (hp : s.page f = some p)
    (hg : segmentGranted s g 0 = true) :
    applyPhotoHead g f (grantClaim g f s) =
      let u := payloadDone g (grantClaim g f s)
      if !crcGood s g then refuseSegment .crc g 0 u
      else if !headGood s g p then refuseSegment .outOfPlace g 0 u
      else takePhoto g f p (headRecord s g) u := by
  have hp' : (grantClaim g f s).page f = some p := hp
  have hc : crcGood (payloadDone g (grantClaim g f s)) g = crcGood s g := crcGood_payloadDone g (grantClaim g f s)
  simp only [applyPhotoHead, hp']
  rw [whenRead_granted (s := grantClaim g f s) hg]
  simp only [hc]
  rfl

/-- Settles O57: each outcome of PHOTO HEAD, by R53's tests in order. -/
theorem newPhotoIsPlaced : Obligations.NewPhotoIsPlaced := by
  intro s g f p _ hu hk hp ht hl hn hg
  obtain ⟨-, hf⟩ := present_eq_some.1 hp
  intro r size tiles revised ends tells
  have hw : AtWork s (payloadDone g (grantClaim g f s)) := atWork_read hf hn
  have hexec : exec (.photoHead .whole) s = .next (applyPhotoHead g f (grantClaim g f s)) :=
    congrArg Host.Outcome.next (handleKind_of_has hu hk hp ht hl applyPhotoHead)
  rw [applyPhotoHead_read hf hg] at hexec
  have hup : (payloadDone g (grantClaim g f s)).unpackerPage = some f := rfl
  have huf : (payloadDone g (grantClaim g f s)).page f = some p := hf
  have hur : (payloadDone g (grantClaim g f s)).reports = s.reports := rfl
  generalize payloadDone g (grantClaim g f s) = u at hw hexec hup huf hur
  have refused (k : NoticeKind) (d : Nat)
      (h : exec (.photoHead .whole) s = .next (refuseSegment k g d u)) : ends p (tells k d) :=
    ⟨_, h, by rw [withPages_self hf]; exact hw.refused hur k d, bytesKept_of_mem (hw.refused_mem k d)⟩
  have placed (o : PhotoRecord) (fill : Nat) (ho : o.tiles = tiles)
      (h : exec (.photoHead .whole) s = .next (endSegment g (placePhoto f o fill u))) :
      ends (revised (putPhoto o p.photos) fill false) [] := by
    have keeps := photosRevised_keeps p (putPhoto o p.photos) fill false o.tiles
    have hq := hw.recounted hup huf (g := fun p => p.photosRevised (putPhoto o p.photos) fill false o.tiles)
      keeps.1 (keeps.2.trans hn) o.tiles
    rw [← placePhoto_eq, ho] at hq
    exact ⟨_, h, hq.ended, bytesKept_of_mem hq.ended_mem⟩
  refine ⟨fun hc => refused .crc 0 (by simpa [hc] using hexec), fun hc hb => refused .outOfPlace 0
    (by simpa [hc, hb] using hexec), fun hc hh => ?_⟩
  have htake : exec (.photoHead .whole) s = .next (takePhoto g f p r u) := by simpa [hc, hh] using hexec
  refine ⟨fun o ho => ⟨fun hsame => ?_, fun hsame => ?_⟩, fun hno => ⟨fun hs => ?_, fun hs =>
    ⟨fun hfits => ?_, fun hfull => ?_⟩⟩⟩
  · exact placed _ _ rfl (htake.trans (congrArg _ (takePhoto_again ho hsame)))
  · exact refused .outOfPlace 0 (htake.trans (congrArg _ (takePhoto_changed ho hsame)))
  · exact refused .outOfPlace 0 (htake.trans (congrArg _ (takePhoto_shared hno hs)))
  · exact placed _ _ rfl (htake.trans (congrArg _ (takePhoto_fits hno hs hfits)))
  · have keeps := photosRevised_keeps p p.photos p.photoFill true tiles
    have hq := hw.recounted hup huf (g := fun p => p.photosRevised p.photos p.photoFill true tiles)
      keeps.1 (keeps.2.trans hn) tiles
    have hfell := countFell_modPage huf (g := fun p => p.photosRevised p.photos p.photoFill true tiles) (ts := tiles)
      fun x y h => tileDamaged_photosRevised h
    have hr := (recountTell_reports hfell).trans ((modPage_reports f _ u).trans hur)
    exact ⟨_, htake.trans (congrArg _ ((takePhoto_full hno hs hfull).trans (refusePhoto_eq g f r u))),
      hq.refused hr .photoSpace size, bytesKept_of_mem (hq.refused_mem .photoSpace _)⟩

end Sys2Proof.Machine
end

section
/-! ## PAGE OPEN -/

namespace Sys2Proof.Machine

theorem AtWork.refl {s : State} (h : purgeWaits s = false) : AtWork s s :=
  ⟨rfl, rfl, List.prefix_rfl, fun _ => rfl, h⟩

/-- A PAGE OPEN past its first case, with its payload read (R44, R48). -/
def openedRead (g : Segment) (s : State) : State := payloadDone g { s with unpacker := .working g .opening }

theorem atWork_openedRead (g : Segment) {s : State} (h : s.unpackerPage = none) : AtWork s (openedRead g s) where
  steady := steady_payloadDone g _
  mem := rfl
  reports := List.prefix_rfl
  quiet _ := rfl
  ends := purgeWaits_of_none (s := openedRead g s) h

theorem crcGood_openedRead (g : Segment) (s : State) : crcGood (openedRead g s) g = crcGood s g :=
  crcGood_payloadDone g { s with unpacker := .working g .opening }

/-- A payload with a good CRC has been read without an error (R44). -/
theorem openedRead_eq {g : Segment} {s : State} (h : crcGood s g = true) : openedRead g s =
    { s with unpacker := .working g .opening
             payloadRead := ⟨(segmentWords g).length, none, 0⟩
             waiting := s.waiting.filter (· != .unpacker) } := by
  have he : s.payloadRead.error (segmentWords g) s = none := by
    simp only [crcGood, segmentError, Bool.and_eq_true, Option.isNone_iff_eq_none] at h
    exact h.1
  have : s.payloadRead.finish (segmentWords g) s = ⟨(segmentWords g).length, none, 0⟩ := by
    rw [Reading.finish, he]
  rw [← this]
  rfl

/-- PAGE OPEN taken up without a duplicate, or past that test already: its payload is read once the reads are granted
(R48, R156). -/
theorem handleOpen_reads {s : State} {g : Segment} (hk : g.header.kind = 1)
    (h : s.unpacker = .working g .taken ∧ s.findPage g.header.key = none ∨ s.unpacker = .working g .opening)
    (u : SegPart) :
    handleOpen u s = whenRead g 0 (openRead g u) { s with unpacker := .working g .opening } := by
  rcases h with ⟨hw, hp⟩ | hw
  · have hk' : g.header.kind = kindPageOpen := hk
    simp [handleOpen, hw, hk', openTaken, hp]
  · have hs : { s with unpacker := .working g .opening } = s := by rw [← hw]
    rw [hs]
    simp [handleOpen, hw]

theorem handleOpen_duplicate {s : State} {g : Segment} (hk : g.header.kind = 1) (hw : s.unpacker = .working g .taken)
    (hp : (s.findPage g.header.key).isSome = true) (u : SegPart) :
    handleOpen u s = refuseSegment .duplicatePage g 0 s := by
  have hk' : g.header.kind = kindPageOpen := hk
  simp [handleOpen, hw, hk', openTaken, hp]

theorem openRead_badCrc {s : State} {g : Segment} (hc : crcGood s g = false) (u : SegPart) :
    openRead g u (openedRead g s) = refuseSegment .crc g 0 (openedRead g s) := by
  simp [openRead, crcGood_openedRead, hc]

theorem openRead_badFields {s : State} {g : Segment} (hc : crcGood s g = true) (ho : openGood s g = false)
    (u : SegPart) : openRead g u (openedRead g s) = refuseSegment .outOfPlace g 0 (openedRead g s) := by
  have ho' : openGood (openedRead g s) g = false := ho
  simp [openRead, crcGood_openedRead, hc, ho']

theorem openRead_good {s : State} {g : Segment} (hc : crcGood s g = true) (ho : openGood s g = true) (u : SegPart) :
    openRead g u (openedRead g s) =
      match u with
      | .claim => { openedRead g s with unpacker := .working g (.judged (openFields s g)) }
      | .whole => createRequest g (openFields s g) false (openedRead g s) := by
  have ho' : openGood (openedRead g s) g = true := ho
  simp only [openRead, crcGood_openedRead, hc, ho']
  cases u <;> rfl

theorem findPage_congr {s t : State} (h : t.pages = s.pages) (k : Key) : t.findPage k = s.findPage k := by
  rw [State.findPage, h]; rfl

theorem createRequest_duplicate {s : State} {g : Segment} (h : (s.findPage g.header.key).isSome = true) (o : OpenFields)
    (b : Bool) : createRequest g o b s = refuseSegment .duplicatePage g 0 s := by
  simp [createRequest, h]

theorem createRequest_noFrame {s : State} {g : Segment} (h : s.findPage g.header.key = none) (hf : s.freeFrame = none)
    (o : OpenFields) (b : Bool) :
    createRequest g o b s = if b then s else enterStall g .frames (some o) s := by
  simp [createRequest, h, hf]

theorem purgeWaits_of_free {s : State} {f : Nat} (hu : s.unpackerPage = some f) (hp : s.page f = none) :
    purgeWaits s = false := by
  simp [purgeWaits, hu, hp]

/-- The creation of a page at work (R4, R48). -/
theorem createRequest_creates {s w : State} {g : Segment} {f : Nat} (h : AtWork s w) (hpages : w.pages = s.pages)
    (hk : s.findPage g.header.key = none) (hl : f < s.pages.length) (hf : s.page f = none)
    (hg : ∀ k, k < f → s.page k ≠ none) (o : OpenFields) (b : Bool) :
    let r := newPage g.header.key .opened false o.tw o.th o.slot .absent s.clock
    SegmentEnds g [] { s with pages := s.pages.set f (some r) } (createRequest g o b w) ∧
      (createRequest g o b w).mem = s.mem := by
  intro r
  have hfree : w.freeFrame = some f := by
    rw [State.freeFrame, hpages]
    exact freeFrame_eq_some hl hf hg
  have hwf : w.page f = none := by rw [State.page, hpages]; exact hf
  have hu : AtWork s { w with unpackerPage := some f } :=
    ⟨h.steady, h.mem, h.reports, h.quiet, purgeWaits_of_free (s := { w with unpackerPage := some f }) rfl hwf⟩
  have he : createRequest g o b w =
      endSegment g { setPage f (some r) w with unpackerPage := some f } := by
    have hr : newPage g.header.key .opened false o.tw o.th o.slot .absent w.clock = r := by rw [h.clock]
    simp only [createRequest, findPage_congr hpages, hk, hfree, hr]
    exact if_neg Bool.false_ne_true
  have hq := hu.withPage rfl (by rw [hpages]; exact hl) (q := r) rfl
  rw [he]
  exact ⟨hq.ended, hq.ended_mem⟩

/-- How the creation request of a PAGE OPEN comes about: with the payload just read, judged before, or after a FRAMES
stall (R48, R49). -/
inductive Requests (g : Segment) (o : OpenFields) (s : State) : Instr → Bool → State → Prop
  | read (hw : s.unpacker = .working g .taken ∨ s.unpacker = .working g .opening) (hk : g.header.kind = 1)
      (hg : segmentGranted s g 0 = true) (hc : crcGood s g = true) (ho : openGood s g = true) (e : o = openFields s g) :
      Requests g o s (.pageOpen .whole) false (openedRead g s)
  | judged (hw : s.unpacker = .working g (.judged o)) : Requests g o s (.pageOpen .whole) false s
  | stalled (b : Bool) (hw : s.unpacker = .stalled g .frames (some o) b) : Requests g o s .framesStallEnd true s

theorem Requests.atWork {g : Segment} {o : OpenFields} {s w : State} {c : Instr} {b : Bool} (h : Requests g o s c b w)
    (hup : s.unpackerPage = none) : AtWork s w ∧ w.pages = s.pages ∧ w.reports = s.reports := by
  have hs : AtWork s s := .refl (purgeWaits_of_none hup)
  cases h with
  | read => exact ⟨atWork_openedRead g hup, rfl, rfl⟩
  | judged => exact ⟨hs, rfl, rfl⟩
  | stalled => exact ⟨hs, rfl, rfl⟩

/-- A key not present leads to the creation request. -/
theorem Requests.exec_eq {g : Segment} {o : OpenFields} {s w : State} {c : Instr} {b : Bool} (h : Requests g o s c b w)
    (hp : s.findPage g.header.key = none) : exec c s = .next (createRequest g o b w) := by
  cases h with
  | read hw hk hg hc ho e =>
    refine congrArg Host.Outcome.next ((handleOpen_reads hk (hw.imp_left fun h => ⟨h, hp⟩) .whole).trans ?_)
    rw [whenRead_granted (s := { s with unpacker := .working g .opening }) hg]
    exact (openRead_good hc ho .whole).trans (by rw [e])
  | judged hw => exact congrArg Host.Outcome.next (by simp [handleOpen, hw])
  | stalled b hw => exact congrArg Host.Outcome.next (by simp [framesStallEnd, hw])

/-- A key present by then is refused (R48). -/
theorem Requests.exec_duplicate {g : Segment} {o : OpenFields} {s w : State} {c : Instr} {b : Bool}
    (h : Requests g o s c b w) (hup : s.unpackerPage = none) (hp : (s.findPage g.header.key).isSome = true) :
    ∃ v, AtWork s v ∧ v.reports = s.reports ∧ exec c s = .next (refuseSegment .duplicatePage g 0 v) := by
  obtain ⟨hw, hpages, hr⟩ := h.atWork hup
  have hd : createRequest g o b w = refuseSegment .duplicatePage g 0 w :=
    createRequest_duplicate (by rwa [findPage_congr hpages]) o b
  cases h with
  | read hu hk hg hc ho e =>
    rcases hu with hu | hu
    · exact ⟨s, .refl (purgeWaits_of_none hup), rfl, congrArg Host.Outcome.next (handleOpen_duplicate hk hu hp .whole)⟩
    · refine ⟨_, hw, hr, congrArg Host.Outcome.next ((handleOpen_reads hk (.inr hu) .whole).trans ?_)⟩
      rw [whenRead_granted (s := { s with unpacker := .working g .opening }) hg, ← hd, e]
      exact openRead_good hc ho .whole
  | judged hu =>
    exact ⟨_, hw, hr, congrArg Host.Outcome.next ((by simp [handleOpen, hu] : handleOpen .whole s = _).trans hd)⟩
  | stalled b hu =>
    exact ⟨_, hw, hr, congrArg Host.Outcome.next ((by simp [framesStallEnd, hu] : framesStallEnd s = _).trans hd)⟩

/-- Settles O54: R48's cases in order, and the creation request at its end or at the end of a FRAMES stall (R49). -/
theorem pageOpenCreatesPage : Obligations.PageOpenCreatesPage := by
  refine ⟨fun s g u _ hup hk => ?_, fun s g o c _ hup hcase => ?_⟩
  · intro ends
    have hs : AtWork s s := .refl (purgeWaits_of_none hup)
    have hr := atWork_openedRead g hup
    refine ⟨fun hw hp => ?_, fun hreads => ?_⟩
    · exact ⟨_, congrArg Host.Outcome.next (handleOpen_duplicate hk hw hp u), hs.refused rfl _ _,
        bytesKept_of_mem (hs.refused_mem _ _)⟩
    · have hexec : exec (.pageOpen u) s =
          .next (whenRead g 0 (openRead g u) { s with unpacker := .working g .opening }) :=
        congrArg Host.Outcome.next (handleOpen_reads hk hreads u)
      refine ⟨fun hg => ?_, fun hg => ?_⟩
      · rw [hexec, whenRead_waiting (s := { s with unpacker := .working g .opening }) hg]
      · rw [whenRead_granted (s := { s with unpacker := .working g .opening }) hg] at hexec
        change exec (.pageOpen u) s = .next (openRead g u (openedRead g s)) at hexec
        refine ⟨fun hc => ?_, fun hc ho => ?_, fun hc ho hu => ?_⟩
        · exact ⟨_, hexec.trans (congrArg _ (openRead_badCrc hc u)), hr.refused rfl _ _,
            bytesKept_of_mem (hr.refused_mem _ _)⟩
        · exact ⟨_, hexec.trans (congrArg _ (openRead_badFields hc ho u)), hr.refused rfl _ _,
            bytesKept_of_mem (hr.refused_mem _ _)⟩
        · subst hu
          rw [hexec, openRead_good hc ho, openedRead_eq hc]
  · obtain ⟨b, w, h⟩ : ∃ b w, Requests g o s c b w := by
      rcases hcase with ⟨rfl, hu, hk, hg, hc, ho, e⟩ | ⟨rfl, hu⟩ | ⟨rfl, b, hu⟩
      · exact ⟨_, _, .read hu hk hg hc ho e⟩
      · exact ⟨_, _, .judged hu⟩
      · exact ⟨_, _, .stalled b hu⟩
    obtain ⟨hw, hpages, hr⟩ := h.atWork hup
    refine ⟨fun hk f hl hf hg => ?_, fun hk hf => ⟨fun hc => ?_, fun hc => ?_⟩, fun hk => ?_⟩
    · obtain ⟨he, hm⟩ := createRequest_creates (g := g) hw hpages hk hl hf hg o b
      exact ⟨_, h.exec_eq hk, bytesKept_of_mem hm, he⟩
    · rw [h.exec_eq hk, createRequest_noFrame (by rwa [findPage_congr hpages]) (by rwa [State.freeFrame, hpages])]
      cases h with
      | read => cases hc
      | judged => cases hc
      | stalled => rfl
    · rw [h.exec_eq hk, createRequest_noFrame (by rwa [findPage_congr hpages]) (by rwa [State.freeFrame, hpages])]
      cases h with
      | read hu hk hg hcrc ho e =>
        have hj : s.unpacker ≠ .working g (.judged o) := by
          rcases hu with hu | hu <;> rw [hu] <;> simp
        rw [if_neg hj, if_neg hj, openedRead_eq hcrc]
        rfl
      | judged hu =>
        rw [if_pos hu, if_pos hu]
        rfl
      | stalled => cases hc
    · obtain ⟨v, hv, hvr, hx⟩ := h.exec_duplicate hup hk
      exact ⟨_, hx, hv.refused hvr _ _, bytesKept_of_mem (hv.refused_mem _ _)⟩

end Sys2Proof.Machine
end

section
/-! ## The arbiter and the Unpacker, and the claim of a segment -/

namespace Sys2Proof.Machine

/-! ### When the Unpacker is granted -/

/-- The arbiter grants the request that its class grants, where none of a higher class waits (R156). -/
theorem arbiterGrant_eq_some {s : State} {w : List Requester} {r : Requester} : arbiterGrant s w = some r ↔
    (∀ q ∈ w, requestClass s r ≤ requestClass s q) ∧ grantInClass s (requestClass s r) w = some r := by
  have sorted : [1, 2, 3, 4, 5, 6].Pairwise (· < ·) := by decide
  unfold arbiterGrant
  rw [List.findSome?_eq_some_iff]
  constructor
  · rintro ⟨before, c, behind, hl, hc, hnone⟩
    obtain ⟨-, hcr⟩ := grantInClass_mem hc
    rw [hcr]
    refine ⟨fun q hq => ?_, hc⟩
    have hm := requestClass_mem s q
    rw [hl] at hm sorted
    rcases List.mem_append.1 hm with hm | hm
    · have := grantInClass_isSome (s := s) hq
      simp [hnone _ hm] at this
    · rcases List.mem_cons.1 hm with hm | hm
      · exact hm ▸ le_refl _
      · exact le_of_lt ((List.pairwise_cons.1 (List.pairwise_append.1 sorted).2.1).1 _ hm)
  · rintro ⟨hmin, hc⟩
    obtain ⟨before, behind, hl⟩ := List.append_of_mem (requestClass_mem s r)
    refine ⟨before, _, behind, hl, hc, fun c hb => ?_⟩
    cases hg : grantInClass s c w with
    | none => rfl
    | some q =>
      obtain ⟨hq, rfl⟩ := grantInClass_mem hg
      rw [hl] at sorted
      have := (List.pairwise_append.1 sorted).2.2 _ hb _ List.mem_cons_self
      exact absurd (hmin q hq) (by omega)

/-- Class 5 holds the Unpacker and the profile loader. -/
theorem requestClass_eq_five {s : State} {q : Requester} :
    requestClass s q = 5 ↔ q = .unpacker ∨ q = .profileLoader := by
  cases q with
  | composer l => rcases composerClass_cases s l with h | h <;> simp [requestClass, h]
  | _ => simp [requestClass]

/-- In class 5 the Unpacker's request is granted where the loader's did not come before it (R156). -/
theorem grantInClass_five {s : State} {w : List Requester} (h : .unpacker ∈ w) :
    grantInClass s 5 w = some .unpacker ↔ w.idxOf .unpacker ≤ w.idxOf .profileLoader := by
  have hfind : grantInClass s 5 w = w.find? fun q => requestClass s q == 5 := rfl
  rw [hfind]
  clear hfind
  induction w with
  | nil => cases h
  | cons q w ih =>
    by_cases hu : q = .unpacker
    · subst hu
      simp [requestClass]
    · by_cases hp : q = .profileLoader
      · subst hp
        simp [requestClass]
      · have hq : requestClass s q ≠ 5 := fun e => (requestClass_eq_five.1 e).elim hu hp
        have hw : .unpacker ∈ w := (List.mem_cons.1 h).resolve_left (Ne.symm hu)
        rw [List.find?_cons_of_neg (by simpa using hq), List.idxOf_cons_ne _ (by simpa using hu),
          List.idxOf_cons_ne _ (by simpa using hp)]
        exact (ih hw).trans Nat.succ_le_succ_iff.symm

/-- When the Unpacker's request is granted before every other that waits (R156). -/
theorem grants_unpacker {s : State} : s.grants .unpacker = true ↔
    (∀ q ∈ s.requests, 5 ≤ requestClass s q) ∧ s.requests.idxOf .unpacker ≤ s.requests.idxOf .profileLoader := by
  have hclass : requestClass s .unpacker = 5 := rfl
  unfold State.grants
  rw [beq_iff_eq, arbiterGrant_eq_some, hclass]
  by_cases hm : .unpacker ∈ s.requests
  · rw [if_pos (by simpa using hm), grantInClass_five hm]
  · rw [if_neg (by simpa using hm), grantInClass_five (by simp), List.idxOf_append_of_notMem hm]
    have hall : (∀ q ∈ s.requests ++ [.unpacker], 5 ≤ requestClass s q) ↔ ∀ q ∈ s.requests, 5 ≤ requestClass s q := by
      simp [or_imp, forall_and, hclass]
    rw [hall]
    refine and_congr_right fun _ => ?_
    rw [List.idxOf_eq_length hm]
    by_cases hp : .profileLoader ∈ s.requests
    · rw [List.idxOf_append_of_mem hp]
      simp
    · rw [List.idxOf_append_of_notMem hp, List.idxOf_eq_length hp]
      simp

/-- How many requests of the Unpacker are granted one after another: with more than one, the loader's turn would come
between (R156). -/
theorem grantsRun_unpacker {s : State} {n : Nat} : s.grantsRun .unpacker n = true ↔
    n = 0 ∨ s.grants .unpacker = true ∧ (n = 1 ∨ .profileLoader ∉ s.waiting) := by
  have hclass : requestClass s .unpacker = 5 := rfl
  have hwait : .profileLoader ∈ s.requests ↔ .profileLoader ∈ s.waiting := by rw [mem_requests]; simp
  unfold State.grantsRun
  simp only [Bool.or_eq_true, Bool.and_eq_true, beq_iff_eq, List.all_eq_true, decide_eq_true_eq, hclass, ← hwait]
  refine or_congr_right (and_congr_right fun hg => or_congr_right ⟨fun h hp => ?_, fun hp q hq => ?_⟩)
  · have := h _ hp
    simp [requestClass] at this
  · have hge := (grants_unpacker.1 hg).1 q hq
    by_cases hq5 : requestClass s q = 5
    · exact .inl ((requestClass_eq_five.1 hq5).resolve_right fun e => hp (e ▸ hq))
    · exact .inr (by omega)

/-! ### The kinds with a claim -/

/-- The commands of the segment kinds that claim their page (R43), with the kind and its own rule. -/
inductive Claims (u : SegPart) : Instr → Byte → (Segment → Nat → State → State) → Prop
  | strip : Claims u (.strip u) 2 applyStrip
  | photoHead : Claims u (.photoHead u) 3 applyPhotoHead
  | photoPart : Claims u (.photoPart u) 4 applyPhotoPart
  | pageClose : Claims u (.pageClose u) 5 applyPageClose
  | remake : Claims u (.remakeTile u) 6 applyRemake

theorem Claims.of_mem {u : SegPart} {c : Instr} {k : Byte}
    (h : (k.toNat, c) ∈ [(2, Instr.strip u), (3, .photoHead u), (4, .photoPart u), (5, .pageClose u),
      (6, .remakeTile u)]) : ∃ apply, Claims u c k apply := by
  have hk : ∀ n : Nat, k.toNat = n → k = BitVec.ofNat 8 n := fun n e => by rw [← e]; simp
  simp only [List.mem_cons, Prod.mk.injEq, List.not_mem_nil, or_false] at h
  rcases h with ⟨e, rfl⟩ | ⟨e, rfl⟩ | ⟨e, rfl⟩ | ⟨e, rfl⟩ | ⟨e, rfl⟩
  · rw [hk _ e]; exact ⟨_, .strip⟩
  · rw [hk _ e]; exact ⟨_, .photoHead⟩
  · rw [hk _ e]; exact ⟨_, .photoPart⟩
  · rw [hk _ e]; exact ⟨_, .pageClose⟩
  · rw [hk _ e]; exact ⟨_, .remake⟩

/-- A segment just taken up goes to its header test and claim (R43). -/
theorem Claims.exec_taken {u : SegPart} {c : Instr} {apply : Segment → Nat → State → State} {s : State} {g : Segment}
    (h : Claims u c g.header.kind apply) (hw : s.unpacker = .working g .taken) :
    exec c s = .next (claimThen g u apply s) := by
  have taken : ∀ k, g.header.kind = k → handleKind k u apply s = claimThen g u apply s := fun k hk => by
    simp [handleKind, hw, hk]
  generalize hk : g.header.kind = k at h
  cases h with
  | strip => exact congrArg Host.Outcome.next (taken _ hk)
  | photoHead => exact congrArg Host.Outcome.next (taken _ hk)
  | photoPart => exact congrArg Host.Outcome.next (taken _ hk)
  | pageClose => exact congrArg Host.Outcome.next (taken _ hk)
  | remake =>
    have : handleRemake u s = handleKind kindRemake u applyRemake s := by simp [handleRemake, hw]
    exact congrArg Host.Outcome.next (this.trans (taken _ hk))

/-- The commands of the kinds whose payload is read at once after the claim wait for their requests (R156). -/
theorem Claims.waits {u : SegPart} {c : Instr} {apply : Segment → Nat → State → State} {s : State} {g : Segment}
    {f : Nat} {p : Page} (h : Claims u c g.header.kind apply) (hk : g.header.kind.toNat ∈ [2, 3, 5])
    (hp : s.page f = some p)
    (hg : segmentGranted s g (if g.header.kind = 2 then stripWrites g p s else 0) = false) : apply g f s = s := by
  generalize g.header.kind = k at h hk hg
  cases h with
  | strip => simp only [applyStrip, hp]; exact whenRead_waiting hg _
  | photoHead => simp only [applyPhotoHead, hp]; exact whenRead_waiting hg _
  | photoPart => simp at hk
  | pageClose => simp only [applyPageClose, hp]; exact whenRead_waiting hg _
  | remake => simp at hk

/-- A claimed segment of these kinds goes on with its own rule (R43). -/
theorem Claims.exec_claimed {c : Instr} {apply : Segment → Nat → State → State} {s : State} {g : Segment} {f : Nat}
    (h : Claims .whole c g.header.kind apply) (hk : g.header.kind.toNat ∈ [2, 3, 5])
    (hw : s.unpacker = .working g .claimed) (hf : s.unpackerPage = some f) : exec c s = .next (apply g f s) := by
  have claimed : ∀ k, g.header.kind = k → handleKind k .whole apply s = apply g f s := fun k hk => by
    simp [handleKind, hw, hf, hk]
  generalize he : g.header.kind = k at h hk
  cases h with
  | strip => exact congrArg Host.Outcome.next (claimed _ he)
  | photoHead => exact congrArg Host.Outcome.next (claimed _ he)
  | photoPart => simp at hk
  | pageClose => exact congrArg Host.Outcome.next (claimed _ he)
  | remake => simp at hk

/-! ### What the claim answers -/

theorem headerClaim_outOfPlace {s : State} {h : SegHeader}
    (hp : s.findPage h.key = none ∨ ∃ f p, s.present h.key = some (f, p) ∧ headerTest p h = false) :
    headerClaim s h = .outOfPlace := by
  rcases hp with hp | ⟨f, p, hp, ht⟩
  · simp [headerClaim, present_eq_none.2 hp]
  · simp [headerClaim, hp, ht]

theorem headerClaim_refused {s : State} {h : SegHeader} {f : Nat} {p : Page} (hp : s.present h.key = some (f, p))
    (ht : headerTest p h = true) (hl : 0 < p.lockCount) : headerClaim s h = .refused f := by
  simp [headerClaim, hp, ht, Nat.ne_of_gt hl]

/-! ### Deferral -/

theorem findPage_eq_findIdx (s : State) (k : Key) :
    s.findPage k = (s.pages.map (Option.map Page.key)).findIdx? fun r => r == some k := by
  rw [State.findPage, List.findIdx?_map]
  congr 1
  funext r
  cases r with
  | none => rfl
  | some p => simp [holdsKey]

/-- A page is found by its key alone (R1). -/
theorem findPage_modPage (f : Nat) (g : Page → Page) (hg : ∀ p, (g p).key = p.key) (s : State) (k : Key) :
    (modPage f g s).findPage k = s.findPage k := by
  rw [findPage_eq_findIdx, findPage_eq_findIdx]
  congr 1
  cases hp : s.page f with
  | none => simp [modPage, hp]
  | some p =>
    rw [modPage_eq hp, List.map_set, Option.map_some, hg, ← Option.map_some (f := Page.key), ← List.map_set,
      pages_set_self hp]

/-- What the Unpacker's choice can do that no change to the lanes precedes (R16, R42). -/
theorem takeWork_false_cases (s : State) : (chosen s = none ∧ takeWork false s = s) ∨
    ∃ e v, chosen s = some e ∧ (v = s ∨ v = useFree s) ∧
      (takeWork false s = announce (claimNow (takeUp e v)) ∨
        takeWork false s = announceIf (empties e s) (takeUp e v)) := by
  cases hc : chosen s with
  | none => exact .inl ⟨rfl, by simp [takeWork, hc, announceIf]⟩
  | some e =>
    have hc' : chosen (useFree s) = some e := hc
    refine .inr ⟨e, ?_⟩
    simp only [takeWork, hc, lanesThenWork, announceIf, Bool.false_eq_true, if_false, hc']
    split
    · split
      · exact ⟨useFree s, trivial, .inr rfl, .inl rfl⟩
      · exact ⟨useFree s, trivial, .inr rfl, .inr rfl⟩
    · exact ⟨s, trivial, .inl rfl, .inr rfl⟩

theorem claimNow_pages (s : State) : (claimNow s).pages = s.pages := by
  unfold claimNow
  split
  · split <;> rfl
  · rfl

/-- An entry that the idle Unpacker chooses is LANDED, or DEFERRED with its page unlocked (R42). -/
theorem chosen_candidate {s : State} {e : LandedEntry} (h : chosen s = some e) :
    e ∈ s.landed ∧ (e.state = .landed ∨ e.state = .deferred ∧ unlocked s e.seg.header.key = true) := by
  unfold chosen at h
  split at h
  · refine ⟨List.mem_of_find?_eq_some h, ?_⟩
    have hc := List.find?_some h
    unfold candidate at hc
    split at hc
    · exact .inl ‹_›
    · exact .inr ⟨‹_›, hc⟩
    · cases hc
  · cases h
  · cases h

/-- An offset stays on a page's deferred list when an entry of another offset, or of another page, is taken up. -/
theorem mem_deferred_takeUp {s : State} {e : LandedEntry} {f : Nat} {p : Page} {o : Nat} (hp : s.page f = some p)
    (ho : o ∈ p.deferred) (h : e.seg.offset ≠ o ∨ s.findPage e.seg.header.key ≠ some f) :
    ∃ q, (takeUp e s).page f = some q ∧ o ∈ q.deferred := by
  unfold takeUp undefer
  split
  · rename_i k hk
    by_cases hkf : k = f
    · subst hkf
      refine ⟨_, page_modPage _ hp, List.mem_filter.2 ⟨ho, ?_⟩⟩
      simpa using (h.resolve_right (not_not.2 hk)).symm
    · exact ⟨p, by rw [page_modPage_ne _ _ (Ne.symm hkf)]; exact hp, ho⟩
  · exact ⟨p, hp, ho⟩

/-- An offset that only DEFERRED entries have, on the list of a locked page, stays there through the Unpacker's choice
(R42). -/
theorem mem_deferred_takeWork {s : State} {f : Nat} {p : Page} {o : Nat} (hp : s.present p.key = some (f, p))
    (ho : o ∈ p.deferred) (hl : 0 < p.lockCount)
    (hland : ∀ e ∈ s.landed, e.seg.offset = o → e.state = .deferred) :
    ∃ q, (takeWork false s).page f = some q ∧ o ∈ q.deferred := by
  obtain ⟨hfind, hpage⟩ := present_eq_some.1 hp
  rcases takeWork_false_cases s with ⟨-, h⟩ | ⟨e, v, hc, hv, h⟩
  · rw [h]; exact ⟨p, hpage, ho⟩
  · obtain ⟨he, hstate⟩ := chosen_candidate hc
    have hvp : v.pages = s.pages := by rcases hv with rfl | rfl <;> rfl
    have hapart : e.seg.offset ≠ o ∨ v.findPage e.seg.header.key ≠ some f := by
      by_contra hn
      obtain ⟨hoff, hkey⟩ := not_or.1 hn
      rw [not_not] at hoff hkey
      rw [findPage_congr hvp] at hkey
      have hpr : s.present e.seg.header.key = some (f, p) := present_eq_some.2 ⟨hkey, hpage⟩
      rcases hstate with hs | ⟨-, hs⟩
      · simp [hland e he hoff] at hs
      · simp [unlocked, hpr, Nat.ne_of_gt hl] at hs
    obtain ⟨q, hq, hoq⟩ := mem_deferred_takeUp (e := e) (s := v) (f := f) (p := p)
      (by rw [State.page, hvp]; exact hpage) ho hapart
    rcases h with h | h
    · obtain ⟨n, hn⟩ := page_of_apartFromChoices (apartFromChoices_announce (claimNow (takeUp e v))) (f := f) (p := q)
        (by rw [State.page, claimNow_pages]; exact hq)
      exact ⟨{ q with lockCount := n }, h ▸ hn, hoq⟩
    · obtain ⟨n, hn⟩ := page_of_apartFromChoices (apartFromChoices_announceIf (empties e s) (takeUp e v)) hq
      exact ⟨{ q with lockCount := n }, h ▸ hn, hoq⟩

/-- Where there is a LANDED entry the idle Unpacker takes one up (R42). -/
theorem takeWork_working {s : State} {e : LandedEntry} (hi : s.unpacker = .idle) (he : e ∈ s.landed)
    (hs : e.state = .landed) : ∃ k ph, (takeWork false s).unpacker = .working k ph := by
  have hc : (chosen s).isSome = true := by
    simp only [chosen, hi]
    exact List.find?_isSome.2 ⟨e, he, by simp [candidate, hs]⟩
  have kept : ∀ t u : State, t.apartFromChoices = u.apartFromChoices → t.unpacker = u.unpacker := fun t u h =>
    show t.apartFromChoices.unpacker = u.apartFromChoices.unpacker by rw [h]
  have htake : ∀ (x : LandedEntry) (v : State), (takeUp x v).unpacker = .working x.seg .taken := fun x v => by
    unfold takeUp undefer
    split <;> simp
  rcases takeWork_false_cases s with ⟨h, -⟩ | ⟨x, v, -, -, h⟩
  · simp [h] at hc
  · rcases h with h | h
    · rw [h, kept _ _ (apartFromChoices_announce _)]
      unfold claimNow
      rw [htake]
      simp only
      split
      · exact ⟨_, _, rfl⟩
      · exact ⟨_, _, htake x v⟩
      · exact ⟨_, _, htake x v⟩
    · rw [h, kept _ _ (apartFromChoices_announceIf _ _), htake]
      exact ⟨_, _, rfl⟩

/-- A segment deferred is on its page's list, and its entry is DEFERRED (R16, R47). -/
theorem deferSegment_defers {s : State} {g : Segment} {f : Nat} {p : Page}
    (hp : s.present g.header.key = some (f, p)) (hl : 0 < p.lockCount) (hd : p.deferred.length < 8)
    (he : ∃ e ∈ s.landed, e.seg = g) :
    ∃ q, (deferSegment g f s).page f = some q ∧ g.offset ∈ q.deferred ∧
      (deferSegment g f s).landed = s.landed.map fun e =>
        if e.seg.offset = g.offset then { e with state := EntryState.deferred } else e := by
  obtain ⟨hfind, hf⟩ := present_eq_some.1 hp
  have heq : deferSegment g f s =
      takeWork false (deferOn f g.offset (setEntry g.offset .deferred { s with unpacker := .idle })) := by
    simp [deferSegment, hf, hd]
  let d := deferOn f g.offset (setEntry g.offset .deferred { s with unpacker := .idle })
  have hland : d.landed = s.landed.map fun e =>
      if e.seg.offset = g.offset then { e with state := EntryState.deferred } else e := by
    simp only [d, deferOn, modPage_landed]
    rfl
  obtain ⟨p', hpd, hp'⟩ : ∃ p', d.page f = some p' ∧ p' =
      { p with deferred := (d.landed.map fun e => e.seg.offset).filter fun x =>
          x == g.offset || p.deferred.contains x } :=
    ⟨_, page_modPage (s := setEntry g.offset .deferred { s with unpacker := .idle }) _ hf, by
      simp only [d, deferOn, modPage_landed]⟩
  have hkey : p'.key = g.header.key := by rw [hp', ← present_key hp]
  have hfd : d.findPage p'.key = some f := by
    rw [hkey, ← hfind]
    simp only [d, deferOn]
    exact findPage_modPage f _ (by intro; rfl) (setEntry g.offset .deferred { s with unpacker := .idle }) _
  have hmem : g.offset ∈ p'.deferred := by
    obtain ⟨e, hm, rfl⟩ := he
    rw [hp', hland]
    exact List.mem_filter.2 ⟨List.mem_map.2 ⟨_, List.mem_map.2 ⟨e, hm, rfl⟩, by simp⟩, by simp⟩
  obtain ⟨q, hq, ho⟩ := mem_deferred_takeWork (s := d) (present_eq_some.2 ⟨hfd, hpd⟩) hmem
      (by rw [hp']; exact hl) fun e hm ho => by
    rw [hland] at hm
    obtain ⟨x, -, rfl⟩ := List.mem_map.1 hm
    split at ho <;> simp_all
  refine ⟨q, heq ▸ hq, ho, ?_⟩
  rw [heq, ← hland]
  exact show (takeWork false d).steady.landed = d.steady.landed by rw [(takeWork_reacts false d).steady]

/-- Settles O53: when the Unpacker is granted, and the outcomes of R46's test, R14's claim and R47's deferral. -/
theorem segmentsClaimTheirPage : Obligations.SegmentsClaimTheirPage := by
  refine ⟨fun s => grants_unpacker, fun s g n => grantsRun_unpacker, fun s g f p c hw hf hp hg hc => ?_,
    fun s g _ hup => ⟨fun c u hw hc => ⟨fun hp => ?_, fun f p hp ht => ⟨fun hl hg => ?_, fun hl hd he => ?_,
      fun hl hd => ?_⟩⟩, fun h b hw => ⟨fun f p hp hl => ?_, fun f p e hp hl he hseg hs => ?_⟩⟩⟩
  · have hk : g.header.kind.toNat ∈ [2, 3, 5] := by
      simp only [List.mem_cons, Prod.mk.injEq, List.not_mem_nil, or_false] at hc ⊢
      exact hc.imp And.left (Or.imp And.left And.left)
    obtain ⟨apply, ha⟩ := Claims.of_mem (u := .whole) (c := c) (k := g.header.kind) (by
      simp only [List.mem_cons, Prod.mk.injEq, List.not_mem_nil, or_false] at hc ⊢
      tauto)
    rw [ha.exec_claimed hk hw hf, ha.waits hk hp hg]
  · obtain ⟨apply, ha⟩ := Claims.of_mem hc
    have hs : AtWork s s := .refl (purgeWaits_of_none hup)
    have hx : exec c s = .next (refuseSegment .outOfPlace g 0 s) := by
      rw [ha.exec_taken hw]
      simp only [claimThen, headerClaim_outOfPlace hp]
    have he := hs.refused (g := g) rfl .outOfPlace 0
    exact ⟨_, hx, he.state, bytesKept_of_mem (hs.refused_mem _ _), he.reports⟩
  · obtain ⟨apply, ha⟩ := Claims.of_mem hc
    rw [ha.exec_taken hw]
    simp only [claimThen, headerClaim_granted hp ht hl]
    cases u with
    | claim => rfl
    | whole =>
      obtain ⟨hk, hg⟩ := hg.resolve_left (by simp)
      exact congrArg Host.Outcome.next
        (ha.waits (s := grantClaim g f s) hk (present_eq_some.1 hp).2 hg)
  · obtain ⟨apply, ha⟩ := Claims.of_mem hc
    obtain ⟨q, hq, ho, hland⟩ := deferSegment_defers hp hl hd he
    refine ⟨_, q, ?_, hq, ho, hland⟩
    rw [ha.exec_taken hw]
    simp only [claimThen, headerClaim_refused hp ht hl]
  · obtain ⟨apply, ha⟩ := Claims.of_mem hc
    rw [ha.exec_taken hw]
    simp only [claimThen, headerClaim_refused hp ht hl, deferSegment, (present_eq_some.1 hp).2,
      if_neg (Nat.not_lt.2 hd)]
    rfl
  · refine congrArg Host.Outcome.next ?_
    simp [deferralStallEnd, hw, deferralOver, hp, Nat.ne_of_gt hl]
  · have hx : deferralStallEnd s = takeWork false { s with unpacker := .idle } := by
      simp [deferralStallEnd, hw, deferralOver, hp, hl]
    obtain ⟨k, ph, hk⟩ := takeWork_working (s := { s with unpacker := .idle }) rfl he hs
    exact ⟨_, k, ph, congrArg Host.Outcome.next hx, hk, (takeWork_reacts false _).steady⟩

end Sys2Proof.Machine
end

section
/-! ## What reactions keep of the queues, and EXPOSED -/

namespace Sys2Proof.Machine

/-! ### The lanes under the Unpacker's steps -/

theorem undefer_lanes (k : Key) (o : Nat) (s : State) : (undefer k o s).lanes = s.lanes := by
  unfold undefer
  split <;> simp

theorem takeUp_lanes (e : LandedEntry) (s : State) : (takeUp e s).lanes = s.lanes := by
  rw [takeUp, undefer_lanes]

theorem claimNow_lanes (s : State) : (claimNow s).lanes = s.lanes := by
  unfold claimNow
  split
  · split <;> rfl
  · rfl

theorem lane_of_lanes {s t : State} (h : t.lanes = s.lanes) (l : LaneId) : t.lane l = s.lane l := by
  rw [State.lane, h]; rfl

/-- A property of the lanes that the choice's own changes of a lane keep, reactions keep (R119). -/
theorem reactionsKeep_lanes {P : Quad Lane → Prop}
    (held : ∀ l v (s : State), P s.lanes → P (modLane l (fun L => { L with lastHeld := v }) s).lanes)
    (ctx : ∀ l c (s : State), P s.lanes →
      P (modLane l (fun L => { L with backCtx := some c, lastHeld := none }) s).lanes)
    (reason : ∀ l tag r (s : State), P s.lanes → P (modPlate l tag (fun x => { x with held := some r }) s).lanes)
    (loads : ∀ l tag v g (s : State), P s.lanes →
      P (modPlate l tag (fun x => { x with state := .loading, held := none, version := v, generation := g }) s).lanes) :
    ReactionsKeep fun t => P t.lanes := by
  have from_ : ∀ {l : LaneId} (ps : List Plate) (s : State), P s.lanes → P (chooseFrom l ps s).lanes := by
    intro l ps
    induction ps with
    | nil =>
      intro s h
      unfold chooseFrom choiceEmpty
      split
      · exact held _ _ _ h
      · split
        · exact h
        · split
          · exact h
          · exact held _ _ _ (by rw [submit_lanes]; exact h)
    | cons p ps ih =>
      intro s h
      unfold chooseFrom
      split
      · unfold beginLoading
        split
        · exact ctx _ _ _ (loads _ _ _ _ _ (by rw [takeLock, modPage_lanes]; exact h))
        · exact h
      · refine ih _ ?_
        unfold setHeld
        split
        · exact reason _ _ _ _ h
        · exact h
  refine ⟨fun l s h => ?_, fun e t h => ?_, fun t h => ?_, fun _ h => h⟩
  · unfold choose
    split
    · exact from_ _ s h
    · exact h
  · rw [takeUp_lanes]; exact h
  · rw [claimNow_lanes]; exact h

/-! ### Tags and front plates -/

/-- The tags of a lane's queue, in queue order. -/
def Lane.tags (L : Lane) : List Tag := L.queue.map Plate.tag

theorem tags_modLane (l k : LaneId) (g : Lane → Lane) (s : State) (h : ∀ L, (g L).tags = L.tags) :
    ((modLane l g s).lane k).tags = (s.lane k).tags := by
  by_cases hk : k = l
  · subst hk
    rw [lane_modLane, h]
  · rw [lane_modLane_ne _ _ hk]

theorem tags_modPlate (l k : LaneId) (tag : Tag) (g : Plate → Plate) (s : State) (h : ∀ p, (g p).tag = p.tag) :
    ((modPlate l tag g s).lane k).tags = (s.lane k).tags :=
  tags_modLane l k _ s fun L => by
    simp only [Lane.tags, List.map_map]
    refine List.map_congr_left fun p _ => ?_
    by_cases ht : p.tag = tag <;> simp [ht, h]

/-- Reactions leave each queue's tags in their order. -/
theorem reactionsKeep_tags (k : LaneId) (ts : List Tag) : ReactionsKeep fun t => (t.lane k).tags = ts := by
  refine reactionsKeep_lanes (P := fun q => (q.get k).tags = ts) ?_ ?_ ?_ ?_
  · exact fun l v s h => (tags_modLane l k _ s (by intro; rfl)).trans h
  · exact fun l c s h => (tags_modLane l k _ s (by intro; rfl)).trans h
  · exact fun l tag r s h => (tags_modPlate l k tag _ s (by intro; rfl)).trans h
  · exact fun l tag v g s h => (tags_modPlate l k tag _ s (by intro; rfl)).trans h

theorem liveTags_eq (s : State) : liveTags s = allLanes.flatMap fun l => (s.lane l).tags := rfl

theorem mem_liveTags {s : State} {tag : Tag} : tag ∈ liveTags s ↔ ∃ l, tag ∈ (s.lane l).tags := by
  rw [liveTags_eq, List.mem_flatMap]
  exact ⟨fun ⟨l, _, h⟩ => ⟨l, h⟩, fun ⟨l, h⟩ => ⟨l, mem_allLanes l, h⟩⟩

theorem front_modLane_none {l k : LaneId} {g : Lane → Lane} {s : State} (hg : ∀ L, (g L).queue = L.queue)
    (h : (s.lane k).front = none) : ((modLane l g s).lane k).front = none := by
  by_cases hk : k = l
  · subst hk
    rw [lane_modLane, Lane.front, hg]
    exact h
  · rwa [lane_modLane_ne _ _ hk]

theorem front_modPlate_none {l k : LaneId} {tag : Tag} {g : Plate → Plate} {s : State}
    (hg : ∀ p, p.state.onDrum = false → (g p).state.onDrum = false) (h : (s.lane k).front = none) :
    ((modPlate l tag g s).lane k).front = none := by
  by_cases hk : k = l
  · subst hk
    rw [modPlate, lane_modLane, Lane.front_eq_none]
    rw [Lane.front_eq_none] at h
    intro p hp
    obtain ⟨x, hx, rfl⟩ := List.mem_map.1 hp
    by_cases ht : x.tag = tag <;> simp [ht, h x hx, hg]
  · rwa [modPlate, lane_modLane_ne _ _ hk]

/-- Reactions bring no plate onto a drum. -/
theorem reactionsKeep_front (k : LaneId) : ReactionsKeep fun t => (t.lane k).front = none := by
  refine reactionsKeep_lanes (P := fun q => (q.get k).front = none) ?_ ?_ ?_ ?_
  · exact fun l v s h => front_modLane_none (l := l) (s := s) (fun _ => rfl) h
  · exact fun l c s h => front_modLane_none (l := l) (s := s) (fun _ => rfl) h
  · exact fun l tag r s h => front_modPlate_none (l := l) (s := s) (fun _ hp => hp) h
  · exact fun l tag v g s h => front_modPlate_none (l := l) (s := s) (fun _ _ => rfl) h

/-! ### START -/

theorem tags_sendStart (l k : LaneId) (p : Plate) (c : Latched) (s : State) :
    ((sendStart l p c s).lane k).tags = (s.lane k).tags := by
  unfold sendStart sendMsg
  exact (tags_modLane l k _ _ (by intro; rfl)).trans ((tags_modPlate l k _ _ _ (by intro; rfl)).trans
    (tags_modLane l k _ _ (by intro; rfl)))

theorem tags_tryStart (l k : LaneId) (s : State) : ((tryStart l s).lane k).tags = (s.lane k).tags := by
  unfold tryStart
  split
  · rename_i p c _
    exact (reactionsKeep_tags k _).lane l _ (tags_sendStart l k p c s)
  · rfl

theorem tryStart_reports (l : LaneId) (s : State) : s.reports <+: (tryStart l s).reports := by
  unfold tryStart
  split
  · rename_i p c _
    exact (choose_reacts l (sendStart l p c s)).reports
  · exact List.prefix_rfl

/-- No START follows outside RUN or with drum-ready clear (R134). -/
theorem tryStart_of_not_ready {l : LaneId} {s : State} (h : (s.lane l).mode ≠ .run ∨ (s.lane l).drumReady = false) :
    tryStart l s = s := by
  have : startReady s l = none := by
    unfold startReady
    split
    · rw [if_neg]
      rintro ⟨hm, -, hd, -⟩
      rcases h with h | h
      · exact h hm
      · simp [h] at hd
    · rfl
  simp [tryStart, this]

/-! ### Locks through the Unpacker's steps -/

/-- The Unpacker's own steps keep every lock count. -/
theorem takeUp_lockCount {e : LandedEntry} {s : State} {f n : Nat} (h : ∃ p, s.page f = some p ∧ p.lockCount = n) :
    ∃ p, (takeUp e s).page f = some p ∧ p.lockCount = n := by
  obtain ⟨p, hp, hn⟩ := h
  unfold takeUp undefer
  split
  · rename_i k _
    by_cases hk : f = k
    · subst hk
      exact ⟨_, page_modPage (s := { s with unpacker := .working e.seg .taken, payloadRead := Reading.start }) _ hp, hn⟩
    · exact ⟨p, (page_modPage_ne _ _ hk).trans hp, hn⟩
  · exact ⟨p, hp, hn⟩

theorem reactionsKeep_lockCount (f n : Nat) :
    ReactionsKeep fun t => NoLaneRuns t ∧ ∃ p, t.page f = some p ∧ p.lockCount = n :=
  reactionsKeep_quiet (fun _ _ h => takeUp_lockCount h)
    (fun t ⟨p, hp, hn⟩ => ⟨p, by rw [State.page, claimNow_pages]; exact hp, hn⟩) fun _ h => h

/-! ### EXPOSED -/

theorem takeMessage_eq {l : LaneId} {s : State} (h : (s.lane l).mode ≠ .fault) :
    takeMessage l s = modLane l (fun L => { L with lastMessage := some s.clock }) s := by
  simp [takeMessage, h]

/-- EXPOSED for the front plate, in FINISHING or CANCELLING (R139). -/
theorem exposedTaken_eq {l : LaneId} {s : State} {p : Plate} (hp : (s.lane l).front = some p)
    (hs : p.state = .finishing ∨ p.state = .cancelling) :
    exposedTaken l p.tag s = settleLocks s (exposeFront l p s) (tryStart l (exposeFront l p s)) := by
  simp [exposedTaken, hp, hs]

theorem releaseLock_lanes (k : Key) (s : State) : (releaseLock k s).lanes = s.lanes := by
  unfold releaseLock
  split <;> simp

theorem releaseLock_reports (k : Key) (s : State) : (releaseLock k s).reports = s.reports := by
  unfold releaseLock
  split <;> simp

theorem releaseLock_clock (k : Key) (s : State) : (releaseLock k s).clock = s.clock := by
  unfold releaseLock
  split <;> simp

/-- What EXPOSED does to the lanes: the front plate's rows, context and record go (R124, R139). -/
theorem exposeFront_lanes (l : LaneId) (p : Plate) (s : State) :
    (exposeFront l p s).lanes = (removePlate p.lane p.tag (dropFront l s)).lanes := by
  have h : (endPlate p .exposed (dropFront l s)).lanes = (removePlate p.lane p.tag (dropFront l s)).lanes := by
    simp only [endPlate, removePlate, modLane]
    split <;> simp only [releaseLock_lanes, submit_lanes]
  unfold exposeFront
  simp only
  split
  · rw [submit_lanes, h]
  · exact h

theorem exposeFront_lane {l : LaneId} {p : Plate} (s : State) (hl : p.lane = l) :
    (exposeFront l p s).lane l =
      { s.lane l with
        owed := 0, frontCtx := none, buffer := (s.lane l).buffer.filter fun r => r.mark != .front
        queue := (s.lane l).queue.filter fun x => x.tag != p.tag } := by
  rw [lane_of_lanes (exposeFront_lanes l p s), hl, removePlate, lane_modLane, dropFront, lane_modLane]

theorem exposeFront_lane_ne {l k : LaneId} {p : Plate} (s : State) (hl : p.lane = l) (hk : k ≠ l) :
    (exposeFront l p s).lane k = s.lane k := by
  rw [lane_of_lanes (exposeFront_lanes l p s), hl, removePlate, lane_modLane_ne _ _ hk, dropFront,
    lane_modLane_ne _ _ hk]

/-- The reports of EXPOSED: the plate's outcome, then TOO LATE for a withdraw that waited (R126, R139). -/
theorem exposeFront_reports {l : LaneId} (p : Plate) {s m : State} (hr : m.reports = s.reports)
    (hc : m.clock = s.clock) : (exposeFront l p m).reports =
      if p.withdrawPending then (submit (withdrawDone p.tag .tooLate) (submit (plateOutcome p 1 0) s)).reports
      else (submit (plateOutcome p 1 0) s).reports := by
  have h : (endPlate p .exposed (dropFront l m)).reports = (submit (plateOutcome p 1 0) s).reports := by
    have e : (submit (plateOutcome p 1 0) (dropFront l m)).reports = (submit (plateOutcome p 1 0) s).reports :=
      submit_reports_congr _ hr hc
    simp only [endPlate]
    split
    · exact (releaseLock_reports _ _).trans e
    · exact e
  have hk : (endPlate p .exposed (dropFront l m)).clock = (submit (plateOutcome p 1 0) s).clock := by
    rw [submit_clock, ← hc]
    simp only [endPlate]
    split
    · exact (releaseLock_clock _ _).trans (submit_clock _ _)
    · exact submit_clock _ _
  unfold exposeFront
  simp only
  split
  · exact submit_reports_congr _ h hk
  · exact h

/-- A plate's page has one lock less when the plate ends on the drum (R12). -/
theorem exposeFront_page {l : LaneId} {p : Plate} {s : State} {f : Nat} {g : Page} (hd : p.state.inFlight = true)
    (hp : s.present p.key = some (f, g)) :
    (exposeFront l p s).page f = some { g with lockCount := g.lockCount - 1 } := by
  obtain ⟨hk, hf⟩ := present_eq_some.1 hp
  have hpages : ∀ r : Report, (submit r (dropFront l s)).pages = s.pages := fun r => submit_pages r _
  have h : (endPlate p .exposed (dropFront l s)).page f = some { g with lockCount := g.lockCount - 1 } := by
    simp only [endPlate, hd, if_true]
    change (releaseLock p.key _).page f = _
    have hk' : (submit (plateOutcome p PlateEnd.exposed.code PlateEnd.exposed.cause) (dropFront l s)).findPage p.key =
        some f := by rw [findPage_congr (hpages _), hk]
    simp only [releaseLock, hk']
    exact page_modPage _ (by rw [State.page, hpages]; exact hf)
  unfold exposeFront
  simp only
  split
  · rw [State.page, submit_pages]; exact h
  · exact h

/-- A lane without its one front plate has none. -/
theorem QueueOk.front_filter {l : LaneId} {L : Lane} (h : QueueOk l L.queue) {p : Plate} (hp : L.front = some p) :
    ∀ x ∈ L.queue.filter (fun x => x.tag != p.tag), x.state.onDrum = false := by
  intro x hx
  obtain ⟨hm, ht⟩ := List.mem_filter.1 hx
  obtain ⟨hpm, hpd⟩ := Lane.front_mem hp
  by_contra hd
  have hxp : x = p := by
    obtain ⟨y, hy⟩ := List.length_eq_one_iff.1 (le_antisymm h.oneFront
      (List.length_pos_of_mem (List.mem_filter.2 ⟨hpm, hpd⟩)))
    have h1 : x ∈ L.queue.filter fun p => p.state.onDrum := List.mem_filter.2 ⟨hm, by simpa using hd⟩
    have h2 : p ∈ L.queue.filter fun p => p.state.onDrum := List.mem_filter.2 ⟨hpm, hpd⟩
    rw [hy] at h1 h2
    rw [List.mem_singleton.1 h1, List.mem_singleton.1 h2]
  simp [hxp] at ht

/-- Settles O47: the plate's outcome and removal, and what its lane and its page's locks then set off. -/
theorem exposedPlateLeavesLane : Obligations.ExposedPlateLeavesLane := by
  intro s l p hq hm hp hs
  let m := modLane l (fun L => { L with lastMessage := some s.clock }) s
  let s1 := exposeFront l p m
  have hpm : (m.lane l).front = some p := by rw [lane_modLane]; exact hp
  have hpl : p.lane = l := (hq.ok l).own p (Lane.front_mem hp).1
  have hx : exec (.exposed l p.tag) s = .next (settleLocks m s1 (tryStart l s1)) := by
    refine congrArg Host.Outcome.next ?_
    rw [takeMessage_eq hm]
    exact exposedTaken_eq hpm hs
  have hr : s1.reports <+: (settleLocks m s1 (tryStart l s1)).reports :=
    (tryStart_reports l s1).trans (settleLocks_reacts _ _ _).reports
  have hsr := exposeFront_reports (l := l) p (s := s) (m := m) rfl rfl
  have hlane : s1.lane l = _ := exposeFront_lane m hpl
  have hother : ∀ k, k ≠ l → s1.lane k = s.lane k := fun k hk =>
    (exposeFront_lane_ne m hpl hk).trans (lane_modLane_ne _ _ hk)
  have hmode : ∀ k, (s1.lane k).mode = (s.lane k).mode := fun k => by
    by_cases hk : k = l
    · rw [hk, hlane, lane_modLane]
    · rw [hother k hk]
  have hready : NoLaneRuns s ∨ (s.lane l).drumReady = false → tryStart l s1 = s1 := fun h =>
    tryStart_of_not_ready (h.imp (fun hn => by rw [hmode]; exact hn l) fun hd => by rw [hlane, lane_modLane]; exact hd)
  refine ⟨_, hx, ?_, ?_, fun hw => ?_, fun hidle => ?_, fun hn f g hg => ?_⟩
  · intro hmem
    obtain ⟨k, hk⟩ := mem_liveTags.1 hmem
    rw [(reactionsKeep_tags k _).settleLocks m s1 (tags_tryStart l k s1)] at hk
    by_cases hkl : k = l
    · subst hkl
      rw [hlane] at hk
      obtain ⟨x, hx, ht⟩ := List.mem_map.1 hk
      have := (List.mem_filter.1 hx).2
      simp [ht] at this
    · rw [hother k hkl] at hk
      exact ((queuesSafe_iff s).1 hq).2 k l hkl _ hk (List.mem_map.2 ⟨p, (Lane.front_mem hp).1, rfl⟩)
  · refine List.IsPrefix.trans ?_ hr
    rw [hsr]
    split
    · exact (submit_reacts _ _).reports
    · exact List.prefix_rfl
  · rw [hsr, if_pos hw] at hr
    exact hr
  · rw [hready hidle]
    have hc := control_of_steady (settleLocks_reacts m s1 s1).steady l
    have hkept : ∀ {α : Type} (v : Lane → α), v (s1.lane l).control = v ((settleLocks m s1 s1).lane l).control :=
      fun v => by rw [hc]
    refine ⟨(reactionsKeep_front l).settleLocks m s1 ?_, (hkept Lane.frontCtx).symm.trans ?_, fun r hrb => ?_,
      (hkept Lane.sent).symm.trans ?_⟩
    · rw [Lane.front_eq_none, hlane]
      have := (hq.ok l).front_filter hp
      rwa [lane_modLane]
    · change (s1.lane l).frontCtx = none
      rw [hlane]
    · have hb : ((settleLocks m s1 s1).lane l).buffer = (s1.lane l).buffer := (hkept Lane.buffer).symm
      rw [hb, hlane] at hrb
      have := (List.mem_filter.1 hrb).2
      cases hmark : r.mark with
      | back => rfl
      | front => simp [hmark] at this
    · change (s1.lane l).sent = (s.lane l).sent
      rw [hlane, lane_modLane]
  · rw [hready (.inl hn)]
    have hfl : p.state.inFlight = true := by rcases hs with h | h <;> rw [h] <;> rfl
    have h1 : NoLaneRuns s1 := fun k => by rw [hmode]; exact hn k
    exact ((reactionsKeep_lockCount f (g.lockCount - 1)).settleLocks m s1
      ⟨h1, _, exposeFront_page (s := m) hfl hg, rfl⟩).2

end Sys2Proof.Machine
end

section
/-! ## The choice of plate -/

namespace Sys2Proof.Machine

/-! ### Changes of one lane -/

theorem modLane_congr {l : LaneId} {g h : Lane → Lane} {s : State} (e : g (s.lane l) = h (s.lane l)) :
    modLane l g s = modLane l h s := by
  simp only [modLane]
  rw [show s.lanes.get l = s.lane l from rfl, e]

theorem modLane_self {l : LaneId} {g : Lane → Lane} {s : State} (e : g (s.lane l) = s.lane l) : modLane l g s = s := by
  simp only [modLane]
  rw [show s.lanes.get l = s.lane l from rfl, e, State.lane, Quad.set_get]

theorem modLane_modLane (l : LaneId) (g h : Lane → Lane) (s : State) :
    modLane l g (modLane l h s) = modLane l (fun L => g (h L)) s := by
  match l with
  | 0 | 1 | 2 | 3 => rfl

/-! ### The page table's answer -/

/-- R79's tests of a present page in their order, with the held reason of each. -/
def loadTests (s : State) (f : Nat) (p : Page) (release : Bool) : List (Bool × HeldReason) :=
  [(p.state != .closed, .pageOpen),
   (p.photos.any (·.state == .receiving) || s.unpackerPage == some f || p.purgePending.isSome, .revising),
   (p.deferred != [], .deferred), (p.damaged != 0 && !release, .damaged), (decide (4 ≤ p.lockCount), .lockLimit)]

theorem loadRequest_absent {s : State} {k : Key} (h : s.findPage k = none) (release : Bool) :
    loadRequest s k release = .refused none := by
  simp [loadRequest, present_eq_none.2 h]

/-- A load request is refused for the first test that fails, and granted where none does (R79). -/
theorem loadRequest_present {s : State} {k : Key} {f : Nat} {p : Page} (h : s.present k = some (f, p))
    (release : Bool) : loadRequest s k release =
      match (loadTests s f p release).find? Prod.fst with
      | some t => .refused (some t.2)
      | none => .granted f := by
  by_cases h1 : p.state = .closed
  · by_cases h2 : p.photos.any (fun r => r.state == .receiving) = true ∨ s.unpackerPage = some f ∨
        p.purgePending.isSome = true
    · have h2' : (p.photos.any (fun r => r.state == .receiving) || s.unpackerPage == some f ||
          p.purgePending.isSome) = true := by simpa [or_assoc] using h2
      simp only [loadRequest, h, ineligible, loadTests, h1, h2, h2', List.find?_cons]
      simp
    · have h2' : (p.photos.any (fun r => r.state == .receiving) || s.unpackerPage == some f ||
          p.purgePending.isSome) = false := by rw [← Bool.not_eq_true]; simpa [or_assoc] using h2
      by_cases h3 : p.deferred = []
      · by_cases h4 : p.damaged ≠ 0 ∧ release = false
        · have h4' : (p.damaged != 0 && !release) = true := by simpa using h4
          simp only [loadRequest, h, ineligible, loadTests, h1, h2, h2', h3, h4', List.find?_cons]
          simp [h4]
        · have h4' : (p.damaged != 0 && !release) = false := by rw [← Bool.not_eq_true]; simpa using h4
          by_cases h5 : 4 ≤ p.lockCount
          all_goals
            simp only [loadRequest, h, ineligible, loadTests, h1, h2, h2', h3, h4, h4', h5, List.find?_cons]
            simp
      · have h3' : (p.deferred != []) = true := by simpa using h3
        simp only [loadRequest, h, ineligible, loadTests, h1, h2, h2', h3', List.find?_cons]
        simp [h3]
  · simp [loadRequest, h, ineligible, loadTests, h1]

theorem loadRequest_refused_iff {s : State} {k : Key} {f : Nat} {p : Page} (h : s.present k = some (f, p))
    (release : Bool) (r : HeldReason) : loadRequest s k release = .refused (some r) ↔
      ((loadTests s f p release).find? Prod.fst).map Prod.snd = some r := by
  rw [loadRequest_present h]
  cases (loadTests s f p release).find? Prod.fst <;> simp

/-- What a page that can be locked is (R13). -/
theorem loadRequest_granted_iff {s : State} {k : Key} {f : Nat} {p : Page} (h : s.present k = some (f, p))
    (release : Bool) : loadRequest s k release = .granted f ↔
      p.state = .closed ∧ (∀ r ∈ p.photos, r.state = .complete) ∧ s.unpackerPage ≠ some f ∧ p.purgePending = none ∧
        p.deferred = [] ∧ (p.damaged = 0 ∨ release = true) ∧ p.lockCount < 4 := by
  have hphoto : ∀ x : PhotoRecord, ¬ x.state = .receiving ↔ x.state = .complete := fun x => by
    cases x.state <;> simp
  have hnone : loadRequest s k release = .granted f ↔ (loadTests s f p release).find? Prod.fst = none := by
    rw [loadRequest_present h]
    cases (loadTests s f p release).find? Prod.fst <;> simp
  rw [hnone, List.find?_eq_none]
  simp only [loadTests, List.forall_mem_cons]
  simp [hphoto, and_assoc, or_iff_not_imp_left]

/-! ### The refusals of a choice -/

theorem loadRequest_congr {s t : State} (hp : t.pages = s.pages) (hu : t.unpackerPage = s.unpackerPage) (k : Key)
    (release : Bool) : loadRequest t k release = loadRequest s k release := by
  have hpr : t.present k = s.present k := by
    unfold State.present State.page
    rw [findPage_congr hp, hp]
  unfold loadRequest ineligible
  rw [hpr, hu]

/-- A plate's held reason after its load request: that of a refusal with a reason, and otherwise the one it had
(R119). -/
def heldAfter (s : State) (x : Plate) : Option HeldReason :=
  match loadRequest s x.key x.release with
  | .refused (some r) => some r
  | _ => x.held

/-- A lane's queue with some plates' held reasons as their load requests leave them. -/
def refuse (l : LaneId) (qs : List Plate) (s : State) : State :=
  modLane l (fun L => { L with queue := L.queue.map fun x => if x ∈ qs then { x with held := heldAfter s x } else x }) s

theorem heldAfter_refuse (l : LaneId) (qs : List Plate) (s : State) (x : Plate) :
    heldAfter (refuse l qs s) x = heldAfter s x := by
  unfold heldAfter
  rw [loadRequest_congr (t := refuse l qs s) (s := s) rfl rfl]

/-- One refusal (R119). -/
theorem setHeld_eq_refuse {l : LaneId} {s : State} {q : Plate} (hn : (s.lane l).tags.Nodup)
    (hq : q ∈ (s.lane l).queue) {r : Option HeldReason} (hr : loadRequest s q.key q.release = .refused r) :
    setHeld l q.tag r s = refuse l [q] s := by
  have same : ∀ x ∈ (s.lane l).queue, x.tag = q.tag → x = q := fun x hx ht => List.inj_on_of_nodup_map hn hx hq ht
  have queue (φ : Plate → Plate) (h : ∀ x ∈ (s.lane l).queue,
        φ x = if x ∈ [q] then { x with held := heldAfter s x } else x) :
      modLane l (fun L => { L with queue := L.queue.map φ }) s = refuse l [q] s :=
    modLane_congr (by rw [List.map_congr_left h])
  cases r with
  | none =>
    have hid : modLane l (fun L => { L with queue := L.queue.map fun x => x }) s = s := modLane_self (by simp)
    refine Eq.trans hid.symm (queue _ fun x hx => ?_)
    by_cases hm : x ∈ [q]
    · rw [if_pos hm, List.mem_singleton.1 hm]
      simp [heldAfter, hr]
    · rw [if_neg hm]
  | some h =>
    refine queue _ fun x hx => ?_
    by_cases ht : x.tag = q.tag
    · rw [if_pos ht, same x hx ht]
      simp [heldAfter, hr]
    · rw [if_neg ht, if_neg (by rintro hm; exact ht (by rw [List.mem_singleton.1 hm]))]

theorem refuse_nil (l : LaneId) (s : State) : refuse l [] s = s := modLane_self (by simp)

/-- Refusals of a first plate and of further ones (R119). -/
theorem refuse_refuse {l : LaneId} {s : State} {q : Plate} {qs : List Plate} (hn : ((q :: qs).map Plate.tag).Nodup) :
    refuse l qs (refuse l [q] s) = refuse l (q :: qs) s := by
  have hq : ∀ x ∈ qs, x.tag ≠ q.tag := fun x hx ht =>
    (List.nodup_cons.1 hn).1 (ht ▸ List.mem_map.2 ⟨x, hx, rfl⟩)
  have houter : refuse l qs (refuse l [q] s) = modLane l (fun L => { L with
      queue := L.queue.map fun x => if x ∈ qs then { x with held := heldAfter s x } else x }) (refuse l [q] s) := by
    conv_lhs => rw [refuse]
    simp only [heldAfter_refuse]
  rw [houter]
  unfold refuse
  rw [modLane_modLane]
  refine modLane_congr ?_
  simp only [List.map_map]
  congr 1
  refine List.map_congr_left fun x _ => ?_
  by_cases hx : x = q
  · subst hx
    have : ({ x with held := heldAfter s x } : Plate) ∉ qs := fun hm => hq _ hm rfl
    simp [this]
  · simp [hx]

theorem refuse_tags (l k : LaneId) (qs : List Plate) (s : State) : ((refuse l qs s).lane k).tags = (s.lane k).tags :=
  tags_modLane l k _ s fun L => by
    simp only [Lane.tags, List.map_map]
    refine List.map_congr_left fun x _ => ?_
    by_cases hx : x ∈ qs <;> simp [hx]

theorem mem_refuse {l : LaneId} {qs : List Plate} {s : State} {x : Plate} (hx : x ∈ (s.lane l).queue) (hn : x ∉ qs) :
    x ∈ ((refuse l qs s).lane l).queue := by
  rw [refuse, lane_modLane]
  exact List.mem_map.2 ⟨x, hx, if_neg hn⟩

/-- The refused plates before the rest of a choice (R119). -/
theorem chooseFrom_refused {l : LaneId} (rest : List Plate) : ∀ (qs : List Plate) {s : State},
    (s.lane l).tags.Nodup → (qs.map Plate.tag).Nodup → (∀ x ∈ qs, x ∈ (s.lane l).queue) →
    (∀ x ∈ qs, ∃ r, loadRequest s x.key x.release = .refused r) →
    chooseFrom l (qs ++ rest) s = chooseFrom l rest (refuse l qs s)
  | [], s, _, _, _, _ => by rw [refuse_nil]; rfl
  | q :: qs, s, hn, hqn, hmem, href => by
    obtain ⟨r, hr⟩ := href q List.mem_cons_self
    have hq : ∀ x ∈ qs, x ∉ [q] := fun x hx hxq => (List.nodup_cons.1 hqn).1
      (List.mem_map.2 ⟨x, hx, by rw [List.mem_singleton.1 hxq]⟩)
    have step : chooseFrom l (q :: qs ++ rest) s = chooseFrom l (qs ++ rest) (setHeld l q.tag r s) := by
      simp only [List.cons_append, chooseFrom, hr]
    rw [step, setHeld_eq_refuse hn (hmem q List.mem_cons_self) hr,
      chooseFrom_refused rest qs (by rwa [refuse_tags]) (List.nodup_cons.1 hqn).2
        (fun x hx => mem_refuse (hmem x (List.mem_cons_of_mem _ hx)) (hq x hx))
        (fun x hx => by
          rw [loadRequest_congr (t := refuse l [q] s) (s := s) rfl rfl]
          exact href x (List.mem_cons_of_mem _ hx)),
      refuse_refuse hqn]

/-! ### The plate loaded -/

/-- A plate as LOADING begins (R106, R119). -/
def Plate.loadingFor (x : Plate) (p : Page) (pr : Profile) : Plate :=
  { x with state := .loading, held := none, version := some p.version, generation := some pr.generation }

theorem beginLoading_eq {l : LaneId} {pl : Plate} {f : Nat} {s : State} {p : Page} {pr : Profile}
    (hp : s.page f = some p) (hpr : s.profile = some pr) : beginLoading l pl f s =
      modLane l (fun L => { L with
        queue := L.queue.map fun x => if x.tag = pl.tag then x.loadingFor p pr else x
        backCtx := some ⟨contextFor l pl f p pr, 0, []⟩, lastHeld := none }) (takeLock f s) := by
  simp only [beginLoading, hp, hpr, modPlate, modLane_modLane]
  rfl

/-- Among plates none of which is LOADING, the one of a tag that begins LOADING is the back plate. -/
theorem find?_loading {q : List Plate} {pl : Plate} {g : Plate → Plate} (hn : (q.map Plate.tag).Nodup) (hm : pl ∈ q)
    (hb : ∀ x ∈ q, x.state ≠ .loading) (hg : (g pl).state = .loading) :
    (q.map fun x => if x.tag = pl.tag then g x else x).find? (fun x => x.state == .loading) = some (g pl) := by
  induction q with
  | nil => cases hm
  | cons a q ih =>
    rw [List.map_cons]
    by_cases ha : a.tag = pl.tag
    · obtain rfl := List.inj_on_of_nodup_map hn List.mem_cons_self hm ha
      rw [if_pos rfl, List.find?_cons_of_pos (by simp [hg])]
    · rw [if_neg ha, List.find?_cons_of_neg (by simpa using hb a List.mem_cons_self)]
      exact ih (List.nodup_cons.1 hn).2 ((List.mem_cons.1 hm).resolve_left fun e => ha (by rw [e]))
        fun x hx => hb x (List.mem_cons_of_mem _ hx)

theorem takeLock_lanes (f : Nat) (s : State) : (takeLock f s).lanes = s.lanes := modPage_lanes _ _ _

/-- Plates refused before the first that is granted: it is LOADING, and the others keep what the refusals left
(R119). -/
theorem loads_lane {l : LaneId} {s : State} {qs : List Plate} {pl : Plate} {f : Nat} {p : Page} {pr : Profile}
    (hp : s.page f = some p) (hpr : s.profile = some pr) :
    (beginLoading l pl f (refuse l qs s)).lane l = { s.lane l with
      queue := ((s.lane l).queue.map fun x => if x ∈ qs then { x with held := heldAfter s x } else x).map
        fun x => if x.tag = pl.tag then x.loadingFor p pr else x
      backCtx := some ⟨contextFor l pl f p pr, 0, []⟩, lastHeld := none } := by
  have ht : (takeLock f (refuse l qs s)).lane l = (refuse l qs s).lane l := lane_of_lanes (takeLock_lanes _ _) l
  rw [beginLoading_eq (s := refuse l qs s) hp hpr, lane_modLane, ht, refuse, lane_modLane]

/-- The plates of other tags are left as a first change has them by a second one of the plates of one tag. -/
theorem filter_tag_map_map {a g : Plate → Plate} {tag : Tag} (ha : ∀ x, (a x).tag = x.tag) (hg : ∀ x, (g x).tag = x.tag)
    (q : List Plate) :
    ((q.map a).map fun x => if x.tag = tag then g x else x).filter (fun x => x.tag != tag) =
      (q.filter fun x => x.tag != tag).map a := by
  induction q with
  | nil => rfl
  | cons x q ih =>
    by_cases hx : x.tag = tag
    · simp [ha, hg, hx] at ih ⊢
      exact ih
    · simp [ha, hx] at ih ⊢
      exact ih

/-- The queue of a choice with no plate granted, as the end of the choice finds it (R120). -/
theorem choiceEmpty_refused {l : LaneId} {s : State} {pl : Plate} {ps : List Plate}
    (hq : (s.lane l).queued = pl :: ps) :
    let t := refuse l (s.lane l).queued s
    (heldAfter s pl = none → choiceEmpty l t = t) ∧
      ∀ r, heldAfter s pl = some r →
        ((s.lane l).lastHeld = some (pl.tag, r) → choiceEmpty l t = t) ∧
        ((s.lane l).lastHeld ≠ some (pl.tag, r) → choiceEmpty l t =
          modLane l (fun L => { L with lastHeld := some (pl.tag, r) }) (submit (heldNotice l pl r) t)) := by
  intro t
  have hmem : pl ∈ (s.lane l).queued := hq ▸ List.mem_cons_self
  have hlane : t.lane l = _ := lane_modLane l _ s
  have hstate : ∀ x ∈ (s.lane l).queue, ((if x ∈ (s.lane l).queued then { x with held := heldAfter s x } else x) :
      Plate).state = x.state := fun x _ => by split <;> rfl
  have hqueued : (t.lane l).queued = { pl with held := heldAfter s pl } ::
      ps.map fun x => if x ∈ (s.lane l).queued then { x with held := heldAfter s x } else x := by
    rw [hlane, Lane.queued, List.filter_map]
    have : ((s.lane l).queue.filter ((fun p => p.state == .queued) ∘ fun x =>
        if x ∈ (s.lane l).queued then { x with held := heldAfter s x } else x)) = (s.lane l).queued :=
      List.filter_congr fun x hx => by simp only [Function.comp_apply, hstate x hx]
    rw [this, hq, List.map_cons, ← hq, if_pos hmem]
  have hlast : (t.lane l).lastHeld = (s.lane l).lastHeld := by rw [hlane]
  refine ⟨fun hn => ?_, fun r hr => ⟨fun hl => ?_, fun hl => ?_⟩⟩
  · simp only [choiceEmpty, hqueued, hn]
  · simp only [choiceEmpty, hqueued, hr, hlast]
    rw [if_pos hl]
  · simp only [choiceEmpty, hqueued, hr, hlast]
    rw [if_neg hl]
    rfl

theorem Lane.mem_queued {L : Lane} {x : Plate} : x ∈ L.queued ↔ x ∈ L.queue ∧ x.state = .queued := by
  simp [Lane.queued]

theorem choose_of_ready {l : LaneId} {s : State} (hm : (s.lane l).mode = .run) (hb : (s.lane l).back = none) :
    choose l s = chooseFrom l (s.lane l).queued s := if_pos ⟨hm, hb⟩

/-- Settles O42: the page table's answer test by test, and a choice by its refusals and its first grant. -/
theorem choiceLoadsEligiblePlate : Obligations.ChoiceLoadsEligiblePlate := by
  refine ⟨fun s k release => ⟨fun h => loadRequest_absent h release, fun f p h => ⟨fun r =>
    loadRequest_refused_iff h release r, loadRequest_granted_iff h release⟩⟩, fun s l hq => ?_⟩
  have hn : (s.lane l).tags.Nodup := (hq.ok l).tags
  have hsub : (s.lane l).queued.Sublist (s.lane l).queue := List.filter_sublist
  have hqn : ((s.lane l).queued.map Plate.tag).Nodup := (hsub.map _).nodup hn
  intro held
  have hheld : held = heldAfter s := rfl
  refine ⟨fun h => ?_, fun hm hb => ⟨fun qs ps pl f p pr hqs hpr href hg hp => ?_, fun he => ?_,
    fun pl ps hqs href => ?_⟩⟩
  · exact if_neg fun ⟨hm, hb⟩ => h.elim (· hm) (· hb)
  · have hpl : pl ∈ (s.lane l).queue := hsub.subset (by rw [hqs]; simp)
    have hps : pl ∉ qs := fun h => by
      rw [hqs, List.map_append, List.map_cons] at hqn
      exact (List.nodup_append.1 hqn).2.2 _ (List.mem_map.2 ⟨pl, h, rfl⟩) _ List.mem_cons_self rfl
    have hc : choose l s = beginLoading l pl f (refuse l qs s) := by
      rw [choose_of_ready hm hb, hqs, chooseFrom_refused (pl :: ps) qs hn
        ((List.Sublist.map _ (hqs ▸ List.sublist_append_left qs (pl :: ps))).nodup hqn)
        (fun x hx => hsub.subset (by rw [hqs]; exact List.mem_append_left _ hx)) href]
      rw [chooseFrom, loadRequest_congr (t := refuse l qs s) (s := s) rfl rfl, hg]
    have hlane := loads_lane (l := l) (qs := qs) (pl := pl) hp hpr
    have hpage := beginLoading_eq (l := l) (pl := pl) (s := refuse l qs s) hp hpr
    refine ⟨_, hc, ?_, fun g hgf => ?_, ?_, ?_, ?_, by rw [hlane], by rw [hlane]; rfl, fun k hk => ?_, ?_, ?_⟩
    · rw [hpage]
      exact page_modPage _ hp
    · rw [hpage]
      exact page_modPage_ne _ (refuse l qs s) hgf
    · rw [hlane, Lane.back]
      refine find?_loading (g := fun x => x.loadingFor p pr) ?_ (List.mem_map.2 ⟨pl, hpl, if_neg hps⟩) ?_ rfl
      · have := refuse_tags l l qs s
        rw [refuse, lane_modLane] at this
        rw [Lane.tags] at this
        rw [this]
        exact hn
      · intro x hx
        obtain ⟨y, hy, rfl⟩ := List.mem_map.1 hx
        have := Lane.back_eq_none.1 hb y hy
        split <;> exact this
    · rw [hlane]
      exact filter_tag_map_map (a := fun x => if x ∈ qs then { x with held := heldAfter s x } else x)
        (g := fun x => x.loadingFor p pr) (fun x => by split <;> rfl) (fun _ => rfl) _
    · rw [← hc]
      exact (reactionsKeep_tags l _).lane l s rfl
    · rw [hpage, lane_modLane_ne _ _ hk, lane_of_lanes (takeLock_lanes _ _), refuse, lane_modLane_ne _ _ hk]
    · rw [hpage]
      exact modPage_reports _ _ _
    · rw [hpage]
      exact modPage_mem _ _ _
  · rw [choose_of_ready hm hb, he]
    simp only [chooseFrom, choiceEmpty, he]
  · intro refused
    have hr : refuse l (s.lane l).queued s = refused := modLane_congr (by
      congr 1
      refine List.map_congr_left fun x hx => ?_
      simp only [Lane.mem_queued, hx, true_and, hheld])
    have hc : choose l s = choiceEmpty l refused := by
      have := chooseFrom_refused [] (s.lane l).queued hn hqn (fun x hx => hsub.subset hx) href
      rw [List.append_nil] at this
      rw [choose_of_ready hm hb, this, hr]
      rfl
    rw [hc, ← hr, hheld]
    exact choiceEmpty_refused hqs

end Sys2Proof.Machine
end

section
/-! ## Purges -/

namespace Sys2Proof.Machine

/-! ### Reports beside the rest of the state -/

/-- A state with the pending reports and the drops of another. -/
def State.withReports (t u : State) : State :=
  { t with reports := u.reports, overflowFlag := u.overflowFlag, overflowOwed := u.overflowOwed }

theorem withReports_self (s : State) : s.withReports s = s := rfl

/-- A submission goes by the reports, the drops and the clock alone (R159, R170). -/
theorem submit_withReports (r : Report) {t u : State} (h : t.clock = u.clock) :
    submit r (t.withReports u) = t.withReports (submit r u) := by
  unfold submit noteDrop State.withReports
  simp only [h]
  split
  · rfl
  · split <;> rfl

theorem submitAll_append (as bs : List Report) (s : State) :
    submitAll (as ++ bs) s = submitAll bs (submitAll as s) :=
  List.foldl_append

theorem submitAll_cons (r : Report) (rs : List Report) (s : State) :
    submitAll (r :: rs) s = submitAll rs (submit r s) :=
  rfl

theorem submitAll_withReports (rs : List Report) {t u : State} (h : t.clock = u.clock) :
    submitAll rs (t.withReports u) = t.withReports (submitAll rs u) := by
  induction rs generalizing u with
  | nil => rfl
  | cons r rs ih =>
    rw [submitAll_cons, submit_withReports r h, ih (h.trans (submit_clock r u).symm), ← submitAll_cons]

theorem submitAll_eq (rs : List Report) (s : State) : submitAll rs s = s.withReports (submitAll rs s) := by
  conv_lhs => rw [← withReports_self s]
  exact submitAll_withReports rs rfl

theorem submitAll_clock (rs : List Report) (s : State) : (submitAll rs s).clock = s.clock := by
  rw [submitAll_eq]
  rfl

/-- What submissions add depends on the reports, the drops and the clock alone. -/
theorem submitAll_congr (rs : List Report) {t s : State} (hr : t.reports = s.reports)
    (hf : t.overflowFlag = s.overflowFlag) (ho : t.overflowOwed = s.overflowOwed) (hc : t.clock = s.clock) :
    submitAll rs t = t.withReports (submitAll rs s) := by
  have h : t = t.withReports s := by
    unfold State.withReports
    rw [← hr, ← hf, ← ho]
  conv_lhs => rw [h]
  exact submitAll_withReports rs hc

/-! ### The plates withdrawn -/

/-- The outcome of a QUEUED plate that a purge withdraws (R19, R127). -/
def purgedOutcome (x : Plate) : Report := plateOutcome x 4 6

theorem endPlate_purge {x : Plate} (hx : x.state = .queued) {t u : State} (h : t.clock = u.clock) :
    endPlate x .withdrawnByPurge (t.withReports u) =
      (removePlate x.lane x.tag t).withReports (submit (purgedOutcome x) u) := by
  have hf : x.state.inFlight = false := by rw [hx]; rfl
  simp only [endPlate, hf, Bool.false_eq_true, if_false]
  change removePlate x.lane x.tag (submit (purgedOutcome x) (t.withReports u)) = _
  rw [submit_withReports _ h]
  rfl

theorem foldl_endPlate {l : LaneId} (ps : List Plate) {t u : State} (hl : ∀ x ∈ ps, x.lane = l)
    (hs : ∀ x ∈ ps, x.state = .queued) (h : t.clock = u.clock) :
    ps.foldl (fun t x => endPlate x .withdrawnByPurge t) (t.withReports u) =
      (modLane l (fun L => { L with queue := L.queue.filter fun x => !(ps.map Plate.tag).contains x.tag })
        t).withReports (submitAll (ps.map purgedOutcome) u) := by
  induction ps generalizing t u with
  | nil =>
    have hself : modLane l (fun L => { L with queue := L.queue.filter fun x =>
        !(([] : List Plate).map Plate.tag).contains x.tag }) t = t := modLane_self (by simp)
    rw [hself]
    rfl
  | cons x ps ih =>
    obtain ⟨hxl, hl⟩ := List.forall_mem_cons.1 hl
    obtain ⟨hxs, hs⟩ := List.forall_mem_cons.1 hs
    rw [List.foldl_cons, endPlate_purge hxs h,
      ih (t := removePlate x.lane x.tag t) hl hs (h.trans (submit_clock _ _).symm), removePlate, hxl,
      modLane_modLane]
    refine congrArg₂ State.withReports (modLane_congr ?_) rfl
    simp only [List.filter_filter, List.map_cons, List.contains_cons]
    congr 2
    funext y
    rw [Bool.not_or, Bool.and_comm]
    rfl

/-- Whether a plate is QUEUED for a page's key, and so is withdrawn by its purge. -/
def purgedBy (k : Key) (x : Plate) : Bool := x.state == .queued && x.key == k

/-- Step 1 of R19 in one queue. -/
theorem withdrawQueued_eq {k : Key} {l : LaneId} {t u : State} (hq : QueueOk l (t.lane l).queue)
    (h : t.clock = u.clock) :
    withdrawQueued k l (t.withReports u) =
      (modLane l (fun L => L.without k) t).withReports
        (submitAll (((t.lane l).queue.filter (purgedBy k)).map purgedOutcome) u) := by
  have hps : ((t.withReports u).lane l).queued.filter (fun p => p.key == k) = (t.lane l).queue.filter (purgedBy k) := by
    rw [Lane.queued, List.filter_filter]
    exact List.filter_congr fun x _ => Bool.and_comm _ _
  rw [withdrawQueued, hps, foldl_endPlate (l := l) _ (fun x hx => hq.own x (List.mem_filter.1 hx).1)
    (fun x hx => by simpa using (Bool.and_eq_true_iff.1 (List.mem_filter.1 hx).2).1) h]
  refine congrArg₂ State.withReports (modLane_congr ?_) rfl
  unfold Lane.without
  congr 1
  refine List.filter_congr fun x hx => ?_
  congr 1
  rw [Bool.eq_iff_iff, List.contains_iff_mem]
  constructor
  · intro hm
    obtain ⟨y, hy, ht⟩ := List.mem_map.1 hm
    obtain ⟨hyq, hyp⟩ := List.mem_filter.1 hy
    rw [← hq.eq_of_tag hyq hx ht]
    exact hyp
  · exact fun hp => List.mem_map.2 ⟨x, List.mem_filter.2 ⟨hx, hp⟩, rfl⟩

/-- A lane's reports of a purge. -/
def laneReports (k : Key) (s : State) (l : LaneId) : List Report :=
  ((s.lane l).queue.filter (purgedBy k)).map purgedOutcome

theorem modLane_all (g : Lane → Lane) (s : State) : modLane 3 g (modLane 2 g (modLane 1 g (modLane 0 g s))) =
    { s with lanes := ⟨g s.lanes.q0, g s.lanes.q1, g s.lanes.q2, g s.lanes.q3⟩ } := rfl

/-- Step 1 of R19: lanes from 0 to 3. -/
theorem withdrawAll_eq {s : State} (hq : QueuesSafe s) (k : Key) :
    withdrawAll k s =
      ({ s with lanes := ⟨s.lanes.q0.without k, s.lanes.q1.without k, s.lanes.q2.without k, s.lanes.q3.without k⟩ } :
        State).withReports (submitAll (allLanes.flatMap (laneReports k s)) s) := by
  have hreports : allLanes.flatMap (laneReports k s) =
      laneReports k s 0 ++ laneReports k s 1 ++ laneReports k s 2 ++ laneReports k s 3 := by
    simp [allLanes]
  have step {l : LaneId} {t u : State} (ht : t.lane l = s.lane l) (hc : t.clock = u.clock) :
      withdrawQueued k l (t.withReports u) =
        (modLane l (fun L => L.without k) t).withReports (submitAll (laneReports k s l) u) := by
    rw [withdrawQueued_eq (ht ▸ hq.ok l) hc, ht]
    rfl
  have clock (rs : List Report) (t : State) : t.clock = s.clock → s.clock = (submitAll rs t).clock := fun h =>
    h.symm.trans (submitAll_clock rs t).symm
  let W (L : Lane) : Lane := L.without k
  have h0 : withdrawQueued k 0 s = (modLane 0 W s).withReports (submitAll (laneReports k s 0) s) :=
    step (t := s) (u := s) rfl rfl
  have n1 : (modLane 0 W s).lane 1 = s.lane 1 := lane_modLane_ne _ _ (by decide)
  have n2 : (modLane 1 W (modLane 0 W s)).lane 2 = s.lane 2 :=
    (lane_modLane_ne _ _ (by decide)).trans (lane_modLane_ne _ _ (by decide))
  have n3 : (modLane 2 W (modLane 1 W (modLane 0 W s))).lane 3 = s.lane 3 :=
    (lane_modLane_ne _ _ (by decide)).trans ((lane_modLane_ne _ _ (by decide)).trans (lane_modLane_ne _ _ (by decide)))
  have c1 := clock (laneReports k s 0) s rfl
  have c2 := clock (laneReports k s 1) _ c1.symm
  have c3 := clock (laneReports k s 2) _ c2.symm
  rw [hreports, submitAll_append, submitAll_append, submitAll_append, withdrawAll, h0, step n1 c1, step n2 c2,
    step n3 c3, modLane_all]

/-! ### The deferred entries -/

/-- Landed entries with those at some ring offsets DONE. -/
def markAll (ds : List Nat) (es : List LandedEntry) : List LandedEntry :=
  es.map fun e => if ds.contains e.seg.offset then { e with state := .done } else e

theorem markAll_cons (d : Nat) (ds : List Nat) (es : List LandedEntry) :
    markAll (d :: ds) es = markAll ds (markAll [d] es) := by
  simp only [markAll, List.map_map]
  refine List.map_congr_left fun e _ => ?_
  by_cases hd : e.seg.offset = d <;> by_cases hm : ds.contains e.seg.offset = true <;> simp_all

theorem setEntry_done (o : Nat) (s : State) : setEntry o .done s = { s with landed := markAll [o] s.landed } := by
  simp [setEntry, markAll]

theorem foldl_setEntry (ds : List Nat) (s : State) :
    ds.foldl (fun t o => setEntry o .done t) s = { s with landed := markAll ds s.landed } := by
  induction ds generalizing s with
  | nil => simp [markAll]
  | cons d ds ih => rw [List.foldl_cons, ih, setEntry_done, markAll_cons d ds]

/-- Step 2 of R19. -/
theorem dropDeferred_eq {s : State} {f : Nat} {p : Page} (hp : s.page f = some p) : dropDeferred f s =
    reclaim { s with landed := markAll p.deferred s.landed
                     pages := s.pages.set f (some { p with deferred := [] }) } := by
  simp only [dropDeferred, hp, foldl_setEntry]
  rw [modPage_eq (s := { s with landed := markAll p.deferred s.landed }) hp]

/-! ### The purge as a whole -/

/-- What a purge leaves of a state, its reports apart (R19, R68). -/
def purgeLeaves (f : Nat) (p : Page) (dropped : List Nat) (s : State) : State :=
  let ring := reclaim { s with landed := markAll dropped s.landed }
  { s with
    lanes := ⟨s.lanes.q0.without p.key, s.lanes.q1.without p.key, s.lanes.q2.without p.key, s.lanes.q3.without p.key⟩
    landed := ring.landed, ringUsed := ring.ringUsed, ringHead := ring.ringHead
    patches := s.patches.filter fun e => e.frame != f
    slotsInUse := s.slotsInUse.filter fun n => !(s.patches.any fun e => e.frame == f && e.slot == n)
    proof := if s.proof.map Prod.snd = some f then none else s.proof
    pages := s.pages.set f none }

theorem purged_eq (f : Nat) (p : Page) (tag : Tag) (dropped : List Nat) (s : State) :
    purged f p tag dropped s = (purgeLeaves f p dropped s).withReports (submitAll (purgeReports f p tag s) s) := by
  have h := submitAll_eq (purgeReports f p tag s) s
  unfold purged
  generalize submitAll (purgeReports f p tag s) s = u at h
  simp only
  rw [h]
  rfl

theorem unbindProof_eq (f : Nat) (s : State) :
    unbindProof f s = { s with proof := if s.proof.map Prod.snd = some f then none else s.proof } := by
  unfold unbindProof
  cases h : s.proof with
  | none => simp [← h]
  | some b =>
    by_cases hb : b.2 = f
    · simp [hb]
    · simp [hb, ← h]

/-- Step 3 of R19: the slots freed are those of the frame's patches (R68). -/
theorem dropPatches_eq (f : Nat) (s : State) : dropPatches f s =
    { s with patches := s.patches.filter fun e => e.frame != f
             slotsInUse := s.slotsInUse.filter fun n => !(s.patches.any fun e => e.frame == f && e.slot == n) } := by
  have h (n : Nat) : ((s.patches.filter fun e => e.frame == f).map fun e => e.slot).contains n =
      s.patches.any fun e => e.frame == f && e.slot == n := by
    rw [Bool.eq_iff_iff]
    simp [and_assoc]
  simp only [dropPatches, freeSlots, h]

theorem freeRecord_withReports {t u : State} {f : Nat} {p : Page} (hp : t.page f = some p) (hc : t.clock = u.clock) :
    freeRecord f (t.withReports u) = (setPage f none t).withReports (submit (pagePurgedReport f p) u) := by
  have hp' : (t.withReports u).page f = some p := hp
  simp only [freeRecord, hp']
  rw [submit_withReports _ hc]
  rfl

theorem purgeReports_eq (f : Nat) (p : Page) (tag : Tag) (s : State) : purgeReports f p tag s =
    allLanes.flatMap (laneReports p.key s) ++ [pagePurgedReport f p, purgeDone tag p.key] := by
  unfold purgeReports pagePurgedReport
  cases p.closeStamp <;> rfl

/-- A purge completed is R19's steps together. -/
theorem completePurge_eq {s : State} (hq : QueuesSafe s) {f : Nat} {p : Page} (hp : s.page f = some p) (tag : Tag) :
    completePurge p.key f tag s = purged f p tag p.deferred s := by
  rw [purged_eq, purgeReports_eq, submitAll_append]
  have hclock : s.clock = (submitAll (allLanes.flatMap (laneReports p.key s)) s).clock := (submitAll_clock _ _).symm
  unfold completePurge
  rw [withdrawAll_eq hq]
  generalize submitAll (allLanes.flatMap (laneReports p.key s)) s = u at hclock
  let a : State :=
    { s with lanes := ⟨s.lanes.q0.without p.key, s.lanes.q1.without p.key, s.lanes.q2.without p.key,
                       s.lanes.q3.without p.key⟩ }
  let d : State := reclaim { a with landed := markAll p.deferred s.landed
                                    pages := s.pages.set f (some { p with deferred := [] }) }
  let e : State := unbindProof f (dropPatches f d)
  have hd : dropDeferred f (a.withReports u) = d.withReports u := by
    rw [dropDeferred_eq (s := a.withReports u) hp, reclaim_eq]
    simp only [d, reclaim_eq]
    rfl
  have he : unbindProof f (dropPatches f (d.withReports u)) = e.withReports u := by
    simp only [e, unbindProof_eq, dropPatches_eq]
    rfl
  have hpages : e.pages = s.pages.set f (some { p with deferred := [] }) := by
    simp only [e, d, unbindProof_eq, dropPatches_eq, reclaim_eq]
  have hpage : e.page f = some { p with deferred := [] } := by
    rw [State.page, hpages]
    exact page_setPage (some { p with deferred := [] }) s (page_lt hp)
  have hc : e.clock = u.clock := by
    rw [← hclock]
    simp only [e, d, unbindProof_eq, dropPatches_eq, reclaim_eq, a]
  rw [hd, he, freeRecord_withReports hpage hc,
    submit_withReports (t := setPage f none e) _ (hc.trans (submit_clock _ _).symm)]
  refine congrArg₂ State.withReports ?_ rfl
  simp only [setPage, hpages, List.set_set]
  simp only [e, d, a, unbindProof_eq, dropPatches_eq, reclaim_eq, purgeLeaves]
  rfl

/-! ### Reclaim in two turns -/

theorem markAll_isDone {ds : List Nat} {e : LandedEntry} (h : e.isDone = true) :
    (if ds.contains e.seg.offset then { e with state := .done } else e : LandedEntry).isDone = true := by
  split
  · rfl
  · exact h

theorem totalBytes_markAll (ds : List Nat) (es : List LandedEntry) : totalBytes (markAll ds es) = totalBytes es := by
  simp only [totalBytes, markAll, List.map_map]
  congr 1
  refine List.map_congr_left fun e _ => ?_
  simp only [Function.comp_apply]
  split <;> rfl

theorem totalBytes_append (as bs : List LandedEntry) : totalBytes (as ++ bs) = totalBytes as + totalBytes bs := by
  simp [totalBytes]

theorem headOf_markAll (ds : List Nat) (es : List LandedEntry) (s : State) :
    headOf (markAll ds es) s = headOf es s := by
  cases es with
  | nil => rfl
  | cons e es =>
    simp only [markAll, List.map_cons, headOf]
    split <;> rfl

/-- The DONE entries at the front, once further entries are DONE: those there before, and those that follow them now. -/
theorem reclaim_markAll (ds : List Nat) (es : List LandedEntry) :
    (markAll ds es).dropWhile LandedEntry.isDone =
        (markAll ds (es.dropWhile LandedEntry.isDone)).dropWhile LandedEntry.isDone ∧
      (markAll ds es).takeWhile LandedEntry.isDone = markAll ds (es.takeWhile LandedEntry.isDone) ++
        (markAll ds (es.dropWhile LandedEntry.isDone)).takeWhile LandedEntry.isDone := by
  induction es with
  | nil => exact ⟨rfl, rfl⟩
  | cons e es ih =>
    by_cases h : e.isDone = true
    · have h' := markAll_isDone (ds := ds) h
      rw [List.dropWhile_cons_of_pos h, List.takeWhile_cons_of_pos h]
      simp only [markAll, List.map_cons] at ih ⊢
      rw [List.dropWhile_cons_of_pos h', List.takeWhile_cons_of_pos h', List.cons_append, ih.2]
      exact ⟨ih.1, rfl⟩
    · rw [List.dropWhile_cons_of_neg h, List.takeWhile_cons_of_neg h]
      exact ⟨rfl, rfl⟩

/-- Entries reclaimed, and then further ones that are DONE, are reclaimed together (R39). -/
theorem reclaim_reclaim (ds : List Nat) (s : State) :
    reclaim { reclaim s with landed := markAll ds (reclaim s).landed } =
      reclaim { s with landed := markAll ds s.landed } := by
  obtain ⟨hdrop, htake⟩ := reclaim_markAll ds s.landed
  have hhead : ∀ es t, t.lander = s.lander → t.ringTail = s.ringTail → headOf es t = headOf es s := by
    intro es t hl hr
    cases es with
    | nil => simp [headOf, State.reserved, hl, hr]
    | cons => rfl
  simp only [reclaim_eq, hdrop, htake, totalBytes_append, totalBytes_markAll, Nat.sub_sub, hhead]
  congr 1
  have hnil : markAll ds (s.landed.takeWhile LandedEntry.isDone) = [] ↔ s.landed.takeWhile LandedEntry.isDone = [] :=
    List.map_eq_nil_iff
  by_cases h1 : s.landed.takeWhile LandedEntry.isDone = []
  · simp [h1, markAll]
  · by_cases h2 : (markAll ds (s.landed.dropWhile LandedEntry.isDone)).takeWhile LandedEntry.isDone = []
    · have hd : (markAll ds (s.landed.dropWhile LandedEntry.isDone)).dropWhile LandedEntry.isDone =
          markAll ds (s.landed.dropWhile LandedEntry.isDone) := by
        conv_rhs => rw [← List.takeWhile_append_dropWhile (p := LandedEntry.isDone)
          (l := markAll ds (s.landed.dropWhile LandedEntry.isDone)), h2, List.nil_append]
      rw [if_pos h2, if_neg h1, if_neg (by simp only [List.append_eq_nil_iff, hnil]; exact fun h => h1 h.1), hd,
        headOf_markAll]
    · rw [if_neg h2, if_neg (by simp only [List.append_eq_nil_iff]; exact fun h => h2 h.2)]

/-! ### A purge at the end of a segment -/

/-- A state without a page's plates, patches, binding and record. -/
def withoutPage (f : Nat) (p : Page) (t : State) : State :=
  { t with
    lanes := ⟨t.lanes.q0.without p.key, t.lanes.q1.without p.key, t.lanes.q2.without p.key, t.lanes.q3.without p.key⟩
    patches := t.patches.filter fun e => e.frame != f
    slotsInUse := t.slotsInUse.filter fun n => !(t.patches.any fun e => e.frame == f && e.slot == n)
    proof := if t.proof.map Prod.snd = some f then none else t.proof
    pages := t.pages.set f none }

theorem purgeLeaves_eq (f : Nat) (p : Page) (ds : List Nat) (s : State) :
    purgeLeaves f p ds s = withoutPage f p (reclaim { s with landed := markAll ds s.landed }) := by
  simp only [purgeLeaves, withoutPage, reclaim_eq]

/-- The entry of the segment that ends, and the page's deferred ones after it, are reclaimed as one (R14, R19, R39). -/
theorem purgeLeaves_markDone (f : Nat) (p : Page) (o : Nat) (ds : List Nat) (s : State) :
    purgeLeaves f p ds (markDone o s) = purgeLeaves f p (o :: ds) s := by
  rw [purgeLeaves_eq, purgeLeaves_eq, markAll_cons o]
  refine congrArg (withoutPage f p) ((reclaim_reclaim ds (setEntry o .done s)).trans ?_)
  rw [setEntry_done]

/-- The purge that waits no more, with the segment it waited for ended first (R14, R18, R19). -/
theorem completePurge_markDone {s : State} (hq : QueuesSafe s) {f : Nat} {p : Page} (hp : s.page f = some p)
    (tag : Tag) (o : Nat) :
    completePurge p.key f tag (markDone o { s with unpacker := .idle, unpackerPage := none }) =
      { purged f p tag (o :: p.deferred) s with unpacker := .idle, unpackerPage := none } := by
  let i : State := { s with unpacker := .idle, unpackerPage := none }
  have hlanes : (markDone o i).lanes = s.lanes := markDone_lanes o i
  have hpage : (markDone o i).page f = some p := by
    rw [State.page, markDone_eq]
    exact hp
  have hreports : purgeReports f p tag (markDone o i) = purgeReports f p tag s := by
    simp only [purgeReports, State.lane, hlanes]
  have htold : submitAll (purgeReports f p tag s) (markDone o i) =
      (markDone o i).withReports (submitAll (purgeReports f p tag s) s) :=
    submitAll_congr _ (markDone_reports o i) (by rw [markDone_eq]) (by rw [markDone_eq]) (by rw [markDone_eq])
  rw [completePurge_eq (hq.of_lanes hlanes) hpage, purged_eq, purged_eq, hreports, htold, purgeLeaves_markDone]
  simp only [purgeLeaves, reclaim_eq, i]
  rfl

/-- The purge that waits no more, and what the Unpacker and the lanes do after it. -/
theorem purge_thenWork {s : State} (hq : QueuesSafe s) {f : Nat} {p : Page} (hp : s.page f = some p) (tag : Tag)
    (o : Nat) :
    let u := purged f p tag (o :: p.deferred) s
    let v := takeWork true (completePurge p.key f tag (markDone o { s with unpacker := .idle, unpackerPage := none }))
    v.steady = u.steady ∧ u.reports <+: v.reports ∧ (NoLaneRuns s → v.reports = u.reports) ∧
      (∀ l, (v.lane l).tags = (u.lane l).tags) ∧ v.mem = s.mem := by
  intro u v
  have hw := completePurge_markDone hq hp tag o
  have hr : Reacts { u with unpacker := .idle, unpackerPage := none } v := by
    rw [← hw]
    exact takeWork_reacts true _
  refine ⟨hr.steady, hr.reports, fun hn => ?_, fun l => ?_, ?_⟩
  · have hquiet : NoLaneRuns { u with unpacker := .idle, unpackerPage := none } := fun l => by
      have hm := hn l
      revert hm
      match l with
      | 0 | 1 | 2 | 3 => exact id
    simp only [v, hw]
    exact takeWork_quiet true hquiet
  · simp only [v, hw]
    exact (reactionsKeep_tags l _).takeWork true rfl
  · rw [hr.mem]
    change u.mem = s.mem
    simp only [u, purged_eq]
    rfl

/-! ### PURGE PAGE and PURGE_COMPLETE -/

theorem stalledOn_elsewhere {s : State} {f : Nat} (h : s.unpackerPage ≠ some f) : stalledOn s f = none := by
  simp [stalledOn, h]

theorem stalledOn_patches {s : State} {f : Nat} {g : Segment} {h : Option OpenFields} {i : Bool}
    (hu : s.unpackerPage = some f) (hs : s.unpacker = .stalled g .patches h i) : stalledOn s f = some g := by
  simp [stalledOn, hu, hs]

theorem stalledOn_otherwise {s : State} {f : Nat} (h : ∀ g h i, s.unpacker ≠ .stalled g .patches h i) :
    stalledOn s f = none := by
  unfold stalledOn
  split
  · split
    · next hs => exact absurd hs (h _ _ _)
    · rfl
  · rfl

section
variable {s : State} {o : Order} {f : Nat} {p : Page} (hp : s.present o.key = some (f, p)) (hl : p.lockCount = 0)
  (hw : p.purgePending = none)
include hp hl hw

theorem decidePurge_elsewhere (hu : s.unpackerPage ≠ some f) :
    decidePurge o s = completePurge p.key f o.tag s := by
  simp [decidePurge, hp, hl, hw, stalledOn_elsewhere hu, hu, present_key hp]

theorem decidePurge_waits (hu : s.unpackerPage = some f) (hs : ∀ g h i, s.unpacker ≠ .stalled g .patches h i) :
    decidePurge o s = { s with pages := s.pages.set f (some { p with purgePending := some o.tag }) } := by
  simp [decidePurge, hp, hl, hw, stalledOn_otherwise hs, hu, modPage_eq (present_eq_some.1 hp).2]

theorem decidePurge_stalled {g : Segment} {h : Option OpenFields} {i : Bool} (hu : s.unpackerPage = some f)
    (hs : s.unpacker = .stalled g .patches h i) : decidePurge o s = takeWork true
      (completePurge p.key f o.tag (markDone g.offset { s with unpacker := .idle, unpackerPage := none })) := by
  simp [decidePurge, hp, hl, hw, stalledOn_patches hu hs, purgeStalled, present_key hp]

end

theorem purgeComplete_of_waiting {s : State} {g : Segment} {f : Nat} {p : Page} {tag : Tag}
    (hu : s.unpacker = .working g .applied) (hf : s.unpackerPage = some f) (hp : s.page f = some p)
    (ht : p.purgePending = some tag) : purgeComplete s = takeWork true
      (completePurge p.key f tag (markDone g.offset { s with unpacker := .idle, unpackerPage := none })) := by
  simp [purgeComplete, hu, hf, hp, ht]

/-- Settles O37: a purge is its seven steps together, and the segment it waited for is reclaimed with the rest. -/
theorem purgeFreesPageOrWaits : Obligations.PurgeFreesPageOrWaits := by
  unfold Obligations.PurgeFreesPageOrWaits
  constructor
  · intro s o f p hq ho hk hp hl hw
    have hexec : exec .purgePage s = .next (finishOrder (decidePurge o s)) :=
      congrArg Host.Outcome.next (handleOrder_of_kind ho hk _)
    have hpage : s.page f = some p := (present_eq_some.1 hp).2
    rw [hexec]
    refine ⟨fun hu => ?_, fun hu hs => ?_, fun g h i hu hs => ?_⟩
    · rw [decidePurge_elsewhere hp hl hw hu, completePurge_eq hq hpage]
    · rw [decidePurge_waits hp hl hw hu hs]
    · rw [decidePurge_stalled hp hl hw hu hs]
      obtain ⟨hsteady, hreports, hquiet, htags, hmem⟩ := purge_thenWork hq hpage o.tag g.offset
      refine ⟨_, rfl, ?_, ?_, fun hn => ?_, fun l => ?_, fun _ => ?_⟩
      · rw [steady_finishOrder, steady_finishOrder, hsteady]
      · rw [finishOrder_reports]
        exact hreports
      · rw [finishOrder_reports]
        exact hquiet hn
      · rw [State.lane, finishOrder_lanes]
        exact htags l
      · exact bytesKept_of_mem ((finishOrder_mem _).trans hmem)
  · intro s g f p tag hq hu hf hp ht
    obtain ⟨hsteady, hreports, hquiet, htags, hmem⟩ := purge_thenWork hq hp tag g.offset
    have hexec : exec .purgeComplete s = .next (purgeComplete s) := rfl
    rw [hexec, purgeComplete_of_waiting hu hf hp ht]
    exact ⟨_, rfl, hsteady, hreports, hquiet, htags, fun _ => bytesKept_of_mem hmem⟩

end Sys2Proof.Machine
end

section
/-! ## Stretches of memory written, and rows of pixels -/

namespace Sys2Proof.Machine

/-! ### Memory beside the rest of the state -/

/-- A state with the memory of another, and its uncorrectable errors. -/
def State.withMemory (s v : State) : State := { s with mem := v.mem, badWords := v.badWords }

theorem steady_withMemory (s v : State) : (s.withMemory v).steady = s.steady := rfl

/-- A segment at work that writes memory. -/
theorem AtWork.written {s u : State} (h : AtWork s u) (v : State) : AtWork (s.withMemory v) (u.withMemory v) where
  steady := h.steady
  mem := rfl
  reports := h.reports
  quiet := h.quiet
  ends := h.ends

/-! ### Stretches -/

/-- Stretches of whole words, each with its address, written one after another. -/
def writeStretches (ws : List (Nat × List Byte)) (s : State) : State := ws.foldl (fun t w => writeWords w.1 w.2 t) s

/-- Whether a stretch holds a byte address. -/
def covers (w : Nat × List Byte) (x : Nat) : Prop := w.1 ≤ x ∧ x < w.1 + w.2.length

theorem writeStretches_eq (ws : List (Nat × List Byte)) (s : State) :
    writeStretches ws s = s.withMemory (writeStretches ws s) := by
  induction ws generalizing s with
  | nil => rfl
  | cons w ws ih => exact ih (writeWords w.1 w.2 s)

theorem writeStretches_append (vs ws : List (Nat × List Byte)) (s : State) :
    writeStretches (vs ++ ws) s = writeStretches ws (writeStretches vs s) := List.foldl_append

theorem memRead_writeWords {s : State} (h : Memory.wf s.mem = true) (a x : Nat) (bs : List Byte) :
    memRead (writeWords a bs s).mem x = if a ≤ x ∧ x < a + bs.length then bs.getD (x - a) 0 else memRead s.mem x :=
  memRead_memWriteBytes bs a x h

theorem wf_writeWords {s : State} (h : Memory.wf s.mem = true) (a : Nat) (bs : List Byte) :
    Memory.wf (writeWords a bs s).mem = true := wf_memWriteBytes bs a h

/-- A byte outside every stretch stays. -/
theorem memRead_writeStretches_outside {ws : List (Nat × List Byte)} {s : State} (h : Memory.wf s.mem = true) {x : Nat}
    (hx : ∀ w ∈ ws, ¬ covers w x) : memRead (writeStretches ws s).mem x = memRead s.mem x := by
  induction ws generalizing s with
  | nil => rfl
  | cons w ws ih =>
    obtain ⟨hw, hws⟩ := List.forall_mem_cons.1 hx
    refine (ih (wf_writeWords h w.1 w.2) hws).trans ?_
    rw [memRead_writeWords h]
    exact if_neg hw

/-- A byte in a stretch, on which all the stretches that hold it agree. -/
theorem memRead_writeStretches_inside {ws : List (Nat × List Byte)} {s : State} (h : Memory.wf s.mem = true) {x : Nat}
    {b : Byte} (hx : ∃ w ∈ ws, covers w x) (hb : ∀ w ∈ ws, covers w x → w.2.getD (x - w.1) 0 = b) :
    memRead (writeStretches ws s).mem x = b := by
  induction ws generalizing s with
  | nil => simp at hx
  | cons w ws ih =>
    obtain ⟨hbw, hbws⟩ := List.forall_mem_cons.1 hb
    have hwf := wf_writeWords h w.1 w.2
    by_cases hlater : ∃ v ∈ ws, covers v x
    · exact ih hwf hlater hbws
    · have hw : covers w x := by
        obtain ⟨v, hv, hc⟩ := hx
        rcases List.mem_cons.1 hv with rfl | hv
        · exact hc
        · exact absurd ⟨v, hv, hc⟩ hlater
      refine (memRead_writeStretches_outside hwf fun v hv hc => hlater ⟨v, hv, hc⟩).trans ?_
      rw [memRead_writeWords h]
      exact (if_pos hw).trans (hbw hw)

/-! ### Rows of pixels as bytes -/

theorem pixelBit_packByte (g : Nat → Bool) (x : Nat) : pixelBit (packByte g) x = g (x % 8) := by
  have h : 7 - (7 - x % 8) = x % 8 := by omega
  rw [pixelBit, packByte, BitVec.getLsbD_ofFnLE, dif_pos (by omega)]
  exact congrArg g h

/-- A row of whole bytes gives a byte for each 8 of its pixels, and each pixel its bit (R6). -/
theorem rowBytes_spec (n : Nat) (r : List Bool) (h : r.length = 8 * n) :
    (rowBytes r).length = n ∧ ∀ x, x < 8 * n → pixelBit ((rowBytes r).getD (x / 8) 0) x = r.getD x false := by
  induction n generalizing r with
  | zero =>
    rw [List.eq_nil_of_length_eq_zero h]
    exact ⟨rfl, fun x hx => absurd hx (by omega)⟩
  | succ n ih =>
    match r, h with
    | a :: b :: c :: d :: e :: f :: g :: k :: r, h =>
      obtain ⟨hlen, hpix⟩ := ih r (by simp only [List.length_cons] at h; omega)
      refine ⟨by rw [rowBytes, List.length_cons, hlen], fun x hx => ?_⟩
      rw [rowBytes]
      by_cases hx8 : x < 8
      · rw [Nat.div_eq_of_lt hx8, List.getD_cons_zero, pixelBit_packByte, Nat.mod_eq_of_lt hx8]
        exact (List.getD_append [a, b, c, d, e, f, g, k] r false x hx8).symm
      · obtain ⟨y, rfl⟩ : ∃ y, x = y + 8 := ⟨x - 8, by omega⟩
        have hbit : ∀ v : Byte, pixelBit v (y + 8) = pixelBit v y := fun v => by
          rw [pixelBit, pixelBit, Nat.add_mod_right]
        rw [show (y + 8) / 8 = y / 8 + 1 by omega, List.getD_cons_succ, hbit, hpix y (by omega)]
        rfl

/-! ### What a line-art decode gives -/

/-- A decoder state whose rows are all of the width, and no more than are needed (R50, R51). -/
structure LineState.Fits (width need : Nat) (d : LineState) : Prop where
  row : d.row.length ≤ width
  previous : d.previous.length = width
  rows : ∀ r ∈ d.rows, r.length = width
  count : d.rows.length ≤ need

section
variable {width need : Nat}

theorem fits_lineStart : (lineStart width).Fits width need where
  row := Nat.zero_le _
  previous := List.length_replicate
  rows := by simp [lineStart]
  count := Nat.zero_le _

theorem LineState.Fits.completeRow {d : LineState} (h : d.Fits width need) (hn : d.rows.length < need) {r : List Bool}
    (hr : r.length = width) : (Machine.completeRow r d).Fits width need where
  row := Nat.zero_le _
  previous := hr
  rows x hx := by
    rcases List.mem_append.1 hx with hx | hx
    · exact h.rows x hx
    · rw [List.mem_singleton.1 hx, hr]
  count := by simpa [Machine.completeRow] using hn

theorem LineState.Fits.repeatRow {d : LineState} (h : d.Fits width need) {n : Nat} (hn : d.rows.length + n ≤ need) :
    (Machine.repeatRow n d).Fits width need := by
  induction n generalizing d with
  | zero => exact h
  | succ n ih =>
    refine ih (h.completeRow (by omega) h.previous) ?_
    simp only [Machine.completeRow, List.length_append, List.length_singleton]
    omega

theorem LineState.Fits.placePixels {d e : LineState} (h : d.Fits width need) (hn : d.rows.length < need)
    {px : List Bool} {colour : Bool} (he : placePixels width px colour d = some e) : e.Fits width need := by
  unfold Machine.placePixels at he
  split at he
  · cases he
  · split at he
    · next hw =>
      obtain rfl := Option.some.inj he
      exact h.completeRow hn (by rw [List.length_append, hw])
    · next hle _ =>
      obtain rfl := Option.some.inj he
      exact ⟨by rw [List.length_append]; omega, h.previous, h.rows, h.count⟩

theorem LineState.Fits.lineCode {d e : LineState} (h : d.Fits width need) (hn : d.rows.length < need) {c : Nat}
    {bs left : List Byte} (he : lineCode width need c bs d = some (e, left)) : e.Fits width need := by
  have placed {px : List Bool} {colour : Bool} {rest : List Byte}
      (hp : (Machine.placePixels width px colour d).map (fun e => (e, rest)) = some (e, left)) : e.Fits width need := by
    obtain ⟨x, hx, hxe⟩ := Option.map_eq_some_iff.1 hp
    obtain ⟨rfl, -⟩ := Prod.mk.inj hxe
    exact h.placePixels hn hx
  unfold Machine.lineCode at he
  split at he
  · exact placed he
  · split at he
    · split at he
      · cases he
      · next hc =>
        obtain ⟨rfl, -⟩ := Prod.mk.inj (Option.some.inj he)
        exact h.repeatRow (by omega)
    · split at he
      · split at he
        · cases he
        · split at he
          · cases he
          · exact placed he
      · split at he
        · obtain ⟨rfl, -⟩ := Prod.mk.inj (Option.some.inj he)
          exact ⟨h.row, h.previous, h.rows, h.count⟩
        · split at he
          · split at he
            · split at he
              · cases he
              · exact placed he
            · cases he
          · obtain ⟨rfl, -⟩ := Prod.mk.inj (Option.some.inj he)
            refine h.completeRow hn ?_
            rw [List.length_append, List.length_replicate, Nat.add_sub_cancel' h.row]

/-- A decode's rows are all of the width; they are as many as are needed, or fewer with an error (R50, R51). -/
structure LineResult.Fits (width need : Nat) (d : LineResult) : Prop where
  rows : ∀ r ∈ d.rows, r.length = width
  count : d.rows.length ≤ need
  whole : d.error = false → d.rows.length = need

theorem fits_lineDecodeFrom (fuel : Nat) (bs : List Byte) {d : LineState} (h : d.Fits width need) :
    (lineDecodeFrom width need fuel bs d).Fits width need := by
  induction fuel generalizing bs d with
  | zero =>
    refine ⟨h.rows, h.count, fun he => Nat.le_antisymm h.count ?_⟩
    simp only [lineDecodeFrom, Bool.not_eq_false', Bool.and_eq_true, decide_eq_true_eq] at he
    exact he.1
  | succ fuel ih =>
    unfold lineDecodeFrom
    split
    · next hn => exact ⟨h.rows, h.count, fun _ => Nat.le_antisymm h.count hn⟩
    · next hn =>
      split
      · exact ⟨h.rows, h.count, fun he => by cases he⟩
      · split
        · exact ⟨h.rows, h.count, fun he => by cases he⟩
        · next he => exact ih _ (h.lineCode (Nat.lt_of_not_le hn) he)

theorem fits_lineDecode (bs : List Byte) : (lineDecode width need bs).Fits width need :=
  fits_lineDecodeFrom _ _ fits_lineStart

end

end Sys2Proof.Machine
end

section
/-! ## STRIP -/

namespace Sys2Proof.Machine

/-! ### Rows written into a frame -/

/-- The pieces of a row, one in each tile column (R7). -/
def rowStretches (f tw y : Nat) (bytes : List Byte) : List (Nat × List Byte) :=
  (List.range tw).map fun tx => (frameBase f + spanOffset tw tx y, (bytes.drop (32 * tx)).take 32)

/-- The pieces of rows from a page row on (R52). -/
def pageStretches (f tw : Nat) : Nat → List (List Bool) → List (Nat × List Byte)
  | _, [] => []
  | y, r :: rs => rowStretches f tw y (rowBytes r) ++ pageStretches f tw (y + 1) rs

theorem writePageRow_eq (f tw y : Nat) (bytes : List Byte) (s : State) :
    writePageRow f tw y bytes s = writeStretches (rowStretches f tw y bytes) s := by
  rw [writeStretches, rowStretches, List.foldl_map, writePageRow]

theorem writePageRows_eq (f tw y : Nat) (rows : List (List Bool)) (s : State) :
    writePageRows f tw y rows s = writeStretches (pageStretches f tw y rows) s := by
  induction rows generalizing y s with
  | nil => rfl
  | cons r rs ih => rw [writePageRows, ih, writePageRow_eq, pageStretches, writeStretches_append]

theorem mem_pageStretches {f tw y : Nat} {rows : List (List Bool)} {w : Nat × List Byte} :
    w ∈ pageStretches f tw y rows ↔ ∃ i r tx, rows[i]? = some r ∧ tx < tw ∧
      w = (frameBase f + spanOffset tw tx (y + i), ((rowBytes r).drop (32 * tx)).take 32) := by
  induction rows generalizing y with
  | nil => simp [pageStretches]
  | cons r rs ih =>
    rw [pageStretches, List.mem_append, ih]
    constructor
    · rintro (h | ⟨i, q, tx, hi, htx, rfl⟩)
      · obtain ⟨tx, htx, rfl⟩ := List.mem_map.1 h
        exact ⟨0, r, tx, rfl, List.mem_range.1 htx, rfl⟩
      · exact ⟨i + 1, q, tx, hi, htx, by rw [Nat.add_assoc, Nat.add_comm 1 i]⟩
    · rintro ⟨i, q, tx, hi, htx, rfl⟩
      cases i with
      | zero =>
        obtain rfl : r = q := by simpa using hi
        exact .inl (List.mem_map.2 ⟨tx, List.mem_range.2 htx, rfl⟩)
      | succ i => exact .inr ⟨i, q, tx, hi, htx, by rw [Nat.add_assoc, Nat.add_comm 1 i]⟩

/-- A strip lies in one tile row, its rows 32 bytes apart in each tile (R6, R7). -/
theorem spanOffset_strip (tw tx k : Nat) {i : Nat} (hi : i < 16) :
    spanOffset tw tx (16 * k + i) = 8192 * (k / 16 * tw + tx) + 512 * (k % 16) + 32 * i := by
  have hd : (16 * k + i) / 256 = k / 16 := by omega
  have hm : (16 * k + i) % 256 = 16 * (k % 16) + i := by omega
  rw [spanOffset, tileOffset, tileBytes, hd, hm]
  omega

section
variable {f tw k : Nat} {rows : List (List Bool)} (hrows : ∀ r ∈ rows, r.length = tw * 256) (hn : rows.length ≤ 16)
include hrows hn

/-- A piece of a strip's row holds 32 bytes of its tile column. -/
theorem covers_pageStretches {w : Nat × List Byte} (hw : w ∈ pageStretches f tw (16 * k) rows) :
    ∃ i r tx, rows[i]? = some r ∧ i < 16 ∧ tx < tw ∧ w.2 = ((rowBytes r).drop (32 * tx)).take 32 ∧
      w.1 = frameBase f + (8192 * (k / 16 * tw + tx) + 512 * (k % 16) + 32 * i) ∧ w.2.length = 32 := by
  obtain ⟨i, r, tx, hi, htx, rfl⟩ := mem_pageStretches.1 hw
  have hi16 : i < 16 := Nat.lt_of_lt_of_le (List.getElem?_eq_some_iff.1 hi).1 hn
  have hlen : (rowBytes r).length = 32 * tw :=
    (rowBytes_spec (32 * tw) r (by rw [hrows r (List.mem_of_getElem? hi)]; omega)).1
  refine ⟨i, r, tx, hi, hi16, htx, rfl, by rw [spanOffset_strip tw tx k hi16], ?_⟩
  rw [List.length_take, List.length_drop, hlen]
  omega

/-- No byte outside the strip changes (R7). -/
theorem strip_outside {s : State} (h : Memory.wf s.mem = true) {a : Nat}
    (ha : ∀ tx, tx < tw → ¬ (frameBase f + spanOffset tw tx (16 * k) ≤ a ∧
      a < frameBase f + spanOffset tw tx (16 * k) + 512)) :
    memRead (writePageRows f tw (16 * k) rows s).mem a = memRead s.mem a := by
  rw [writePageRows_eq]
  refine memRead_writeStretches_outside h fun w hw hc => ?_
  obtain ⟨i, r, tx, -, hi, htx, -, haddr, hlen⟩ := covers_pageStretches hrows hn hw
  have hspan := spanOffset_strip tw tx k (i := 0) (by omega)
  obtain ⟨hlo, hhi⟩ := hc
  refine ha tx htx ?_
  rw [Nat.add_zero] at hspan
  rw [hspan]
  omega

/-- The rows of a strip lie in its frame, pixel by pixel (R6, R52). -/
theorem strip_pixels {s : State} (h : Memory.wf s.mem = true) {i x : Nat} (hi : i < rows.length) (hx : x < tw * 256) :
    pixelBit (memRead (writePageRows f tw (16 * k) rows s).mem (frameBase f + pixelOffset tw x (16 * k + i))) x =
      (rows.getD i []).getD x false := by
  have hi16 : i < 16 := Nat.lt_of_lt_of_le hi hn
  have hget : rows[i]? = some rows[i] := List.getElem?_eq_getElem hi
  have hpix := (rowBytes_spec (32 * tw) rows[i] (by rw [hrows _ (List.getElem_mem hi)]; omega)).2 x (by omega)
  have htx : x / 256 < tw := by omega
  have haddr : pixelOffset tw x (16 * k + i) =
      8192 * (k / 16 * tw + x / 256) + 512 * (k % 16) + 32 * i + x % 256 / 8 := by
    rw [pixelOffset, spanOffset_strip tw _ k hi16]
  rw [List.getD_eq_getElem?_getD (l := rows), hget, Option.getD_some, ← hpix, writePageRows_eq, haddr]
  congr 1
  refine memRead_writeStretches_inside h ?_ fun w hw hc => ?_
  · have hw : (frameBase f + spanOffset tw (x / 256) (16 * k + i), _) ∈ pageStretches f tw (16 * k) rows :=
      mem_pageStretches.2 ⟨i, _, x / 256, hget, htx, rfl⟩
    obtain ⟨-, -, -, -, -, -, -, -, hlen⟩ := covers_pageStretches hrows hn hw
    refine ⟨_, hw, ?_, ?_⟩
    · rw [spanOffset_strip tw _ k hi16]
      omega
    · rw [hlen, spanOffset_strip tw _ k hi16]
      omega
  · obtain ⟨j, r, tx, hj, hj16, htw, hbytes, hbase, hlen⟩ := covers_pageStretches hrows hn hw
    obtain ⟨hlo, hhi⟩ := hc
    rw [hbase] at hlo hhi
    rw [hlen] at hhi
    have hsame : tx = x / 256 ∧ j = i := by
      generalize k / 16 * tw = c at hlo hhi
      omega
    obtain ⟨rfl, rfl⟩ := hsame
    obtain rfl : rows[j] = r := Option.some.inj (hget.symm.trans hj)
    rw [hbytes, hbase, List.getD_eq_getElem?_getD, List.getElem?_take_of_lt (by omega), List.getElem?_drop,
      ← List.getD_eq_getElem?_getD]
    congr 1
    omega

end

/-! ### A strip taken -/

theorem headerTest_strip {p : Page} {h : SegHeader} (hk : h.kind = 2) (hs : p.state = .opened)
    (hf : p.localFlag = false) (hl : h.locator < p.th * 16) : headerTest p h = true := by
  simp [headerTest, hk, kindStrip, hs, hf, hl]

/-- STRIP with its requests granted and a good CRC (R52). -/
theorem applyStrip_read {s : State} {g : Segment} {f : Nat} {p : Page} (hp : s.page f = some p)
    (hg : segmentGranted s g (stripWrites g p s) = true) (hc : crcGood s g = true) :
    applyStrip g f (grantClaim g f s) = writeStrip g f p (payloadDone g (grantClaim g f s)) := by
  have hp' : (grantClaim g f s).page f = some p := hp
  have hc' : crcGood (payloadDone g (grantClaim g f s)) g = true :=
    (crcGood_payloadDone g (grantClaim g f s)).trans hc
  have hg' : segmentGranted (grantClaim g f s) g (stripWrites g p (grantClaim g f s)) = true := hg
  simp only [applyStrip, hp']
  rw [whenRead_granted hg']
  simp [hc']

theorem changeStrip_eq (f tw k : Nat) (v : StripState) (s : State) : changeStrip f tw k v s =
    recountTell f (rowTiles tw (k / 16)) s (modPage f (fun p => { p with strips := p.strips.set k v }) s) := rfl

/-- The Unpacker's page at work with rows written and a strip changed (R52, R77). -/
theorem AtWork.strip {s u : State} (h : AtWork s u) {f : Nat} (hu : u.unpackerPage = some f) {p : Page}
    (hp : u.page f = some p) (hn : p.purgePending = none) (y k : Nat) (v : StripState) (rows : List (List Bool)) :
    let w := writePageRows f p.tw y rows u
    let q : Page := { p with strips := p.strips.set k v }
    AtWork ({ s.withMemory w with
      pages := s.pages.set f (some (q.recounted p s f (rowTiles p.tw (k / 16)))) }) (changeStrip f p.tw k v w) := by
  intro w q
  have hw : w = u.withMemory w := by
    simp only [w, writePageRows_eq]
    exact writeStretches_eq _ u
  have hat : AtWork (s.withMemory w) w := by
    conv => arg 2; rw [hw]
    exact h.written w
  have hup : w.unpackerPage = some f := by rw [hw]; exact hu
  have hpw : w.page f = some p := by rw [hw]; exact hp
  rw [changeStrip_eq]
  exact hat.recounted hup hpw (g := fun p => { p with strips := p.strips.set k v }) rfl hn _

/-- Settles O55: the rows written are those decoded, and the segment ends with its strip GOOD. -/
theorem goodStripIsDecodedIntoFrame : Obligations.GoodStripIsDecodedIntoFrame := by
  intro s g f p hwf hu hk hp hs hloc hl hn hin hg hc herr k rows q count q'
  obtain ⟨-, hf⟩ := present_eq_some.1 hp
  obtain ⟨hrows, hcount, hwhole⟩ := fits_lineDecode (width := p.tw * 256) (need := 16) (payloadOf s g)
  have hat := (atWork_read (g := g) hf hn).strip rfl (p := p) hf hn (16 * k) k .good rows
  have hexec : exec (.strip .whole) s = .next (applyStrip g f (grantClaim g f s)) :=
    congrArg Host.Outcome.next (handleKind_of_has hu hk hp (headerTest_strip hk hs hloc hin) hl applyStrip)
  have hwrite : writeStrip g f p (payloadDone g (grantClaim g f s)) = endSegment g (changeStrip f p.tw k .good
      (writePageRows f p.tw (16 * k) rows (payloadDone g (grantClaim g f s)))) := by
    have hd : (lineDecode (p.tw * 256) 16 (payloadOf (payloadDone g (grantClaim g f s)) g)).error = false := herr
    simp only [writeStrip, hd]
    rfl
  rw [applyStrip_read hf hg hc, hwrite] at hexec
  have hmem := hat.ended_mem (g := g)
  refine ⟨_, hexec, ?_, fun i x hi hx => ?_, fun a ha => ?_⟩
  · exact hat.ended.state.trans (by rw [steady_markDone, steady_markDone]; rfl)
  · rw [hmem]
    exact strip_pixels hrows hcount (s := payloadDone g (grantClaim g f s)) hwf (by rw [hwhole herr]; exact hi) hx
  · rw [hmem]
    exact strip_outside hrows hcount (s := payloadDone g (grantClaim g f s)) hwf ha

end Sys2Proof.Machine
end

section
/-! ## PHOTO PART -/

namespace Sys2Proof.Machine

/-! ### The tiles that missing rows touch -/

theorem mem_rectTiles {tx0 ty0 w h x y : Nat} :
    (x, y) ∈ rectTiles tx0 ty0 w h ↔ (tx0 ≤ x ∧ x < tx0 + w) ∧ ty0 ≤ y ∧ y < ty0 + h := by
  simp only [rectTiles, List.mem_flatMap, List.mem_map, List.mem_range, Prod.mk.injEq]
  constructor
  · rintro ⟨j, hj, i, hi, rfl, rfl⟩
    omega
  · rintro ⟨hx, hy⟩
    exact ⟨y - ty0, by omega, x - tx0, by omega, by omega, by omega⟩

/-- The tile rows from that of sample row `a` to that of `b - 1`, as a scale of 4 or 8 leaves none out between (R57). -/
theorem tileRow_touched {scale a b j : Nat} (hs : scale = 4 ∨ scale = 8) (hab : a < b) :
    (a * scale / 256 ≤ j ∧ j < a * scale / 256 + ((b * scale - 1) / 256 + 1 - a * scale / 256)) ↔
      ∃ i, a ≤ i ∧ i < b ∧ j = i * scale / 256 := by
  constructor
  · intro ⟨hlo, hhi⟩
    refine ⟨max a (j * 256 / scale), ?_⟩
    rcases hs with rfl | rfl <;> omega
  · rintro ⟨i, ha, hb, rfl⟩
    rcases hs with rfl | rfl <;> omega

theorem mem_missingTiles {r : PhotoRecord} {a b x y : Nat} (hs : r.scale = 4 ∨ r.scale = 8) (hab : a < b) :
    (x, y) ∈ missingTiles r a b ↔
      r.tx0 ≤ x ∧ x < r.tx0 + r.w ∧ ∃ i, a ≤ i ∧ i < b ∧ y = r.ty0 + i * r.scale / 256 := by
  have htouched := tileRow_touched (j := y - r.ty0) hs hab
  rw [missingTiles, mem_rectTiles, and_assoc]
  refine and_congr_right fun _ => and_congr_right fun _ => ⟨fun ⟨hlo, hhi⟩ => ?_, fun ⟨i, ha, hb, hy⟩ => ?_⟩
  · obtain ⟨i, ha, hb, hi⟩ := htouched.1 (by omega)
    exact ⟨i, ha, hb, by omega⟩
  · have := htouched.2 ⟨i, ha, hb, by omega⟩
    omega

/-! ### A part that is refused or waits -/

/-- A segment with its claim granted is at work. -/
theorem atWork_claimed {s : State} {g : Segment} {f : Nat} {p : Page} (hp : s.page f = some p)
    (hn : p.purgePending = none) : AtWork s (grantClaim g f s) where
  steady := rfl
  mem := rfl
  reports := List.prefix_rfl
  quiet _ := rfl
  ends := by
    rw [purgeWaits_of_page (s := grantClaim g f s) rfl hp, hn]
    rfl

theorem partRecord_none {p : Page} {h : SegHeader} (hr : p.photo h.locator = none) : p.partRecord h = none := by
  simp [Page.partRecord, hr]

theorem partRecord_refused {p : Page} {h : SegHeader} {r : PhotoRecord} (hr : p.photo h.locator = some r)
    (hb : r.state = .complete ∨ h.arg < r.nextRow ∨ photoHeight r.h r.scale ≤ h.arg) : p.partRecord h = none := by
  simp only [Page.partRecord, hr, Option.filter_some, ite_eq_right_iff, Bool.and_eq_true, bne_iff_ne,
    decide_eq_true_eq, reduceCtorEq, imp_false, not_and]
  rintro hs hlo
  rcases hb with hb | hb | hb
  · exact absurd hb hs
  · omega
  · omega

theorem partRecord_some {p : Page} {h : SegHeader} {r : PhotoRecord} (hr : p.photo h.locator = some r)
    (hs : r.state = .receiving) (hlo : r.nextRow ≤ h.arg) (hhi : h.arg < photoHeight r.h r.scale) :
    p.partRecord h = some r := by
  simp [Page.partRecord, hr, hs, hlo, hhi]

theorem applyPhotoPart_refused {s : State} {g : Segment} {f : Nat} {p : Page} (hp : s.page f = some p)
    (hr : p.partRecord g.header = none) : applyPhotoPart g f s = refuseSegment .outOfPlace g 0 s := by
  simp [applyPhotoPart, hp, hr]

theorem applyPhotoPart_some {s : State} {g : Segment} {f : Nat} {p : Page} {r : PhotoRecord} (hp : s.page f = some p)
    (hr : p.partRecord g.header = some r) : applyPhotoPart g f s = whenRead g (partWrites g r s)
      (fun t => if !crcGood t g then refuseSegment .crc g 0 t else applyRows g f r t) s := by
  simp [applyPhotoPart, hp, hr]

/-! ### The rows written -/

/-- The tiles that the rows passed over touch (R57). -/
def passedTiles (r : PhotoRecord) (first : Nat) : List (Nat × Nat) :=
  if r.nextRow < first then missingTiles r r.nextRow first else []

/-- The page with the tiles of the rows passed over flagged, its photos changed, and those tiles recounted. -/
def Page.partTaken (p : Page) (photos : List PhotoRecord) (missing : List (Nat × Nat)) (s : State) (f : Nat) : Page :=
  Page.recounted { p.modFlagsOf (fun x => { x with photo := true }) missing with photos := photos } p s f missing

theorem partTaken_keeps (p : Page) (photos : List PhotoRecord) (missing : List (Nat × Nat)) (s : State) (f : Nat) :
    (p.partTaken photos missing s f).purgePending = p.purgePending := by
  rw [Page.partTaken, modFlagsOf_eq]
  rfl

theorem flagMissing_eq {s : State} {f : Nat} {p : Page} (hp : s.page f = some p) (r : PhotoRecord) (first : Nat) :
    flagMissing f r r.nextRow first s =
      { s with pages := s.pages.set f (some (p.partTaken p.photos (passedTiles r first) s f)) } := by
  have hphotos (ts : List (Nat × Nat)) :
      (p.modFlagsOf (fun x => { x with photo := true }) ts).photos = p.photos := by rw [modFlagsOf_eq]
  have hdamaged (ts : List (Nat × Nat)) :
      (p.modFlagsOf (fun x => { x with photo := true }) ts).damaged = p.damaged := by rw [modFlagsOf_eq]
  have htaken (ts : List (Nat × Nat)) : p.partTaken p.photos ts s f =
      (p.modFlagsOf (fun x => { x with photo := true }) ts).recounted p s f ts := by
    rw [Page.partTaken, ← hphotos ts]
  unfold flagMissing passedTiles
  split
  · rw [setPhotoFlags, recount_modPage hp (hdamaged _), htaken]
  · have hself : p.partTaken p.photos [] s f = p := by simp [Page.partTaken, Page.modFlagsOf, Page.recounted, damagedOf]
    rw [hself, withPages_self hp]

/-- Steps 4 to 6 of R56 but for the announcement and the notice. -/
def partWritten (f : Nat) (p : Page) (r : PhotoRecord) (first : Nat) (samples : List Byte) (s : State) : State :=
  let next := first + samples.length / photoWidth r.w r.scale
  let missing := passedTiles r first
  { s.withMemory (writeSampleRows f r first samples s) with
    pages := s.pages.set f (some (p.partTaken (putPhoto (advancePhoto r next) p.photos) missing s f)) }

theorem partWritten_eq {s : State} {f : Nat} {p : Page} (hp : s.page f = some p) (r : PhotoRecord) (first : Nat)
    (samples : List Byte) :
    modPage f
      (fun p => { p with
        photos := putPhoto (advancePhoto r (first + samples.length / photoWidth r.w r.scale)) p.photos })
      (writeSampleRows f r first samples (flagMissing f r r.nextRow first s)) =
      partWritten f p r first samples s := by
  let q := p.partTaken p.photos (passedTiles r first) s f
  have hpage : (writeSampleRows f r first samples { s with pages := s.pages.set f (some q) }).page f = some q :=
    page_setPage (some q) s (page_lt hp)
  rw [flagMissing_eq hp, modPage_eq hpage]
  simp only [partWritten, writeSampleRows, writeWords, State.withMemory, List.set_set]
  rfl

/-- The Unpacker at work, a part's rows written and their page changed. -/
theorem AtWork.part {s u : State} (h : AtWork s u) {f : Nat} (hu : u.unpackerPage = some f) {p : Page}
    (hp : u.page f = some p) (hn : p.purgePending = none) (r : PhotoRecord) (first : Nat) (samples : List Byte) :
    AtWork (partWritten f p r first samples s) (partWritten f p r first samples u) := by
  let photos := putPhoto (advancePhoto r (first + samples.length / photoWidth r.w r.scale)) p.photos
  have e : p.partTaken photos (passedTiles r first) u f = p.partTaken photos (passedTiles r first) s f := by
    simp only [Page.partTaken, Page.recounted, damagedOf_of_steady h.steady]
  have hq := (h.withPage hu (page_lt hp) (q := p.partTaken photos (passedTiles r first) s f)
    ((partTaken_keeps _ _ _ _ _).trans hn)).written (writeSampleRows f r first samples u)
  have hs : partWritten f p r first samples u =
      { u with pages := u.pages.set f (some (p.partTaken photos (passedTiles r first) s f)) }.withMemory
        (writeSampleRows f r first samples u) := by
    rw [← e]
    rfl
  rw [hs]
  refine ⟨hq.steady, ?_, hq.reports, hq.quiet, hq.ends⟩
  change (writeSampleRows f r first samples u).mem = (writeSampleRows f r first samples s).mem
  simp only [writeSampleRows, writeWords, h.mem]

/-- The samples written are those of the whole rows, from the row the part names on (R55). -/
theorem memRead_writeSampleRows {s : State} (h : Memory.wf s.mem = true) (f : Nat) (r : PhotoRecord) (first : Nat)
    (samples : List Byte) :
    let n := samples.length / photoWidth r.w r.scale * photoWidth r.w r.scale
    let base := photoBase f + r.base + first * photoWidth r.w r.scale
    (∀ i, i < n → memRead (writeSampleRows f r first samples s).mem (base + i) = samples.getD i 0) ∧
      BytesKeptBut base n s (writeSampleRows f r first samples s) := by
  intro n base
  have hlen : (samples.take n).length = n := by
    rw [List.length_take]
    exact Nat.min_eq_left (Nat.div_mul_le_self _ _)
  have hread (x : Nat) : memRead (writeSampleRows f r first samples s).mem x =
      if base ≤ x ∧ x < base + n then (samples.take n).getD (x - base) 0 else memRead s.mem x := by
    rw [writeSampleRows, memRead_writeWords h, hlen]
  refine ⟨fun i hi => ?_, fun x hx => ?_⟩
  · rw [hread, if_pos (by omega), Nat.add_sub_cancel_left, List.getD_eq_getElem?_getD,
      List.getElem?_take_of_lt hi, ← List.getD_eq_getElem?_getD]
  · rw [hread, if_neg hx]

theorem applyRows_eq {s : State} {g : Segment} {f : Nat} {p : Page} (hp : s.page f = some p) (r : PhotoRecord) :
    applyRows g f r s =
      let d := toneDecode ((photoHeight r.h r.scale - g.header.arg) * photoWidth r.w r.scale) (payloadOf s g)
      let n := d.samples.length / photoWidth r.w r.scale
      let u := announceIf ((advancePhoto r (g.header.arg + n)).state == .complete)
        (partWritten f p r g.header.arg d.samples s)
      if d.error then refuseSegment .decode g n u else endSegment g u := by
  simp only [applyRows, partWritten_eq hp]

/-- A notice given at the end of a segment, whatever reactions have reported before it. -/
theorem AtWork.refused_late {g : Segment} {s u : State} (h : AtWork s u) (k : NoticeKind) (d : Nat) :
    (refuseSegment k g d u).steady = (markDone g.offset s).steady ∧ s.reports <+: (refuseSegment k g d u).reports := by
  have hend : purgeWaits (submit (segmentNotice k g.header g.stamp d) u) = false := by
    rw [purgeWaits_submit, h.ends]
  have hr := submit_reacts (segmentNotice k g.header g.stamp d) u
  refine ⟨(endSegment_steady hend).trans ?_, h.reports.trans (hr.reports.trans (endSegment_reports hend))⟩
  rw [steady_markDone, steady_markDone, hr.steady, h.steady]

/-- A part that was taken ends, with its DECODE notice first of its own reports unless its photo is COMPLETE now and the
lanes report before it (R17, R56). -/
theorem AtWork.part_ends {g : Segment} {s u : State} (h : AtWork s u) (hr : u.reports = s.reports) (told failed : Bool)
    (n : Nat) :
    let said := submit (segmentNotice .decode g.header g.stamp n) s
    let v := announceIf told u
    let t := if failed then refuseSegment .decode g n v else endSegment g v
    t.steady = (markDone g.offset s).steady ∧ t.mem = s.mem ∧ s.reports <+: t.reports ∧
      (NoLaneRuns s ∨ told = false → failed = true → said.reports <+: t.reports) ∧
      (NoLaneRuns s → t.reports = (if failed then said else s).reports) := by
  intro said v t
  have hv : AtWork s v := h.announced told
  cases failed with
  | false =>
    have hend := hv.ended (g := g)
    exact ⟨hend.state, hv.ended_mem, hend.reports, fun _ hfailed => Bool.noConfusion hfailed, hend.quiet⟩
  | true =>
    obtain ⟨hsteady, hreports⟩ := hv.refused_late (g := g) .decode n
    refine ⟨hsteady, hv.refused_mem .decode n, hreports, fun hquiet _ => ?_, fun hnone => ?_⟩
    · have hsame : v.reports = s.reports := by
        rcases hquiet with hnone | rfl
        · exact hv.quiet hnone
        · exact hr
      exact (hv.refused hsame .decode n).reports
    · exact (hv.refused (hv.quiet hnone) .decode n).quiet hnone

/-- Settles O58: the first part by the tile rows between, the second by R56's tests in order. -/
theorem photoRowsAreWritten : Obligations.PhotoRowsAreWritten := by
  refine ⟨fun r a b x y hs hab => mem_missingTiles hs hab, ?_⟩
  intro s g f p hwf hu hk hp ht hl hn first refused
  obtain ⟨-, hf⟩ := present_eq_some.1 hp
  have hclaimed : (grantClaim g f s).page f = some p := hf
  have hexec : exec (.photoPart .whole) s = .next (applyPhotoPart g f (grantClaim g f s)) :=
    congrArg Host.Outcome.next (handleKind_of_has hu hk hp ht hl applyPhotoPart)
  have outOfPlace (hr : p.partRecord g.header = none) : refused .outOfPlace := by
    have hat := atWork_claimed (g := g) hf hn
    exact ⟨_, hexec.trans (congrArg _ (applyPhotoPart_refused hclaimed hr)), hat.refused rfl .outOfPlace 0,
      bytesKept_of_mem (hat.refused_mem .outOfPlace 0)⟩
  refine ⟨fun hr => outOfPlace (partRecord_none hr), fun r hr => ⟨fun hb => outOfPlace (partRecord_refused hr hb),
    fun hs hlo hhi => ?_⟩⟩
  have happly := applyPhotoPart_some hclaimed (partRecord_some hr hs hlo hhi)
  let u := payloadDone g (grantClaim g f s)
  have hat : AtWork s u := atWork_read hf hn
  have hcrc : crcGood u g = crcGood s g := crcGood_payloadDone g (grantClaim g f s)
  have granted (hg : segmentGranted s g (partWrites g r s) = true) : exec (.photoPart .whole) s =
      .next (if !crcGood s g then refuseSegment .crc g 0 u else applyRows g f r u) := by
    rw [hexec, happly, ← hcrc]
    exact congrArg _ (whenRead_granted (s := grantClaim g f s) hg _)
  refine ⟨fun hg => ?_, fun hg hc => ?_, fun hg hc hw => ?_⟩
  · rw [hexec, happly]
    exact congrArg _ (whenRead_waiting (s := grantClaim g f s) hg _)
  · have hexec := granted hg
    rw [hc] at hexec
    exact ⟨_, hexec, hat.refused rfl .crc 0, bytesKept_of_mem (hat.refused_mem .crc 0)⟩
  · intro width d n base r1 missing q
    have hexec := granted hg
    rw [hc, applyRows_eq (s := u) hf] at hexec
    obtain ⟨hsteady, hmem, hreports, hnotice, hquiet⟩ := (hat.part rfl hf hn r first d.samples).part_ends (g := g) rfl
      ((advancePhoto r (first + n)).state == .complete) d.error n
    obtain ⟨hin, hout⟩ := memRead_writeSampleRows hwf f r first d.samples
    have hsaid : (submit (segmentNotice .decode g.header g.stamp n) (partWritten f p r first d.samples s)).reports =
        (submit (segmentNotice .decode g.header g.stamp n) s).reports := submit_reports_congr _ rfl rfl
    refine ⟨_, hexec, hsteady.trans ?_, fun i hi => ?_, fun x hx => ?_, hreports, fun hq herr => ?_, fun hq => ?_⟩
    · rw [steady_markDone, steady_markDone]
      rfl
    · rw [← hin i hi]
      exact congrArg (memRead · _) hmem
    · rw [← hout x hx]
      exact congrArg (memRead · _) hmem
    · rw [← hsaid]
      refine hnotice (hq.imp id fun hlow => ?_) herr
      simp only [advancePhoto, if_neg (Nat.not_le.2 hlow)]
      rfl
    · refine (hquiet hq).trans ?_
      split
      · exact hsaid
      · rfl

end Sys2Proof.Machine
end

section
/-! ## REMAKE TILE -/

namespace Sys2Proof.Machine

/-! ### The patch table after a remake -/

theorem findPatch_tile {ps : List PatchEntry} {f tx ty : Nat} {e : PatchEntry} (h : findPatch ps f tx ty = some e) :
    e.frame = f ∧ e.tx = tx ∧ e.ty = ty := by
  simpa [and_assoc] using List.find?_some (p := fun e : PatchEntry => e.frame == f && e.tx == tx && e.ty == ty) h

/-- The entry of a tile that names a slot, clean. -/
theorem findPatch_putPatch_same (f tx ty n : Nat) (ps : List PatchEntry) :
    findPatch (putPatch f tx ty n ps) f tx ty = some ⟨f, tx, ty, n, false⟩ := by
  unfold putPatch
  split
  · next e he =>
    have hcomp : ((fun e : PatchEntry => e.frame == f && e.tx == tx && e.ty == ty) ∘ fun e =>
        if e.frame = f ∧ e.tx = tx ∧ e.ty = ty then { e with slot := n, spoilt := false } else e) =
        fun e => e.frame == f && e.tx == tx && e.ty == ty := by
      funext e
      simp only [Function.comp_apply]
      split <;> rfl
    have htile := findPatch_tile he
    rw [findPatch, List.find?_map, hcomp, ← findPatch, he, Option.map_some, if_pos htile]
    obtain ⟨rfl, rfl, rfl⟩ := htile
    rfl
  · next he =>
    rw [findPatch, List.find?_append, show List.find? _ ps = none from he]
    simp

/-- Every other tile's entry stays. -/
theorem findPatch_putPatch_other {f tx ty f' x y : Nat} (h : ¬ (f' = f ∧ x = tx ∧ y = ty)) (n : Nat)
    (ps : List PatchEntry) : findPatch (putPatch f tx ty n ps) f' x y = findPatch ps f' x y := by
  unfold putPatch
  split
  · have hcomp : ((fun e : PatchEntry => e.frame == f' && e.tx == x && e.ty == y) ∘ fun e =>
        if e.frame = f ∧ e.tx = tx ∧ e.ty = ty then { e with slot := n, spoilt := false } else e) =
        fun e => e.frame == f' && e.tx == x && e.ty == y := by
      funext e
      simp only [Function.comp_apply]
      split <;> rfl
    rw [findPatch, List.find?_map, hcomp, ← findPatch]
    cases he : findPatch ps f' x y with
    | none => rfl
    | some e =>
      obtain ⟨rfl, rfl, rfl⟩ := findPatch_tile he
      rw [Option.map_some, if_neg h]
  · have hnew : ¬ (f = f' ∧ tx = x ∧ ty = y) := fun ⟨hf, hx, hy⟩ => h ⟨hf.symm, hx.symm, hy.symm⟩
    simp [findPatch, List.find?_append, and_assoc, hnew]

theorem freeSlots_one (n : Nat) (s : State) :
    freeSlots [n] s = { s with slotsInUse := s.slotsInUse.filter (· != n) } := by
  simp only [freeSlots, List.contains_cons, List.contains_nil, Bool.or_false]
  rfl

/-- The slots in use without a tile's old one (R67). -/
def slotsWithoutOld (f tx ty : Nat) (ps : List PatchEntry) (slots : List Nat) : List Nat :=
  match findPatch ps f tx ty with
  | some e => slots.filter (· != e.slot)
  | none => slots

theorem freeOld_eq (f tx ty : Nat) (s : State) :
    freeOld f tx ty s = { s with slotsInUse := slotsWithoutOld f tx ty s.patches s.slotsInUse } := by
  unfold freeOld slotsWithoutOld
  cases findPatch s.patches f tx ty with
  | none => rfl
  | some e => exact freeSlots_one e.slot s

theorem mem_slotsWithoutOld {f tx ty m : Nat} {ps : List PatchEntry} {slots : List Nat} :
    m ∈ slotsWithoutOld f tx ty ps slots ↔ m ∈ slots ∧ ∀ e, findPatch ps f tx ty = some e → m ≠ e.slot := by
  unfold slotsWithoutOld
  split
  · next e he => simp [he]
  · next he => simp [he]

/-! ### Rows written into a slot -/

/-- Decoded rows in a slot, each 32 bytes (R64). -/
def slotStretches (n : Nat) : Nat → List (List Bool) → List (Nat × List Byte)
  | _, [] => []
  | y, r :: rs => (slotBase n + 32 * y, rowBytes r) :: slotStretches n (y + 1) rs

theorem writeSlotRows_eq (n y : Nat) (rows : List (List Bool)) (s : State) :
    writeSlotRows n y rows s = writeStretches (slotStretches n y rows) s := by
  induction rows generalizing y s with
  | nil => rfl
  | cons r rs ih => exact ih (y + 1) _

theorem mem_slotStretches {n y : Nat} {rows : List (List Bool)} {w : Nat × List Byte} :
    w ∈ slotStretches n y rows ↔ ∃ i r, rows[i]? = some r ∧ w = (slotBase n + 32 * (y + i), rowBytes r) := by
  induction rows generalizing y with
  | nil => simp [slotStretches]
  | cons r rs ih =>
    rw [slotStretches, List.mem_cons, ih]
    constructor
    · rintro (rfl | ⟨i, q, hi, rfl⟩)
      · exact ⟨0, r, rfl, rfl⟩
      · exact ⟨i + 1, q, hi, by rw [Nat.add_assoc, Nat.add_comm 1 i]⟩
    · rintro ⟨i, q, hi, rfl⟩
      cases i with
      | zero =>
        obtain rfl : r = q := by simpa using hi
        exact .inl rfl
      | succ i => exact .inr ⟨i, q, hi, by rw [Nat.add_assoc, Nat.add_comm 1 i]⟩

section
variable {n : Nat} {rows : List (List Bool)} (hrows : ∀ r ∈ rows, r.length = 256) (hn : rows.length ≤ 256)
include hrows

theorem length_slotStretches {i : Nat} {r : List Bool} (hi : rows[i]? = some r) : (rowBytes r).length = 32 :=
  (rowBytes_spec 32 r (hrows r (List.mem_of_getElem? hi))).1

include hn in
/-- No byte outside the slot changes (R64). -/
theorem slot_outside {s : State} (h : Memory.wf s.mem = true) :
    BytesKeptBut (0x4000000 + n * 8192) 8192 s (writeSlotRows n 0 rows s) := by
  intro a ha
  rw [writeSlotRows_eq]
  refine memRead_writeStretches_outside h fun w hw hc => ?_
  obtain ⟨i, r, hi, rfl⟩ := mem_slotStretches.1 hw
  have hi256 : i < 256 := Nat.lt_of_lt_of_le (List.getElem?_eq_some_iff.1 hi).1 hn
  obtain ⟨hlo, hhi⟩ := hc
  simp only [slotBase, poolBase, tileBytes, length_slotStretches hrows hi] at hlo hhi
  omega

/-- The rows lie in the slot, pixel by pixel (R61, R64). -/
theorem slot_pixels {s : State} (h : Memory.wf s.mem = true) {x y : Nat} (hy : y < rows.length) (hx : x < 256) :
    pixelBit (memRead (writeSlotRows n 0 rows s).mem (0x4000000 + n * 8192 + 32 * y + x / 8)) x =
      (rows.getD y []).getD x false := by
  have hget : rows[y]? = some rows[y] := List.getElem?_eq_getElem hy
  have hpix := (rowBytes_spec 32 rows[y] (hrows _ (List.getElem_mem hy))).2 x hx
  rw [List.getD_eq_getElem?_getD (l := rows), hget, Option.getD_some, ← hpix, writeSlotRows_eq]
  congr 1
  refine memRead_writeStretches_inside h ?_ fun w hw hc => ?_
  · refine ⟨_, mem_slotStretches.2 ⟨y, _, hget, rfl⟩, ?_, ?_⟩
    · simp only [slotBase, poolBase, tileBytes]
      omega
    · simp only [slotBase, poolBase, tileBytes, length_slotStretches hrows hget]
      omega
  · obtain ⟨i, r, hi, rfl⟩ := mem_slotStretches.1 hw
    obtain ⟨hlo, hhi⟩ := hc
    simp only [slotBase, poolBase, tileBytes, length_slotStretches hrows hi] at hlo hhi
    obtain rfl : i = y := by omega
    obtain rfl : rows[i] = r := Option.some.inj (hget.symm.trans hi)
    simp only [slotBase, poolBase, tileBytes]
    congr 1
    omega

end

/-! ### The remake decoded -/

/-- The state with a segment's remake waiting for its reads, its slot taken (R60). -/
def remaking (g : Segment) (f n : Nat) (slots : List Nat) (pointer : Nat) (s : State) : State :=
  { s with unpackerPage := some f, unpacker := .working g (.decoding n), slotsInUse := slots, slotPointer := pointer }

/-- The tables of patches and slots changed at work. -/
theorem AtWork.withTables {s u : State} (h : AtWork s u) (patches : List PatchEntry) (slots : List Nat) :
    AtWork { s with patches := patches, slotsInUse := slots } { u with patches := patches, slotsInUse := slots } where
  steady := by
    change { u.steady with patches := patches, slotsInUse := slots } =
      { s.steady with patches := patches, slotsInUse := slots }
    rw [h.steady]
  mem := h.mem
  reports := h.reports
  quiet := h.quiet
  ends := h.ends

/-- A segment whose page is the Unpacker's, its payload read. -/
theorem atWork_done {s : State} {f : Nat} {p : Page} (hu : s.unpackerPage = some f) (hp : s.page f = some p)
    (hn : p.purgePending = none) (g : Segment) : AtWork s (payloadDone g s) where
  steady := steady_payloadDone g s
  mem := rfl
  reports := List.prefix_rfl
  quiet _ := rfl
  ends := by
    rw [purgeWaits_of_page (s := payloadDone g s) hu hp, hn]
    rfl

/-- The page after a remake of one of its tiles (R61, R77). -/
def Page.remade (p : Page) (damaged : Bool) : Page :=
  { p with version := nextVersion p.version, damaged := if damaged then p.damaged - 1 else p.damaged }

/-- A remake's success as one change of the state, and the lanes told (R61, R67). -/
theorem acceptRemake_eq {s : State} {f : Nat} {p : Page} (hp : s.page f = some p) (tx ty n : Nat) :
    ∃ told, acceptRemake f tx ty n s = announceIf told
      { s with patches := putPatch f tx ty n s.patches
               slotsInUse := slotsWithoutOld f tx ty s.patches s.slotsInUse
               pages := s.pages.set f (some (p.remade (tileDamaged s.patches f p tx ty))) } := by
  let a : State := { s with patches := putPatch f tx ty n s.patches
                            slotsInUse := slotsWithoutOld f tx ty s.patches s.slotsInUse }
  let q : Page := { p with version := nextVersion p.version }
  have hb : modPage f (fun p => { p with version := nextVersion p.version })
      { freeOld f tx ty s with patches := putPatch f tx ty n s.patches } =
      { a with pages := s.pages.set f (some q) } := by
    rw [freeOld_eq]
    exact modPage_eq (s := a) hp _
  have hq : ({ a with pages := s.pages.set f (some q) } : State).page f = some q :=
    page_setPage (some q) s (page_lt hp)
  have hclean : tileDamaged (putPatch f tx ty n s.patches) f q tx ty = false := by
    simp [tileDamaged, findPatch_putPatch_same]
  have hafter : damagedAmong { a with pages := s.pages.set f (some q) } f [(tx, ty)] = 0 := by
    simp only [damagedAmong, hq, a, List.countP_singleton, hclean]
    rfl
  have hbefore : damagedAmong s f [(tx, ty)] = if tileDamaged s.patches f p tx ty then 1 else 0 := by
    simp only [damagedAmong, hp, List.countP_singleton]
  have hdamaged (d : Bool) : p.damaged + 0 - (if d then 1 else 0) = if d then p.damaged - 1 else p.damaged := by
    cases d <;> rfl
  refine ⟨countFell f [(tx, ty)] s { a with pages := s.pages.set f (some q) }, ?_⟩
  rw [acceptRemake, recountTell, hb, recount, modPage_eq hq, hafter, hbefore]
  simp only [q, hdamaged, List.set_set]
  rfl

/-- A good CRC is that of a payload whose every word gives data, and its bytes are decoded (R61, R155). -/
theorem remakeBytes_of_good {s : State} {g : Segment} (h : crcGood s g = true) :
    payloadBad s g = false ∧ remakeBytes s g = payloadOf s g := by
  have herr : segmentError s g = none := by
    simp only [crcGood, Bool.and_eq_true, Option.isNone_iff_eq_none] at h
    exact h.1
  have hbad : payloadBad s g = false := by simp [payloadBad, readable, herr]
  exact ⟨hbad, by simp [remakeBytes, hbad]⟩

/-- What a segment's end promises does not go by memory. -/
theorem SegmentEnds.of_withMemory {g : Segment} {ns : List Report} {s v t : State}
    (h : SegmentEnds g ns (s.withMemory v) t) : SegmentEnds g ns s t := by
  have hr : (submitAll ns (s.withMemory v)).reports = (submitAll ns s).reports := by
    rw [submitAll_congr ns (t := s.withMemory v) (s := s) rfl rfl rfl rfl]
    rfl
  refine ⟨h.state.trans ?_, hr ▸ h.reports, fun hn => (h.quiet hn).trans hr⟩
  rw [steady_markDone, steady_markDone, steady_withMemory]

/-- The slot's rows written at work, whatever the decoder takes in place of words that give no data (R155). -/
theorem AtWork.slotWritten {s u : State} (h : AtWork s u) (n : Nat) (rows : List (List Bool)) (b : Bool) :
    let w := writeSlotRows n 0 rows (if b then useFree u else u)
    AtWork (s.withMemory w) w := by
  intro w
  have hx : AtWork s (if b then useFree u else u) := by
    cases b with
    | false => exact h
    | true => exact ⟨h.steady, h.mem, h.reports, h.quiet, h.ends⟩
  have hw : w = (if b then useFree u else u).withMemory w := by
    simp only [w, writeSlotRows_eq]
    exact writeStretches_eq _ _
  conv => arg 2; rw [hw]
  exact hx.written w

theorem slotWritten_keeps (n : Nat) (rows : List (List Bool)) (b : Bool) (u : State) :
    let w := writeSlotRows n 0 rows (if b then useFree u else u)
    w.patches = u.patches ∧ w.slotsInUse = u.slotsInUse ∧ w.pages = u.pages ∧ w.unpackerPage = u.unpackerPage ∧
      w.reports = u.reports := by
  intro w
  have hw : w = (if b then useFree u else u).withMemory w := by
    simp only [w, writeSlotRows_eq]
    exact writeStretches_eq _ _
  rw [hw]
  cases b <;> exact ⟨rfl, rfl, rfl, rfl, rfl⟩

section
variable {b : State} {g : Segment} {f n : Nat} {p : Page} (hu : b.unpackerPage = some f) (hp : b.page f = some p)
  (hn : p.purgePending = none)
include hu hp hn

/-- A remake with a bad CRC or a decode error ends with its notice, its slot freed (R61). -/
theorem decodeRemake_fails (hwf : Memory.wf b.mem = true)
    (hbad : crcGood b g = false ∨ (lineDecode 256 256 (payloadOf b g)).error = true) :
    let t := decodeRemake g f n (payloadDone g b)
    BytesKeptBut (0x4000000 + n * 8192) 8192 b t ∧
      SegmentEnds g
        [if crcGood b g then segmentNotice .decode g.header g.stamp (lineDecode 256 256 (payloadOf b g)).rows.length
          else segmentNotice .crc g.header g.stamp 0]
        { b with slotsInUse := b.slotsInUse.filter (· != n) } t := by
  intro t
  let u := payloadDone g b
  let r := lineDecode 256 256 (remakeBytes u g)
  let w := writeSlotRows n 0 r.rows (if payloadBad u g then useFree u else u)
  have hcrc : crcGood u g = crcGood b g := crcGood_payloadDone g b
  have hfits : r.Fits 256 256 := fits_lineDecode _
  obtain ⟨hpatches, hslots, -, -, hreports⟩ := slotWritten_keeps n r.rows (payloadBad u g) u
  have hfreed : freeSlots [n] w =
      { w with patches := b.patches, slotsInUse := b.slotsInUse.filter (· != n) } := by
    rw [freeSlots_one, show w.slotsInUse = b.slotsInUse from hslots, ← show w.patches = b.patches from hpatches]
  have hat : AtWork (({ b with slotsInUse := b.slotsInUse.filter (· != n) } : State).withMemory w)
      (freeSlots [n] w) := by
    rw [hfreed]
    exact ((atWork_done hu hp hn g).slotWritten n r.rows (payloadBad u g)).withTables _ _
  have hmem : BytesKeptBut (0x4000000 + n * 8192) 8192 b w := by
    have h := slot_outside (n := n) hfits.rows hfits.count (s := if payloadBad u g then useFree u else u)
    have hx : (if payloadBad u g then useFree u else u).mem = b.mem := by split <;> rfl
    rw [BytesKeptBut, hx] at h
    exact h hwf
  have refused (k : NoticeKind) (d : Nat) (h : t = refuseSegment k g d (freeSlots [n] w)) :
      BytesKeptBut (0x4000000 + n * 8192) 8192 b t ∧ SegmentEnds g [segmentNotice k g.header g.stamp d]
        { b with slotsInUse := b.slotsInUse.filter (· != n) } t := by
    rw [h]
    refine ⟨fun x hx => ?_, (hat.refused hreports k d).of_withMemory⟩
    rw [hat.refused_mem k d]
    exact hmem x hx
  have ht : t = if !crcGood u g then refuseSegment .crc g 0 (freeSlots [n] w)
      else if r.error then refuseSegment .decode g r.rows.length (freeSlots [n] w)
      else endSegment g (acceptRemake f g.header.locator g.header.arg n w) := rfl
  cases hc : crcGood b g with
  | false => exact refused .crc 0 (ht.trans (by simp [hcrc, hc]))
  | true =>
    have hr : r = lineDecode 256 256 (payloadOf b g) :=
      congrArg (lineDecode 256 256) (remakeBytes_of_good (hcrc.trans hc)).2
    have herr : r.error = true := by simpa [hr, hc] using hbad
    rw [← hr]
    exact refused .decode r.rows.length (ht.trans (by simp [hcrc, hc, herr]))

/-- A remake that succeeds ends with its tile moved to the slot (R61, R67). -/
theorem decodeRemake_succeeds (hwf : Memory.wf b.mem = true) (hc : crcGood b g = true)
    (herr : (lineDecode 256 256 (payloadOf b g)).error = false) :
    let t := decodeRemake g f n (payloadDone g b)
    let tx := g.header.locator
    let ty := g.header.arg
    (∀ x y, x < 256 → y < 256 → pixelBit (memRead t.mem (0x4000000 + n * 8192 + 32 * y + x / 8)) x =
      ((lineDecode 256 256 (payloadOf b g)).rows.getD y []).getD x false) ∧
    BytesKeptBut (0x4000000 + n * 8192) 8192 b t ∧
    SegmentEnds g []
      { b with patches := putPatch f tx ty n b.patches
               slotsInUse := slotsWithoutOld f tx ty b.patches b.slotsInUse
               pages := b.pages.set f (some (p.remade (tileDamaged b.patches f p tx ty))) } t := by
  intro t tx ty
  let u := payloadDone g b
  have hcrc : crcGood u g = true := (crcGood_payloadDone g b).trans hc
  obtain ⟨hbad, hbytes⟩ := remakeBytes_of_good hcrc
  let r := lineDecode 256 256 (payloadOf b g)
  let w := writeSlotRows n 0 r.rows u
  have hfits : r.Fits 256 256 := fits_lineDecode _
  obtain ⟨hpatches, hslots, hpages, hup, -⟩ := slotWritten_keeps n r.rows false u
  have hpw : w.page f = some p := by
    rw [State.page, show w.pages = u.pages from hpages]
    exact hp
  have ht : t = endSegment g (acceptRemake f tx ty n w) := by
    have hr : (lineDecode 256 256 (payloadOf u g)).error = false := herr
    simp only [t, decodeRemake]
    simp only [show crcGood (payloadDone g b) g = true from hcrc, show payloadBad (payloadDone g b) g = false from hbad,
      show remakeBytes (payloadDone g b) g = payloadOf u g from hbytes, hr]
    rfl
  obtain ⟨told, haccept⟩ := acceptRemake_eq hpw tx ty n
  rw [show w.patches = b.patches from hpatches, show w.slotsInUse = b.slotsInUse from hslots] at haccept
  have hat := ((((atWork_done hu hp hn g).slotWritten n r.rows false).withTables (putPatch f tx ty n b.patches)
    (slotsWithoutOld f tx ty b.patches b.slotsInUse)).withPage (hup.trans hu) (page_lt hpw)
    (q := p.remade (tileDamaged b.patches f p tx ty)) hn).announced told
  have hmem : t.mem = w.mem := by
    rw [ht, haccept]
    exact hat.ended_mem
  refine ⟨fun x y hx hy => ?_, fun x hx => ?_, ?_⟩
  · rw [hmem]
    exact slot_pixels hfits.rows (s := u) hwf (by rw [hfits.whole herr]; exact hy) hx
  · rw [hmem]
    exact slot_outside hfits.rows hfits.count (s := u) hwf x hx
  · rw [ht, haccept]
    exact SegmentEnds.of_withMemory (v := w) hat.ended

end

/-- What stands in the tables at the end of a remake that succeeds. -/
theorem SegmentEnds.tables {g : Segment} {b t : State} {f : Nat} {q : Page} {patches : List PatchEntry}
    {slots : List Nat} (hl : f < b.pages.length)
    (h : SegmentEnds g []
      { b with patches := patches, slotsInUse := slots, pages := b.pages.set f (some q) } t) :
    t.patches = patches ∧ t.slotsInUse = slots ∧ t.slotPointer = b.slotPointer ∧
      t.landed = (markDone g.offset b).landed ∧ ∃ r, t.page f = some r ∧ r.content = q.content := by
  let e : State := { b with patches := patches, slotsInUse := slots, pages := b.pages.set f (some q) }
  have hstate : t.steady = (markDone g.offset e).steady := h.state
  have hpage : (markDone g.offset e).page f = some q := by
    rw [State.page, markDone_eq]
    exact page_setPage (some q) b hl
  have hlanded : (markDone g.offset e).landed = (markDone g.offset b).landed := by
    simp only [markDone, reclaim_eq, setEntry, e]
  have hpatches : t.steady.patches = (markDone g.offset e).steady.patches := by rw [hstate]
  have hslots : t.steady.slotsInUse = (markDone g.offset e).steady.slotsInUse := by rw [hstate]
  have hpointer : t.steady.slotPointer = (markDone g.offset e).steady.slotPointer := by rw [hstate]
  have hland : t.steady.landed = (markDone g.offset e).steady.landed := by rw [hstate]
  rw [markDone_eq] at hpatches hslots hpointer
  exact ⟨hpatches, hslots, hpointer, hland.trans hlanded, page_of_steady hstate hpage⟩

/-! ### The commands of a remake -/

theorem remaking_of_decoding {s : State} {g : Segment} {f n : Nat} (hu : s.unpackerPage = some f)
    (hs : s.unpacker = .working g (.decoding n)) : s = remaking g f n s.slotsInUse s.slotPointer s := by
  rw [remaking, ← hu, ← hs]

/-- A remake begun on the Unpacker's page has its slot taken, and waits for its reads or goes on (R60). -/
theorem beginRemake_eq {s : State} {f : Nat} (hu : s.unpackerPage = some f) (g : Segment) (n : Nat) :
    beginRemake g f n s = whenRead g (remakeWrites g s) (decodeRemake g f n)
      (remaking g f n (insertSorted n s.slotsInUse) ((n + 1) % poolSlots) s) := by
  rw [beginRemake, remaking, ← hu]
  rfl

theorem handleRemake_of_has {s : State} {g : Segment} {f : Nat} (hu : UnpackerHas g f s) :
    handleRemake .whole s = handleKind kindRemake .whole applyRemake s := by
  rcases hu with ⟨hw, -⟩ | ⟨hw, -⟩ <;> simp [handleRemake, hw]

/-- REMAKE TILE taken up, or with its claim granted before, makes the test of R60. -/
theorem exec_remakeTile {s : State} {g : Segment} {f : Nat} {p : Page} (hu : UnpackerHas g f s)
    (hk : g.header.kind = 6) (hp : s.present g.header.key = some (f, p)) (ht : headerTest p g.header = true)
    (hl : p.lockCount = 0) : exec (.remakeTile .whole) s =
      .next (tryRemake g f (enterStall g .patches none (grantClaim g f s)) (grantClaim g f s)) := by
  have hpage : (grantClaim g f s).page f = some p := (present_eq_some.1 hp).2
  have happly : applyRemake g f (grantClaim g f s) =
      tryRemake g f (enterStall g .patches none (grantClaim g f s)) (grantClaim g f s) := by
    simp [applyRemake, hpage]
  exact congrArg Host.Outcome.next
    ((handleRemake_of_has hu).trans ((handleKind_of_has hu hk hp ht hl applyRemake).trans happly))

/-- The end of a PATCHES stall makes the test again. -/
theorem exec_patchesStallEnd {s : State} {g : Segment} {f : Nat} {p : Page} (hp : s.page f = some p)
    (hu : s.unpackerPage = some f) (hs : ∃ h i, s.unpacker = .stalled g .patches h i) :
    exec .patchesStallEnd s = .next (tryRemake g f s s) := by
  obtain ⟨h, i, hs⟩ := hs
  refine congrArg Host.Outcome.next ?_
  simp [patchesStallEnd, hs, hu, hp]

/-- A remake whose slot is taken goes on to its end. -/
theorem exec_remakeTile_decoding {s : State} {g : Segment} {f n : Nat} (hu : s.unpackerPage = some f)
    (hs : s.unpacker = .working g (.decoding n)) :
    exec (.remakeTile .whole) s = .next (whenRead g (remakeWrites g s) (decodeRemake g f n) s) := by
  refine congrArg Host.Outcome.next ?_
  simp [handleRemake, hs, hu]

theorem tryRemake_begins {s : State} {g : Segment} {f n : Nat}
    (h : remakeSlot s f g.header.locator g.header.arg = some n) (lacking : State) :
    tryRemake g f lacking s = beginRemake g f n s := by
  simp [tryRemake, h]

theorem tryRemake_lacks {s : State} {g : Segment} {f : Nat}
    (h : remakeSlot s f g.header.locator g.header.arg = none) (lacking : State) :
    tryRemake g f lacking s = if purgeWaits s then endSegment g s else lacking := by
  simp [tryRemake, h]

theorem endSegment_of_purge {s : State} (h : purgeWaits s = true) (g : Segment) :
    endSegment g s = { s with unpacker := .working g .applied } := by
  simp [endSegment, h]

/-- The slot a remake takes is free, the first from the pointer on, with a place for the tile's entry (R60, R65). -/
theorem remakeSlot_spec {s : State} {f tx ty n : Nat} (h : remakeSlot s f tx ty = some n) :
    ((findPatch s.patches f tx ty).isSome ∨ s.patches.length < 4000) ∧ n ∉ s.slotsInUse ∧
      ∃ k, k < 4096 ∧ n = (s.slotPointer + k) % 4096 ∧ ∀ m, m < k → (s.slotPointer + m) % 4096 ∈ s.slotsInUse := by
  obtain ⟨hplace, hslot⟩ := remakeSlot_eq_some h
  obtain ⟨k, hk, hn, hfree, hused⟩ := firstFree_eq_some hslot
  exact ⟨hplace, hfree, k, hk, hn, hused⟩

/-- A remake that succeeds, told of the state it waits in. -/
theorem remake_succeeds {b : State} {g : Segment} {f n : Nat} {p : Page} (hu : b.unpackerPage = some f)
    (hp : b.page f = some p) (hn : p.purgePending = none) (hwf : Memory.wf b.mem = true) (hin : n ∈ b.slotsInUse)
    (hc : crcGood b g = true) (herr : (lineDecode 256 256 (payloadOf b g)).error = false)
    (hslots : ∀ e ∈ b.patches, e.slot ∈ b.slotsInUse ∧ e.slot ≠ n) :
    let t := decodeRemake g f n (payloadDone g b)
    let tx := g.header.locator
    let ty := g.header.arg
    ∃ q, findPatch t.patches f tx ty = some ⟨f, tx, ty, n, false⟩ ∧
      (∀ f' x y, ¬ (f' = f ∧ x = tx ∧ y = ty) → findPatch t.patches f' x y = findPatch b.patches f' x y) ∧
      t.slotPointer = b.slotPointer ∧ n ∈ t.slotsInUse ∧
      (∀ m, m ∈ t.slotsInUse ↔ m ∈ b.slotsInUse ∧ ∀ e, findPatch b.patches f tx ty = some e → m ≠ e.slot) ∧
      t.page f = some q ∧ q.version = nextVersion p.version ∧ q.tiles = p.tiles ∧ q.strips = p.strips ∧
      q.damaged = (if tileDamaged b.patches f p tx ty then p.damaged - 1 else p.damaged) ∧
      t.landed = (markDone g.offset b).landed ∧ b.reports <+: t.reports ∧
      (NoLaneRuns b → t.reports = b.reports) := by
  intro t tx ty
  obtain ⟨-, -, hend⟩ := decodeRemake_succeeds (n := n) hu hp hn hwf hc herr
  obtain ⟨hpatches, hinUse, hpointer, hlanded, q, hq, hcontent⟩ := hend.tables (page_lt hp)
  have hmem (m : Nat) : m ∈ t.slotsInUse ↔
      m ∈ b.slotsInUse ∧ ∀ e, findPatch b.patches f tx ty = some e → m ≠ e.slot := by
    rw [hinUse, mem_slotsWithoutOld]
  refine ⟨q, ?_, fun f' x y hother => ?_, hpointer, (hmem n).2 ⟨hin, fun e he => ?_⟩, hmem, hq,
    congrArg Page.version hcontent, ?_, ?_, congrArg Page.damaged hcontent, hlanded, hend.reports, hend.quiet⟩
  · rw [hpatches, findPatch_putPatch_same]
  · rw [hpatches, findPatch_putPatch_other hother]
  · exact (hslots e (List.mem_of_find?_eq_some he)).2.symm
  · change q.content.tiles = p.tiles
    rw [hcontent]
    rfl
  · change q.content.strips = p.strips
    rw [hcontent]
    rfl

/-- Settles O60: a remake begun or gone on is one reading into its slot, which fails or succeeds. -/
theorem remakeMovesTileToNewSlot : Obligations.RemakeMovesTileToNewSlot := by
  intro s g f p c hwf hp tx ty d starts begun
  refine ⟨fun n h => remakeSlot_spec h, fun n b hb => ?_, fun hs hnone => ?_⟩
  · obtain ⟨slots, pointer, hin, rfl, hexec⟩ : ∃ slots pointer, n ∈ slots ∧ b = remaking g f n slots pointer s ∧
        exec c s = .next (whenRead g (remakeWrites g s) (decodeRemake g f n) b) := by
      rcases hb with ⟨⟨rfl, hu, hk, hpr, ht, hl⟩ | ⟨rfl, hu, hs⟩, hslot, rfl⟩ | ⟨rfl, hu, hs, hin, rfl⟩
      · refine ⟨_, _, mem_insertSorted.2 (.inl rfl), rfl, ?_⟩
        rw [exec_remakeTile hu hk hpr ht hl, tryRemake_begins (s := grantClaim g f s) hslot]
        rfl
      · refine ⟨_, _, mem_insertSorted.2 (.inl rfl), rfl, ?_⟩
        rw [exec_patchesStallEnd hp hu hs, tryRemake_begins hslot, beginRemake_eq hu]
        rfl
      · exact ⟨b.slotsInUse, b.slotPointer, hin, remaking_of_decoding hu hs, exec_remakeTile_decoding hu hs⟩
    let b := remaking g f n slots pointer s
    refine ⟨fun hg => hexec.trans (congrArg _ (whenRead_waiting (s := b) hg _)), fun hg hn => ?_⟩
    rw [whenRead_granted (s := b) hg] at hexec
    refine ⟨fun hc herr hslots => ?_, fun hbad => ?_⟩
    · obtain ⟨hpixels, hkept, -⟩ := decodeRemake_succeeds (b := b) (n := n) rfl hp hn hwf hc herr
      obtain ⟨q, hq⟩ := remake_succeeds (b := b) (n := n) rfl hp hn hwf hin hc herr hslots
      obtain ⟨hfind, hothers, hpointer, hinUse, hmem, hpage, hversion, htiles, hstrips, hdamaged, hlanded, hreports,
        hquiet⟩ := hq
      have hlanded' : (markDone g.offset b).landed = (markDone g.offset s).landed := by
        simp only [markDone, reclaim_eq, setEntry, b, remaking]
      exact ⟨_, q, hexec, hfind, hothers, hpointer, hinUse, hmem, hpage, hversion, htiles, hstrips, hdamaged,
        hlanded.trans hlanded', hreports, hquiet, hpixels, hkept⟩
    · obtain ⟨hkept, hend⟩ := decodeRemake_fails (b := b) (n := n) rfl hp hn hwf hbad
      exact ⟨_, hexec, hkept, hend⟩
  · rcases hs with ⟨rfl, hu, hk, hpr, ht, hl⟩ | ⟨rfl, hu, hs⟩
    · have hexec := exec_remakeTile hu hk hpr ht hl
      rw [tryRemake_lacks (s := grantClaim g f s) hnone] at hexec
      have hwaits : purgeWaits (grantClaim g f s) = p.purgePending.isSome := purgeWaits_of_page rfl hp
      refine ⟨fun h => (by cases h), fun _ hn => ?_, fun _ hn => ?_⟩
      · rw [hexec, hwaits, hn]
        rfl
      · rw [hexec, hwaits, hn, if_pos rfl, endSegment_of_purge (hwaits.trans hn)]
        rfl
    · refine ⟨fun _ hn => ?_, fun h => (by cases h), fun h => (by cases h)⟩
      rw [exec_patchesStallEnd hp hu hs, tryRemake_lacks hnone, purgeWaits_of_page hu hp, hn]
      rfl

end Sys2Proof.Machine
end

section
/-! ## The inflow stream: bytes taken in SEEK and HEADER -/

namespace Sys2Proof.Machine

/-! ### An inflow write on its way to the Lander -/

theorem enabledBytes_ne_nil {be : Enables} (h : be ≠ 0) (d : Beat) : enabledBytes be d ≠ [] := by
  intro he
  refine h (BitVec.eq_of_getLsbD_eq fun i hi => ?_)
  have hn : i ∉ (List.range 8).filter (enabled be) := by simp [List.map_eq_nil_iff.1 he]
  simpa [enabled, hi] using hn

theorem enabledBytes_length_le (be : Enables) (d : Beat) : (enabledBytes be d).length ≤ 8 := by
  rw [enabledBytes, List.length_map]
  exact List.length_filter_le _ _

/-- The address at which an inflow write at an offset is held (R28). -/
def inflowAddr (off : BitVec 12) : Addr := BitVec.ofNat 35 (0x200000 + 8 * (off.toNat / 8))

/-- An inflow write in ACTIVE offers its enabled bytes to the Lander (R28, R149). -/
theorem exec_inflowChuteWrite {s : State} {be : Enables} (hh : s.held = none) (he : s.engine = .active) (hbe : be ≠ 0)
    (off : BitVec 12) (d : Beat) : exec (.inflowChuteWrite off be d) s =
      .next (offerInflow (inflowAddr off) (enabledBytes be d) (portTaken s)) := by
  have ha : chuteAddr .inflow off = 0x200000 + 8 * (off.toNat / 8) := by
    simp only [chuteAddr, beatAddr, inflowChuteBase]
    omega
  have hw : hostWrite (chuteAddr .inflow off) be d s =
      inflowWrite (BitVec.ofNat 35 (chuteAddr .inflow off)) be d (portTaken s) := by
    have hz : be ≠ 0#8 := hbe
    simp [hostWrite, writeClass, activeWrite, takeWrite, chuteAddr_inflow, hh, he, hz]
  rw [exec, execInflowChuteWrite, hw, ha]
  rfl

/-! ### The Lander beside the rest of the state -/

/-- The state with the Lander and the discard count at given values. -/
def State.landerAt (s : State) (m : Lander) (n : Nat) : State := { s with lander := m, discarded := n }

theorem landerAt_self {s : State} {m : Lander} (h : s.lander = m) : s.landerAt m s.discarded = s := by
  subst h; rfl

/-- A submission leaves all but the report writer's part as it was (R170, R173). -/
theorem submit_eq (r : Report) (s : State) : submit r s = s.withReports (submit r s) :=
  submit_withReports (t := s) (u := s) r rfl

/-- A report submitted goes by neither the Lander nor the discard count. -/
theorem submit_landerAt (r : Report) (s : State) (m : Lander) (n : Nat) :
    submit r (s.landerAt m n) = (submit r s).landerAt m n :=
  (submit_withReports (t := s.landerAt m n) (u := s) r rfl).trans
    (congrArg (fun v => v.landerAt m n) (submit_eq r s).symm)

/-- The discard count after 4 more bytes (R31). -/
def discardedMore (n : Nat) : Nat := min (n + 4) 4294967295

theorem discard_landerAt (s : State) (m : Lander) (n : Nat) :
    discard 4 (s.landerAt m n) = s.landerAt m (discardedMore n) := rfl

/-- A group of four begins with the marker when its first two bytes are it (R29). -/
theorem beginsMarker_take {w : List Byte} (h : 4 ≤ w.length) :
    beginsMarker (w.take 4) = true ↔ w.take 2 = [0xD2, 0x5A] := by
  match w, h with
  | a :: b :: c :: e :: _, _ => simp [beginsMarker, byteAt]

/-- Taking bytes one after another: those of a list none of which waits, then the others. -/
theorem takeBytes_append {as : List Byte} (bs : List Byte) {s t : State} (h : takeBytes as s = ([], t)) :
    takeBytes (as ++ bs) s = takeBytes bs t := by
  induction as generalizing s with
  | nil => rw [← (Prod.mk.inj h).2]; rfl
  | cons a as ih =>
    rw [List.cons_append, takeBytes]
    rw [takeBytes] at h
    cases hm : s.lander with
    | body b => simp [hm] at h
    | header g => simp only [hm] at h ⊢; exact ih h
    | seek g => simp only [hm] at h ⊢; exact ih h

/-! ### SEEK -/

/-- A byte that does not complete its group waits (R29). -/
theorem takeBytes_seek_short {bs g : List Byte} (h : g.length + bs.length < 4) (s : State) (n : Nat) :
    takeBytes bs (s.landerAt (.seek g) n) = ([], s.landerAt (.seek (g ++ bs)) n) := by
  induction bs generalizing g with
  | nil => rw [List.append_nil]; rfl
  | cons b bs ih =>
    rw [List.length_cons] at h
    have hb : takeByte b (s.landerAt (.seek g) n) = s.landerAt (.seek (g ++ [b])) n := if_pos (by omega)
    have hs := ih (g := g ++ [b]) (by rw [List.length_append, List.length_singleton]; omega)
    rw [List.append_assoc] at hs
    exact (congrArg (takeBytes bs) hb).trans hs

/-- Bytes that wait for their group are examined as if they came with those after them (R29). -/
theorem takeBytes_seek {g : List Byte} (h : g.length < 4) (bs : List Byte) (s : State) (n : Nat) :
    takeBytes bs (s.landerAt (.seek g) n) = takeBytes (g ++ bs) (s.landerAt (.seek []) n) :=
  (takeBytes_append bs (takeBytes_seek_short (g := []) (by simpa using h) s n)).symm

/-- The fourth byte completes its group, which is examined (R29). -/
theorem takeBytes_seek_group {w : List Byte} (h : 4 ≤ w.length) (s : State) (n : Nat) :
    takeBytes w (s.landerAt (.seek []) n) =
      takeBytes (w.drop 4) (examineGroups [w.take 4] (s.landerAt (.seek []) n)) := by
  match w, h with
  | a :: b :: c :: e :: w, _ => rfl

/-- A whole group without the marker is discarded (R29, R31). -/
theorem takeBytes_seek_skip {w : List Byte} (h : 4 ≤ w.length) (hm : w.take 2 ≠ [0xD2, 0x5A]) (s : State)
    (n : Nat) : takeBytes w (s.landerAt (.seek []) n) = takeBytes (w.drop 4) (s.landerAt (.seek []) (discardedMore n)) := by
  rw [takeBytes_seek_group h, examineGroups, if_neg (mt (beginsMarker_take h).1 hm)]
  rfl

/-- A whole group with the marker begins a header, which the bytes after it go on with (R29, R30). -/
theorem takeBytes_seek_marker {w : List Byte} (h : 4 ≤ w.length) (hm : w.take 2 = [0xD2, 0x5A]) (s : State)
    (n : Nat) : takeBytes w (s.landerAt (.seek []) n) = takeBytes (w.drop 4) (s.landerAt (.header (w.take 4)) n) := by
  rw [takeBytes_seek_group h, examineGroups, if_pos ((beginsMarker_take h).2 hm), List.flatten_nil, List.append_nil]
  rfl

/-! ### HEADER -/

/-- Bytes that do not complete the header wait (R30). -/
theorem takeBytes_header_short {bs g : List Byte} (h : g.length + bs.length < 16) (s : State) (n : Nat) :
    takeBytes bs (s.landerAt (.header g) n) = ([], s.landerAt (.header (g ++ bs)) n) := by
  induction bs generalizing g with
  | nil => rw [List.append_nil]; rfl
  | cons b bs ih =>
    rw [List.length_cons] at h
    have hb : takeByte b (s.landerAt (.header g) n) = s.landerAt (.header (g ++ [b])) n := if_pos (by omega)
    have hs := ih (g := g ++ [b]) (by rw [List.length_append, List.length_singleton]; omega)
    rw [List.append_assoc] at hs
    exact (congrArg (takeBytes bs) hb).trans hs

/-- The sixteenth byte completes the header, which is tested (R30). -/
theorem takeBytes_header_test {bs g : List Byte} (hg : g.length < 16) (h : 16 ≤ (g ++ bs).length) (s : State)
    (n : Nat) : takeBytes bs (s.landerAt (.header g) n) =
      takeBytes ((g ++ bs).drop 16) (testHeader ((g ++ bs).take 16) (s.landerAt (.header ((g ++ bs).take 15)) n)) := by
  rw [List.length_append] at h
  obtain ⟨as, b, cs, rfl, hl⟩ : ∃ as b cs, bs = as ++ b :: cs ∧ (g ++ as).length = 15 := by
    refine ⟨bs.take (15 - g.length), bs[15 - g.length], bs.drop (15 - g.length + 1), ?_, ?_⟩
    · rw [← List.drop_eq_getElem_cons, List.take_append_drop]
    · rw [List.length_append, List.length_take]; omega
  rw [takeBytes_append _ (takeBytes_header_short (by rw [← List.length_append, hl]; omega) s n)]
  have hb : takeByte b (s.landerAt (.header (g ++ as)) n) =
      testHeader (g ++ as ++ [b]) (s.landerAt (.header (g ++ as)) n) := if_neg (by omega)
  have hw : g ++ (as ++ b :: cs) = (g ++ as ++ [b]) ++ cs := by simp
  have h15 : (g ++ (as ++ b :: cs)).take 15 = g ++ as := by
    rw [← List.append_assoc, List.take_left' hl]
  have hl16 : (g ++ as ++ [b]).length = 16 := by rw [List.length_append, hl]; rfl
  rw [h15, hw, List.take_left' hl16, List.drop_left' hl16]
  exact congrArg (takeBytes cs) hb

/-- A marked group and bytes after it too few to make the header whole are the header begun (R29, R30). -/
theorem takeBytes_seek_begins {w : List Byte} (h : 4 ≤ w.length) (h' : w.length < 16) (hm : w.take 2 = [0xD2, 0x5A])
    (s : State) (n : Nat) : takeBytes w (s.landerAt (.seek []) n) = ([], s.landerAt (.header w) n) := by
  rw [takeBytes_seek_marker h hm, takeBytes_header_short _ s n, List.take_append_drop]
  rw [← List.length_append, List.take_append_drop]
  exact h'

/-- The three tests of a collected header, as R30 states them. -/
theorem headerAccepted_iff (hb : List Byte) : headerAccepted hb = true ↔
    ((hb.take 12).map BitVec.toNat).sum % 65536 = fieldAt hb 12 2 ∧ fieldAt hb 6 2 ≤ 65520 ∧ fieldAt hb 14 2 = 0 := by
  rw [headerAccepted, Bool.and_eq_true, Bool.and_eq_true, decide_eq_true_iff, decide_eq_true_iff, decide_eq_true_iff,
    and_assoc, eq_comm, headerSum]

theorem groupsOf_flatten {k : Nat} {w : List Byte} (h : w.length = 4 * k) : (groupsOf k w).flatten = w := by
  induction k generalizing w with
  | zero => rw [List.length_eq_zero_iff.1 h]; rfl
  | succ k ih =>
    rw [groupsOf, List.flatten_cons, ih (by rw [List.length_drop]; omega), List.take_append_drop]

/-- The examination of groups does not go by the Lander before it. -/
theorem examineGroups_landerAt (gs : List (List Byte)) (s : State) (m m' : Lander) (n : Nat) :
    examineGroups gs (s.landerAt m n) = examineGroups gs (s.landerAt m' n) := by
  induction gs generalizing n with
  | nil => rfl
  | cons g gs ih =>
    rw [examineGroups, examineGroups]
    split
    · rfl
    · exact ih _

/-- Bytes examined in groups, too few to make a header whole, are taken as in SEEK (R29, R30). -/
theorem takeBytes_groupsOf {k : Nat} (hk : k < 4) {w : List Byte} (h : w.length = 4 * k) (s : State) (n : Nat) :
    takeBytes w (s.landerAt (.seek []) n) = ([], examineGroups (groupsOf k w) (s.landerAt (.seek []) n)) := by
  induction k generalizing w n with
  | zero => rw [List.length_eq_zero_iff.1 h]; rfl
  | succ k ih =>
    have hd : (w.drop 4).length = 4 * k := by rw [List.length_drop]; omega
    rw [groupsOf, examineGroups]
    by_cases hm : w.take 2 = [0xD2, 0x5A]
    · rw [takeBytes_seek_marker (by omega) hm, if_pos ((beginsMarker_take (by omega)).2 hm), groupsOf_flatten hd,
        List.take_append_drop, takeBytes_header_short (by rw [List.length_take, hd]; omega), List.take_append_drop]
      rfl
    · rw [takeBytes_seek_skip (by omega) hm, if_neg (mt (beginsMarker_take (by omega)).1 hm)]
      exact ih (by omega) hd _

/-- A header refused has its first four bytes discarded, and the bytes after them are taken as in SEEK (R30). -/
theorem takeBytes_header_refused {bs g : List Byte} (hg : g.length < 16) (h : 16 ≤ (g ++ bs).length)
    (ht : headerAccepted ((g ++ bs).take 16) = false) (s : State) (n : Nat) :
    takeBytes bs (s.landerAt (.header g) n) =
      takeBytes ((g ++ bs).drop 4) (s.landerAt (.seek []) (discardedMore n)) := by
  have hl : (((g ++ bs).take 16).drop 4).length = 4 * 3 := by rw [List.length_drop, List.length_take]; omega
  have hw : (g ++ bs).drop 4 = ((g ++ bs).take 16).drop 4 ++ (g ++ bs).drop 16 := by
    conv_lhs => rw [← List.take_append_drop 16 (g ++ bs)]
    exact List.drop_append_of_le_length (by rw [List.length_take]; omega)
  rw [takeBytes_header_test hg h, testHeader, ht, if_neg (by decide), discard_landerAt,
    examineGroups_landerAt _ s _ (.seek []), hw, takeBytes_append _ (takeBytes_groupsOf (by decide) hl s _)]

/-! ### A header accepted -/

/-- The segment of a header just accepted, with the place it is admitted at, if it is (R30, R33). -/
def acceptedBody (hb : List Byte) (stamp : Tick) (start : Option Nat) : Body :=
  ⟨hb, headerOf hb, stamp, start, 0, none⟩

/-- The state told of a header accepted after `n` discarded bytes (R31). -/
def resyncTold (hb : List Byte) (n : Nat) (s : State) : State :=
  if 0 < n then submit (segmentNotice .resync (headerOf hb) s.clock n) s else s

theorem acceptHeader_landerAt (hb : List Byte) (s : State) (m : Lander) (n : Nat) :
    acceptHeader hb (s.landerAt m n) = (resyncTold hb n s).landerAt (.body (acceptedBody hb s.clock none)) 0 := by
  have hs : (if 0 < n then submit (segmentNotice .resync (headerOf hb) s.clock n) (s.landerAt m n)
      else s.landerAt m n) = (resyncTold hb n s).landerAt m n := by
    unfold resyncTold
    split
    · exact submit_landerAt _ s m n
    · rfl
  exact congrArg (fun v : State => { v with discarded := 0, lander := .body (acceptedBody hb s.clock none) }) hs

/-- The segment in BODY can be admitted with a place on the landed list and room in the ring (R33). -/
theorem canAdmit_iff {s : State} {b : Body} (hl : s.lander = .body b) (hs : b.start = none) (total : Nat) :
    canAdmit s total = true ↔ s.landed.length < 1024 ∧ total ≤ 33554432 - s.ringUsed := by
  rw [canAdmit, Bool.and_eq_true, decide_eq_true_iff, decide_eq_true_iff]
  simp [placesTaken, ringSize, hl, hs]

/-- The state with the segment `b` admitted (R33). -/
def State.admitted (s : State) (b : Body) : State :=
  { s with lander := .body { b with start := some s.ringTail }
           ringUsed := s.ringUsed + totalOf b.header.length
           ringTail := (s.ringTail + totalOf b.header.length) % 33554432 }

theorem seekAdmission_of_room {s : State} {b : Body} (hl : s.lander = .body b) (hs : b.start = none)
    (hp : s.landed.length < 1024) (hr : totalOf b.header.length ≤ 33554432 - s.ringUsed) :
    seekAdmission s = s.admitted b := by
  have hc := (canAdmit_iff hl hs _).2 ⟨hp, hr⟩
  simp only [seekAdmission, hl, hs, hc, if_true]
  rfl

theorem seekAdmission_of_full {s : State} {b : Body} (hl : s.lander = .body b) (hs : b.start = none)
    (h : 1024 ≤ s.landed.length ∨ 33554432 - s.ringUsed < totalOf b.header.length) : seekAdmission s = s := by
  have hc : ¬ canAdmit s (totalOf b.header.length) = true := by
    rw [canAdmit_iff hl hs]
    omega
  simp [seekAdmission, hl, hs, hc]

/-- The bytes of a write wait in BODY (R28, R34). -/
theorem takeBytes_body {s : State} {b : Body} (hl : s.lander = .body b) (bs : List Byte) :
    takeBytes bs s = (bs, s) := by
  cases bs with
  | nil => rfl
  | cons x bs => simp only [takeBytes, hl]

/-- Once a header is accepted the Lander is in BODY, admitted or not. -/
theorem seekAdmission_body {s : State} {b : Body} (hl : s.lander = .body b) :
    ∃ c, (seekAdmission s).lander = .body c := by
  unfold seekAdmission
  simp only [hl]
  split
  · split
    · exact ⟨_, rfl⟩
    · exact ⟨b, hl⟩
  · exact ⟨b, hl⟩

/-- The state after a header is accepted: told, in BODY, with its admission sought (R30, R31, R33). -/
def State.headerTaken (s : State) (hb : List Byte) (n : Nat) : State :=
  seekAdmission ((resyncTold hb n s).landerAt (.body (acceptedBody hb s.clock none)) 0)

/-- A header accepted seeks its admission, and the bytes after it wait (R30, R33). -/
theorem takeBytes_header_accepted {bs g : List Byte} (hg : g.length < 16) (h : 16 ≤ (g ++ bs).length)
    (ht : headerAccepted ((g ++ bs).take 16) = true) (s : State) (n : Nat) :
    takeBytes bs (s.landerAt (.header g) n) = ((g ++ bs).drop 16, s.headerTaken ((g ++ bs).take 16) n) := by
  rw [takeBytes_header_test hg h, testHeader, if_pos ht, acceptHeader_landerAt]
  obtain ⟨c, hc⟩ := seekAdmission_body (s := (resyncTold ((g ++ bs).take 16) n s).landerAt
    (.body (acceptedBody ((g ++ bs).take 16) s.clock none)) 0) rfl
  exact takeBytes_body hc _

/-- A marked group and the twelve bytes after it are a whole header, tested (R29, R30): accepted. -/
theorem takeBytes_seek_accepted {w : List Byte} (h : 16 ≤ w.length) (hm : w.take 2 = [0xD2, 0x5A])
    (ht : headerAccepted (w.take 16) = true) (s : State) (n : Nat) :
    takeBytes w (s.landerAt (.seek []) n) = (w.drop 16, s.headerTaken (w.take 16) n) := by
  have hg : (w.take 4).length < 16 := by rw [List.length_take]; omega
  have ha := takeBytes_header_accepted (bs := w.drop 4) hg
  rw [List.take_append_drop] at ha
  exact (takeBytes_seek_marker (by omega) hm s n).trans (ha h ht s n)

/-- The same, refused. -/
theorem takeBytes_seek_refused {w : List Byte} (h : 16 ≤ w.length) (hm : w.take 2 = [0xD2, 0x5A])
    (ht : headerAccepted (w.take 16) = false) (s : State) (n : Nat) :
    takeBytes w (s.landerAt (.seek []) n) = takeBytes (w.drop 4) (s.landerAt (.seek []) (discardedMore n)) := by
  have hg : (w.take 4).length < 16 := by rw [List.length_take]; omega
  have hr := takeBytes_header_refused (bs := w.drop 4) hg
  rw [List.take_append_drop] at hr
  exact (takeBytes_seek_marker (by omega) hm s n).trans (hr h ht s n)

/-! ### Writes whose bytes are all taken -/

/-- Bytes that are all taken, with the Lander still in SEEK or HEADER, complete the write with OK (R28). -/
theorem offerInflow_taken {bs : List Byte} {s t : State} (a : Addr) (h : takeBytes bs s = ([], t))
    (hb : ∀ b, t.lander ≠ .body b) : offerInflow a bs s = respond .ok { t with held := none } := by
  rw [offerInflow, h, settleInflow, if_pos rfl, issueRequest]
  split
  · next b hl => exact absurd hl (hb b)
  · rfl
  · rfl

/-- An inflow write whose bytes are all taken in SEEK and HEADER (R28, R29, R30). -/
theorem exec_inflow_taken {s : State} {be : Enables} {d : Beat} (hh : s.held = none) (he : s.engine = .active)
    (hbe : be ≠ 0) (off : BitVec 12) {m : Lander} {n : Nat} (hm : ∀ b, m ≠ .body b)
    (h : takeBytes (enabledBytes be d) (portTaken s) = ([], (portTaken s).landerAt m n)) :
    exec (.inflowChuteWrite off be d) s =
      .next { portTaken s with lander := m, discarded := n, responses := s.responses ++ [.ok] } := by
  have hp : (portTaken s).held = none := hh
  rw [exec_inflowChuteWrite hh he hbe, offerInflow_taken _ h hm, ← hp]
  rfl

/-! ### What is left to examine of a write -/

/-- The discard count `n` after `k` more bytes, in groups of four (R31). -/
def discardedAfter (n k : Nat) : Nat := if k = 0 then n else min (n + k) 4294967295

theorem discardedMore_after (n k : Nat) : discardedMore (discardedAfter n k) = discardedAfter n (k + 4) := by
  unfold discardedMore discardedAfter
  split
  · next h => rw [h]; rfl
  · rw [if_neg (by omega)]
    omega

/-- Of the bytes in hand `bs`, once those of a write are taken, the first `k` are discarded and the others are examined in
SEEK (R29, R30, R31). -/
def Seeks (s : State) (written bs : List Byte) (k : Nat) : Prop :=
  takeBytes written s = takeBytes (bs.drop k) (s.landerAt (.seek []) (discardedAfter s.discarded k))

theorem Seeks.skip {s : State} {written bs : List Byte} {k : Nat} (h : Seeks s written bs k) (hl : k + 4 ≤ bs.length)
    (hm : (bs.drop k).take 2 ≠ [0xD2, 0x5A]) : Seeks s written bs (k + 4) := by
  rw [Seeks, h, takeBytes_seek_skip (by rw [List.length_drop]; omega) hm, List.drop_drop, discardedMore_after]

theorem Seeks.waits {s : State} {written bs : List Byte} {k : Nat} (h : Seeks s written bs k)
    (hl : bs.length < k + 4) :
    takeBytes written s = ([], s.landerAt (.seek (bs.drop k)) (discardedAfter s.discarded k)) :=
  Eq.trans h (takeBytes_seek_short (g := []) (by simp only [List.length_nil, List.length_drop]; omega) s _)

theorem Seeks.begins {s : State} {written bs : List Byte} {k : Nat} (h : Seeks s written bs k)
    (hl : k + 4 ≤ bs.length) (hl' : bs.length < k + 16) (hm : (bs.drop k).take 2 = [0xD2, 0x5A]) :
    takeBytes written s = ([], s.landerAt (.header (bs.drop k)) (discardedAfter s.discarded k)) :=
  Eq.trans h (takeBytes_seek_begins (by rw [List.length_drop]; omega) (by rw [List.length_drop]; omega) hm s _)

theorem Seeks.refused {s : State} {written bs : List Byte} {k : Nat} (h : Seeks s written bs k)
    (hl : k + 16 ≤ bs.length) (hm : (bs.drop k).take 2 = [0xD2, 0x5A])
    (ht : headerAccepted ((bs.drop k).take 16) = false) : Seeks s written bs (k + 4) := by
  rw [Seeks, h, takeBytes_seek_refused (by rw [List.length_drop]; omega) hm ht, List.drop_drop, discardedMore_after]

theorem Seeks.accepted {s : State} {written bs : List Byte} {k : Nat} (h : Seeks s written bs k)
    (hl : k + 16 ≤ bs.length) (hm : (bs.drop k).take 2 = [0xD2, 0x5A])
    (ht : headerAccepted ((bs.drop k).take 16) = true) : takeBytes written s =
      (bs.drop (k + 16), s.headerTaken ((bs.drop k).take 16) (discardedAfter s.discarded k)) := by
  rw [h, takeBytes_seek_accepted (by rw [List.length_drop]; omega) hm ht, List.drop_drop]

theorem seeks_of_refused {s : State} {g written : List Byte} (hl : s.lander = .header g) (hg : g.length < 16)
    (h : 16 ≤ (g ++ written).length) (ht : headerAccepted ((g ++ written).take 16) = false) :
    Seeks s written (g ++ written) 4 := by
  have hr := takeBytes_header_refused hg h ht s s.discarded
  rwa [landerAt_self hl] at hr

theorem seeks_of_seek {s : State} {g : List Byte} (hl : s.lander = .seek g) (hg : g.length < 4)
    (written : List Byte) : Seeks s written (g ++ written) 0 := by
  have h := takeBytes_seek hg written s s.discarded
  rwa [landerAt_self hl] at h

/-- Settles O23: the bytes in hand are examined group by group, at most two groups being whole. -/
theorem seekExaminesGroupsOfFour : Obligations.SeekExaminesGroupsOfFour := by
  intro s off be d g hh he hbe hl hg bs leaves
  have hlen : bs.length < 12 := by
    have := enabledBytes_length_le be d
    rw [List.length_append]
    omega
  have seeks : Seeks (portTaken s) (enabledBytes be d) bs 0 :=
    seeks_of_seek (s := portTaken s) hl hg _
  refine ⟨fun h => ?_, fun h hm => ?_, fun h h' hm => ?_, fun h hm hm' => ?_, fun h hm hm' => ?_⟩
  · exact exec_inflow_taken hh he hbe off nofun (seeks.waits h)
  · exact exec_inflow_taken hh he hbe off nofun (seeks.begins h (by omega) hm)
  · exact exec_inflow_taken hh he hbe off nofun ((seeks.skip h hm).waits h')
  · exact exec_inflow_taken hh he hbe off nofun ((seeks.skip (by omega) hm).begins h (by omega) hm')
  · exact exec_inflow_taken hh he hbe off nofun (((seeks.skip (by omega) hm).skip h hm').waits hlen)

end Sys2Proof.Machine
end

section
/-! ## The segment in BODY: ring requests, admission, and a header accepted -/

namespace Sys2Proof.Machine

/-! ### The next ring word -/

/-- A word of header bytes alone (R34). -/
theorem nextRequest_header {b : Body} {start : Nat} (h : b.landed + wordRoom start b.landed ≤ 16) (rest : List Byte) :
    nextRequest b start rest =
      some ⟨(start + b.landed) % 33554432, (b.raw.drop b.landed).take (wordRoom start b.landed), 0⟩ := by
  have hl : b.landed < 16 := by
    unfold wordRoom at h
    omega
  simp only [nextRequest, if_pos hl, if_pos h]
  rfl

/-- A word that is not of header bytes alone waits for a write (R34). -/
theorem nextRequest_waits {b : Body} {start : Nat} (h : 16 < b.landed + wordRoom start b.landed) :
    nextRequest b start [] = none := by
  simp [nextRequest, Nat.not_le.2 h]

/-- The word the header shares with the bytes after it (R34). -/
theorem nextRequest_shared {b : Body} {start : Nat} {rest : List Byte} (hl : b.landed < 16)
    (h : 16 < b.landed + wordRoom start b.landed) (hr : rest ≠ []) :
    nextRequest b start rest = some ⟨(start + b.landed) % 33554432,
      b.raw.drop b.landed ++ rest.take (wordRoom start b.landed - (16 - b.landed)),
      (rest.take (wordRoom start b.landed - (16 - b.landed))).length⟩ := by
  simp only [nextRequest, if_pos hl, if_neg (Nat.not_le.2 h), if_neg hr]
  rfl

/-- A word of the write's bytes, up to the segment's end (R34). -/
theorem nextRequest_stream {b : Body} {start : Nat} {rest : List Byte} (hl : 16 ≤ b.landed) (hr : rest ≠ []) :
    nextRequest b start rest = some ⟨(start + b.landed) % 33554432,
      rest.take (min (wordRoom start b.landed) (totalOf b.header.length - b.landed)),
      (rest.take (min (wordRoom start b.landed) (totalOf b.header.length - b.landed))).length⟩ := by
  simp only [nextRequest, if_neg (Nat.not_lt.2 hl), if_neg hr]
  rfl

/-- The first ring word of an admitted segment is of header bytes alone (R34). -/
theorem nextRequest_first {b : Body} (h : b.landed = 0) (start : Nat) (rest : List Byte) :
    nextRequest b start rest = some ⟨start % 33554432, b.raw.take (8 - start % 8), 0⟩ := by
  rw [nextRequest_header (by unfold wordRoom; omega), h]
  rfl

/-! ### The request made -/

/-- A body once the next ring word is requested, with the bytes of the write being taken (R34): as it was where it is not
admitted, has a request outstanding, or has none to make. -/
def Body.requesting (b : Body) (rest : List Byte) : Body :=
  { b with request := b.request.or (b.start.bind fun start => nextRequest b start rest) }

theorem requesting_idle {b : Body} (h : b.start = none ∨ b.request.isSome = true) (rest : List Byte) :
    b.requesting rest = b := by
  obtain ⟨raw, header, stamp, start, landed, request⟩ := b
  cases request with
  | some q => rfl
  | none =>
    simp only [Option.isSome_none, Bool.false_eq_true, or_false] at h
    rw [h]
    rfl

theorem requesting_admitted {b : Body} {start : Nat} (hs : b.start = some start) (hq : b.request = none)
    (rest : List Byte) : b.requesting rest = { b with request := nextRequest b start rest } := by
  rw [Body.requesting, hs, hq]
  rfl

/-- The first request of an admitted segment (R34). -/
theorem requesting_first {b : Body} {start : Nat} (hs : b.start = some start) (hq : b.request = none)
    (h0 : b.landed = 0) (rest : List Byte) :
    (b.requesting rest).request = some ⟨start % 33554432, b.raw.take (8 - start % 8), 0⟩ := by
  rw [requesting_admitted hs hq]
  exact nextRequest_first h0 start rest

/-- A loader that reads nothing. -/
theorem loaderReadOn_of_eq {s t : State} (h : t.loader = s.loader) : LoaderReadOn s t where
  idle hl := h.trans hl
  waits _ := h
  reads ld hl := ⟨0, by omega, by rw [h, hl]; simp [Load.readTo], by omega, by omega⟩

/-- The state with the body `c` in the Lander, and the loader's part of `v`. -/
def State.requested (s : State) (c : Body) (v : State) : State :=
  { s with lander := .body c, loader := v.loader, free := v.free, waiting := v.waiting }

/-- What a loader reads does not go by the model's count of free values. -/
theorem LoaderReadOn.withFree {s t : State} (h : LoaderReadOn s t) (n : Nat) : LoaderReadOn { s with free := n } t :=
  ⟨h.idle, h.waits, h.reads⟩

theorem loaderReadsOn_eq (s : State) : loaderReadsOn s =
    { s with loader := (loaderReadsOn s).loader, free := (loaderReadsOn s).free
             waiting := (loaderReadsOn s).waiting } := by
  unfold loaderReadsOn
  split <;> rfl

/-- A request made lets the profile loader read on before it (R34, R156, R162). -/
theorem requested_reads {s : State} {c : Body} (hl : s.lander = .body { c with request := none })
    (hc : c.request.isSome = true) : RequestLetsLoaderRead c s.waiting s (s.requested c (loaderReadsOn s)) := by
  refine ⟨fun h => ?_, loaderReadsOn_waiting s, ?_⟩
  · rcases h with h | h
    · rw [h] at hc
      cases hc
    · rw [loaderReadsOn_idle h]
      exact ⟨rfl, rfl⟩
  · have hr : LoaderReadOn s (s.requested c (loaderReadsOn s)) := loaderReadOn_of_loader rfl
    have hs : { s.requested c (loaderReadsOn s) with lander := .body { c with request := none }, loader := s.loader,
                                                      waiting := s.waiting } =
        { s with free := (loaderReadsOn s).free } := by rw [← hl]; rfl
    rw [hs]
    exact hr.withFree _

/-- Where no request is made the profile loader reads nothing. -/
theorem requested_idle {s : State} (c : Body) : RequestLetsLoaderRead c s.waiting s (s.requested c s) :=
  ⟨fun _ => ⟨rfl, rfl⟩, (if_pos rfl).symm, loaderReadOn_of_eq rfl⟩

theorem requested_self {s : State} {b : Body} (hl : s.lander = .body b) : s.requested b s = s := by
  rw [State.requested, ← hl]

/-- The Lander's turn to request makes `t` of `s`, its segment then being `c`, and the profile loader reads on before the
request (R34, R156, R162). -/
def RingWordAsked (c : Body) (s t : State) : Prop :=
  ∃ v, t = s.requested c v ∧ RequestLetsLoaderRead c s.waiting s (s.requested c v)

/-- A segment not admitted, or with a request outstanding, makes none (R34). -/
theorem issueRequest_idle {s : State} {b : Body} (hl : s.lander = .body b)
    (h : b.start = none ∨ b.request.isSome = true) : issueRequest s = s := by
  simp only [issueRequest, hl]
  split
  · next hs hq => simp [hs, hq] at h
  · rfl

/-- What the Lander's turn to request does in BODY. -/
theorem issueRequest_body {s : State} {b : Body} (hl : s.lander = .body b) :
    RingWordAsked (b.requesting (heldInflow s)) s (issueRequest s) := by
  by_cases hidle : b.start = none ∨ b.request.isSome = true
  · rw [requesting_idle hidle, issueRequest_idle hl hidle]
    exact ⟨s, (requested_self hl).symm, requested_idle b⟩
  · simp only [not_or, Bool.not_eq_true, Option.isSome_eq_false_iff, Option.isNone_iff_eq_none] at hidle
    obtain ⟨hstart, hq⟩ := hidle
    obtain ⟨start, hs⟩ := Option.ne_none_iff_exists'.1 hstart
    have hb := requesting_admitted hs hq (heldInflow s)
    cases hn : nextRequest b start (heldInflow s) with
    | none =>
      have hsame : b.requesting (heldInflow s) = b := by rw [hb, hn, ← hq]
      rw [hsame]
      exact ⟨s, by simp only [issueRequest, hl, hs, hq, hn, requested_self hl], requested_idle b⟩
    | some q =>
      refine ⟨loaderReadsOn s, ?_, requested_reads ?_ ?_⟩
      · simp only [issueRequest, hl, hs, hq, hn, hb]
        rw [loaderReadsOn_eq]
        rfl
      · rw [hl, hb, ← hq]
      · rw [hb, hn]
        rfl

/-! ### The end of a write's turn -/

/-- The state with a write's turn at its end (R28, R35): completed with OK, or held with its timer starting. -/
def State.turnEnded (s : State) (a : Addr) (rest : List Byte) : State :=
  { s with
    held := if rest = [] then none else some ⟨.inflow, a, rest, s.clock⟩
    responses := if rest = [] then s.responses ++ [.ok] else s.responses }

theorem settleInflow_eq (a : Addr) (rest : List Byte) (s : State) :
    settleInflow a rest s = issueRequest (s.turnEnded a rest) := by
  unfold settleInflow State.turnEnded
  split
  · rfl
  · rfl

theorem heldInflow_turnEnded (s : State) (a : Addr) (rest : List Byte) : heldInflow (s.turnEnded a rest) = rest := by
  unfold State.turnEnded heldInflow
  by_cases h : rest = []
  · simp [h]
  · simp [h]

/-- Bytes of a write of which some list waits in BODY (R28, R34, R35). -/
theorem offerInflow_body {bs rest : List Byte} {s t : State} {b : Body} (h : takeBytes bs s = (rest, t))
    (hl : t.lander = .body b) (a : Addr) :
    RingWordAsked (b.requesting rest) (t.turnEnded a rest) (offerInflow a bs s) := by
  have hr := issueRequest_body (s := t.turnEnded a rest) hl
  rw [heldInflow_turnEnded, ← settleInflow_eq] at hr
  rwa [offerInflow, h]

/-! ### Admission -/

/-- A held write with its hold timer started afresh, if it is one of the inflow chute (R35). -/
def HeldWrite.afresh (now : Tick) (h : HeldWrite) : HeldWrite :=
  if h.chute = .inflow then { h with since := now } else h

theorem restartHold_eq (s : State) : restartHold s = { s with held := s.held.map (HeldWrite.afresh s.clock) } := by
  unfold restartHold
  cases hh : s.held with
  | none => exact congrArg (fun x => { s with held := x }) hh
  | some h =>
    simp only [Option.map_some, HeldWrite.afresh]
    split
    · rfl
    · exact congrArg (fun x => { s with held := x }) hh

/-- ADMISSION with a place and room (R33, R35). -/
theorem admission_of_room {s : State} {b : Body} (hl : s.lander = .body b) (hs : b.start = none)
    (hp : s.landed.length < 1024) (hr : totalOf b.header.length ≤ 33554432 - s.ringUsed) :
    admission s = issueRequest (restartHold (s.admitted b)) := by
  simp only [admission, hl, hs, (canAdmit_iff hl hs _).2 ⟨hp, hr⟩, if_true]
  rfl

theorem admission_of_full {s : State} {b : Body} (hl : s.lander = .body b) (hs : b.start = none)
    (h : 1024 ≤ s.landed.length ∨ 33554432 - s.ringUsed < totalOf b.header.length) : admission s = s := by
  have hc : ¬ canAdmit s (totalOf b.header.length) = true := by
    rw [canAdmit_iff hl hs]
    omega
  simp [admission, hl, hs, hc]

/-- An inflow write that finds the segment in BODY is held with all its bytes (R34, R35). -/
theorem exec_inflow_body {s : State} {b : Body} {be : Enables} (hl : s.lander = .body b) (hh : s.held = none)
    (he : s.engine = .active) (hbe : be ≠ 0) (off : BitVec 12) (d : Beat) : exec (.inflowChuteWrite off be d) s =
      .next (issueRequest { portTaken s with held := some ⟨.inflow, inflowAddr off, enabledBytes be d, s.clock⟩ }) := by
  rw [exec_inflowChuteWrite hh he hbe, offerInflow, takeBytes_body (s := portTaken s) hl, settleInflow,
    if_neg (enabledBytes_ne_nil hbe d)]
  rfl

/-- Settles O25: a write waits in BODY, the next ring word is requested once the segment is admitted, and ADMISSION
reserves its place. -/
theorem bodyWaitsForAdmission : Obligations.BodyWaitsForAdmission := by
  refine ⟨fun b start rest => ⟨fun h => nextRequest_header h rest, fun h hr => hr ▸ nextRequest_waits h,
    fun hl h hr => nextRequest_shared hl h hr, fun hl hr => nextRequest_stream hl hr⟩,
    fun s b hl => ⟨?_, fun hs => ?_⟩⟩
  · intro off be d hh he hbe held
    have hexec := exec_inflow_body hl hh he hbe off d
    let t : State := { portTaken s with held := held }
    refine ⟨fun hidle => hexec.trans (congrArg _ (issueRequest_idle (s := t) hl hidle)), fun start hs hq => ?_⟩
    obtain ⟨v, hv, hread⟩ := issueRequest_body (s := t) hl
    have hc : b.requesting (heldInflow t) = { b with request := nextRequest b start (enabledBytes be d) } :=
      requesting_admitted hs hq _
    rw [hc] at hv hread
    exact ⟨_, hexec.trans (congrArg _ hv), hread, rfl⟩
  · refine ⟨fun hp hr => ?_, fun hfull => congrArg Host.Outcome.next (admission_of_full hl hs hfull)⟩
    have hexec := admission_of_room hl hs hp hr
    rw [restartHold_eq] at hexec
    obtain ⟨v, hv, hread⟩ := issueRequest_body (b := { b with start := some s.ringTail })
      (s := { s.admitted b with held := s.held.map (HeldWrite.afresh s.clock) }) rfl
    refine ⟨_, _, congrArg Host.Outcome.next (hexec.trans hv), rfl, rfl,
      fun h0 hq => requesting_first (b := { b with start := some s.ringTail }) rfl hq h0 _, rfl, hread,
      fun h hh hi => ?_, fun hno => ?_⟩
    · change s.held.map _ = _
      rw [hh, Option.map_some, HeldWrite.afresh, if_pos hi]
    · change s.held.map _ = _
      cases hh : s.held with
      | none => rfl
      | some h => rw [Option.map_some, HeldWrite.afresh, if_neg (hno h hh)]

end Sys2Proof.Machine
end

section
/-! ## A header collected, accepted or refused -/

namespace Sys2Proof.Machine

/-! ### A header accepted -/

/-- The RESYNC notice leaves all but the report writer's part as it was (R31, R170, R173). -/
theorem resyncTold_eq (hb : List Byte) (n : Nat) (s : State) :
    resyncTold hb n s = s.withReports (resyncTold hb n s) := by
  unfold resyncTold
  split
  · exact submit_withReports _ rfl
  · rfl

/-- What an accepted header leaves (R30, R31, R33): the segment in BODY, admitted at the ring's tail with a place and
room. -/
theorem headerTaken_eq (s : State) (hb : List Byte) (n : Nat) : ∃ start used tail,
    s.headerTaken hb n = { s.withReports (resyncTold hb n s) with
      lander := .body (acceptedBody hb s.clock start), discarded := 0, ringUsed := used, ringTail := tail } ∧
    (s.landed.length < 1024 → s.ringUsed + totalOf (fieldAt hb 6 2) ≤ 33554432 →
      start = some s.ringTail ∧ used = s.ringUsed + totalOf (fieldAt hb 6 2) ∧
        tail = (s.ringTail + totalOf (fieldAt hb 6 2)) % 33554432) ∧
    (1024 ≤ s.landed.length ∨ 33554432 < s.ringUsed + totalOf (fieldAt hb 6 2) →
      start = none ∧ used = s.ringUsed ∧ tail = s.ringTail) := by
  have ht : 0 < totalOf (fieldAt hb 6 2) := by unfold totalOf; omega
  let u := (s.withReports (resyncTold hb n s)).landerAt (.body (acceptedBody hb s.clock none)) 0
  have hs : s.headerTaken hb n = seekAdmission u := by rw [State.headerTaken, resyncTold_eq]
  by_cases h : s.landed.length < 1024 ∧ s.ringUsed + totalOf (fieldAt hb 6 2) ≤ 33554432
  · have hu : seekAdmission u = u.admitted (acceptedBody hb s.clock none) :=
      seekAdmission_of_room rfl rfl h.1 (Nat.le_sub_of_add_le' h.2)
    exact ⟨_, _, _, hs.trans hu, fun _ _ => ⟨rfl, rfl, rfl⟩, fun hf => by omega⟩
  · have hfull : 1024 ≤ s.landed.length ∨ 33554432 - s.ringUsed < totalOf (fieldAt hb 6 2) := by omega
    have hu : seekAdmission u = u := seekAdmission_of_full rfl rfl hfull
    exact ⟨_, _, _, hs.trans hu, fun hp hr => absurd ⟨hp, hr⟩ h, fun _ => ⟨rfl, rfl, rfl⟩⟩

/-- Settles O24: fewer than 16 bytes wait; a header that passes is accepted; and one that fails leaves the bytes after its
first four to be examined as in SEEK, where a second header can be whole. -/
theorem acceptedHeaderIsAdmitted : Obligations.AcceptedHeaderIsAdmitted := by
  intro s off be d g hh he hl hg hbe bs passes accepts
  have hlen : bs.length < 24 := by
    have := enabledBytes_length_le be d
    rw [List.length_append]
    omega
  have hp : portTaken s = (portTaken s).landerAt (.header g) s.discarded :=
    (landerAt_self (s := portTaken s) hl).symm
  have accepted {hb rest : List Byte} {n : Nat}
      (h : takeBytes (enabledBytes be d) (portTaken s) = (rest, (portTaken s).headerTaken hb n)) :
      accepts hb rest n := by
    obtain ⟨start, used, tail, hy, hroom, hfull⟩ := headerTaken_eq (portTaken s) hb n
    rw [hy] at h
    obtain ⟨v, hv, hread⟩ := offerInflow_body h rfl (inflowAddr off)
    refine ⟨_, _, (portTaken s).withReports (resyncTold hb n (portTaken s)),
      (exec_inflowChuteWrite hh he hbe off d).trans (congrArg _ hv), rfl, rfl, rfl, rfl, rfl,
      (resyncTold_eq hb n (portTaken s)).symm, rfl, hread, fun hr => ⟨if_pos hr, if_pos hr⟩,
      fun hr => ⟨if_neg hr, if_neg hr⟩, fun hplace hfits => ?_, fun hf => ?_⟩
    · obtain ⟨hstart, hused, htail⟩ := hroom hplace hfits
      exact ⟨hstart, hused, htail, requesting_first (b := acceptedBody hb s.clock start) hstart rfl rfl rest⟩
    · obtain ⟨hstart, hused, htail⟩ := hfull hf
      have hidle := requesting_idle (b := acceptedBody hb s.clock start) (.inl hstart) rest
      exact ⟨hstart, congrArg Body.request hidle, hused, htail⟩
  refine ⟨fun h => ?_, fun h ht => ?_, ?_⟩
  · rw [List.length_append] at h
    exact exec_inflow_taken hh he hbe off nofun ((congrArg _ hp).trans (takeBytes_header_short h _ _))
  · have ht' := (headerAccepted_iff _).2 ht
    exact accepted ((congrArg _ hp).trans (takeBytes_header_accepted hg h ht' _ _))
  · intro h ht leaves marked second
    have refused {hb : List Byte} (hf : ¬ passes hb) : headerAccepted hb = false :=
      Bool.eq_false_iff.2 (mt (headerAccepted_iff hb).1 hf)
    have leave {m : Lander} {k : Nat} (hm : ∀ b, m ≠ .body b) (ht : takeBytes (enabledBytes be d) (portTaken s) =
        ([], (portTaken s).landerAt m (discardedAfter s.discarded (k + 1)))) : leaves m (k + 1) :=
      exec_inflow_taken hh he hbe off hm ht
    have seeks4 : Seeks (portTaken s) (enabledBytes be d) bs 4 :=
      seeks_of_refused (s := portTaken s) hl hg h (refused ht)
    refine ⟨fun hs hm => leave nofun (seeks4.begins (by omega) hs hm),
      fun hs hm hp => accepted (seeks4.accepted hs hm ((headerAccepted_iff _).2 hp)), fun hfirst => ?_⟩
    have seeks8 : Seeks (portTaken s) (enabledBytes be d) bs 8 := by
      by_cases hm : marked 4
      · obtain ⟨hs, hf⟩ := hfirst.resolve_left (not_not_intro hm)
        exact seeks4.refused hs hm (refused hf)
      · exact seeks4.skip (by omega) hm
    refine ⟨fun hm => leave nofun (seeks8.begins (by omega) hlen hm), fun hm hm' => ?_, fun hm hm' => ?_⟩
    · exact leave nofun ((seeks8.skip (by omega) hm).begins (by omega) (by omega) hm')
    · have seeks16 := (seeks8.skip (by omega) hm).skip h hm'
      exact ⟨fun hs => leave nofun (seeks16.waits hs),
        fun hs hm16 => leave nofun (seeks16.begins hs (by omega) hm16),
        fun hs hm16 => leave nofun ((seeks16.skip hs hm16).waits hlen)⟩

end Sys2Proof.Machine
end

section
/-! ## The last ring write, the cut, and segments without a page -/

namespace Sys2Proof.Machine

/-! ### A ring word at the memory port -/

/-- A ring word touches memory alone, and of the words with an uncorrectable error it can only mend some (R34, R155). -/
theorem storeRing_eq (o : Nat) (bs : List Byte) (s : State) : storeRing o bs s = s.withMemory (storeRing o bs s) := by
  unfold storeRing
  split
  · rfl
  · split <;> rfl

theorem storeRing_badWords {o : Nat} {bs : List Byte} {s : State} {w : Nat} (h : w ∈ (storeRing o bs s).badWords) :
    w ∈ s.badWords := by
  unfold storeRing at h
  split at h
  · exact List.mem_of_mem_filter h
  · split at h <;> exact h

/-- No byte of memory beside the request's own changes (R34). -/
theorem storeRing_outside {s : State} (hwf : Memory.wf s.mem = true) (o : Nat) (bs : List Byte) :
    BytesKeptBut (ringAddr o) bs.length s (storeRing o bs s) := by
  intro x hx
  unfold storeRing
  split
  · exact (memRead_writeWords hwf _ _ _).trans (if_neg hx)
  · split
    · rfl
    · exact (memRead_memWriteBytes bs _ _ hwf).trans (if_neg hx)

/-- The request's bytes are written, unless they are a part of a word with an uncorrectable error (R34, R155). -/
theorem storeRing_inside {s : State} (hwf : Memory.wf s.mem = true) {o : Nat} {bs : List Byte}
    (h : bs.length = 8 ∨ s.badWords.contains (ringAddr o / 8) = false) {i : Nat} (hi : i < bs.length) :
    memRead (storeRing o bs s).mem (ringAddr o + i) = bs.getD i 0 := by
  have hin : ringAddr o ≤ ringAddr o + i ∧ ringAddr o + i < ringAddr o + bs.length := by omega
  have hwritten : memRead (memWriteBytes s.mem (ringAddr o) bs) (ringAddr o + i) = bs.getD i 0 := by
    rw [memRead_memWriteBytes bs _ _ hwf, if_pos hin, Nat.add_sub_cancel_left]
  unfold storeRing
  split
  · exact hwritten
  · next h8 =>
    rw [if_neg (by rw [State.bad, wordOf, h.resolve_left h8]; decide)]
    exact hwritten

/-! ### What taking the stream keeps -/

/-- Memory and the landed list are as they were. -/
structure RingKept (s t : State) : Prop where
  mem : t.mem = s.mem
  landed : t.landed = s.landed

theorem RingKept.refl (s : State) : RingKept s s := ⟨rfl, rfl⟩

theorem RingKept.trans {s t u : State} (h : RingKept s t) (k : RingKept t u) : RingKept s u :=
  ⟨k.mem.trans h.mem, k.landed.trans h.landed⟩

theorem ringKept_examineGroups (gs : List (List Byte)) (s : State) : RingKept s (examineGroups gs s) := by
  induction gs generalizing s with
  | nil => exact ⟨rfl, rfl⟩
  | cons g gs ih =>
    rw [examineGroups]
    split
    · exact ⟨rfl, rfl⟩
    · exact RingKept.trans (t := discard 4 s) ⟨rfl, rfl⟩ (ih _)

theorem ringKept_acceptHeader (hb : List Byte) (s : State) : RingKept s (acceptHeader hb s) := by
  unfold acceptHeader
  simp only
  split
  · exact ⟨submit_mem _ _, submit_landed _ _⟩
  · exact ⟨rfl, rfl⟩

theorem ringKept_seekAdmission (s : State) : RingKept s (seekAdmission s) := by
  unfold seekAdmission
  split
  · split
    · split <;> exact ⟨rfl, rfl⟩
    · exact RingKept.refl s
  · exact RingKept.refl s
  · exact RingKept.refl s

theorem ringKept_takeByte (b : Byte) (s : State) : RingKept s (takeByte b s) := by
  unfold takeByte testHeader
  split
  · split
    · exact ⟨rfl, rfl⟩
    · exact ringKept_examineGroups _ _
  · split
    · exact ⟨rfl, rfl⟩
    · split
      · exact (ringKept_acceptHeader _ _).trans (ringKept_seekAdmission _)
      · exact RingKept.trans (t := discard 4 s) ⟨rfl, rfl⟩ (ringKept_examineGroups _ _)
  · exact RingKept.refl s

theorem ringKept_takeBytes (bs : List Byte) (s : State) : RingKept s (takeBytes bs s).2 := by
  induction bs generalizing s with
  | nil => exact RingKept.refl s
  | cons b bs ih =>
    rw [takeBytes]
    split
    · exact RingKept.refl s
    · exact (ringKept_takeByte b s).trans (ih _)
    · exact (ringKept_takeByte b s).trans (ih _)

theorem ringKept_issueRequest (s : State) : RingKept s (issueRequest s) := by
  cases hl : s.lander with
  | body b =>
    obtain ⟨v, hv, -⟩ := issueRequest_body hl
    rw [hv]
    exact ⟨rfl, rfl⟩
  | header g => simp only [issueRequest, hl]; exact RingKept.refl s
  | seek g => simp only [issueRequest, hl]; exact RingKept.refl s

/-- Bytes offered to the Lander change neither memory nor the landed list (R28, R37). -/
theorem ringKept_offerInflow (a : Addr) (bs : List Byte) (s : State) : RingKept s (offerInflow a bs s) := by
  rw [offerInflow, settleInflow_eq]
  exact (ringKept_takeBytes bs s).trans (RingKept.trans (t := (takeBytes bs s).2.turnEnded a _) ⟨rfl, rfl⟩
    (ringKept_issueRequest _))

/-! ### The segment landed -/

/-- RING_WRITE_DONE of a segment's last byte, of a word with bytes of the held write (R34, R37). -/
theorem exec_ringWriteDone_last {s : State} {b : Body} {start : Nat} {q : RingRequest} (hg : s.grants .lander = true)
    (hl : s.lander = .body b) (hs : b.start = some start) (hq : b.request = some q)
    (hlast : totalOf b.header.length ≤ b.landed + q.bytes.length) : exec .ringWriteDone s =
      .next (continueInflow q.stream (landSegment b start (storeRing q.offset q.bytes s))) := by
  have h : ringWriteDone s = continueInflow q.stream
      (landSegment { b with landed := b.landed + q.bytes.length, request := none } start
        (storeRing q.offset q.bytes s)) := by
    simp only [ringWriteDone, hl, hs, hq, hg]
    exact if_pos hlast
  exact congrArg Host.Outcome.next h

/-- The state with a segment landed, the Unpacker not yet told (R37). -/
def State.withLanded (s : State) (b : Body) (start : Nat) : State :=
  { s with lander := .seek [], landed := s.landed ++ [⟨⟨start, b.header, b.stamp⟩, .landed⟩] }

theorem landSegment_reacts (b : Body) (start : Nat) (s : State) :
    Reacts (s.withLanded b start) (landSegment b start s) :=
  takeWork_reacts false _

/-- Settles O27: the last bytes are written, the segment lands with its reaction, and the held write goes on. -/
theorem lastRingWriteLandsSegment : Obligations.LastRingWriteLandsSegment := by
  intro s b start q h hwf hg hl hs hq hh hi hstream hlast
  let u := landSegment b start (storeRing q.offset q.bytes s)
  have hu : Reacts ((storeRing q.offset q.bytes s).withLanded b start) u := landSegment_reacts _ _ _
  have hsteady : u.steady = (s.withLanded b start).steady := by
    rw [hu.steady, storeRing_eq]
    rfl
  have hheld : u.held = some h := (congrArg State.held hsteady).trans hh
  have hgoes : continueInflow q.stream u = offerInflow (heldAddr u) (h.rest.drop q.stream) u := by
    rw [continueInflow, if_neg (by omega), restAfter, heldInflow, hheld]
    simp only [hi, if_true]
  have hkept := ringKept_offerInflow (heldAddr u) (h.rest.drop q.stream) u
  have hmem : (offerInflow (heldAddr u) (h.rest.drop q.stream) u).mem = (storeRing q.offset q.bytes s).mem :=
    hkept.mem.trans hu.mem
  refine ⟨_, (exec_ringWriteDone_last hg hl hs hq hlast).trans (congrArg _ hgoes),
    hkept.landed.trans (congrArg State.landed hsteady), fun x hx => ?_, fun hw i hi => ?_, fun hrest => ?_⟩
  · rw [hmem]
    exact storeRing_outside hwf _ _ x hx
  · rw [hmem]
    exact storeRing_inside hwf hw hi
  · have hseek : u.lander = .seek [] := congrArg State.lander hsteady
    rw [List.drop_eq_nil_of_le hrest, offerInflow_taken (t := u) _ rfl (by rw [hseek]; exact nofun)]
    have hr : u.responses = s.responses := (congrArg State.responses hsteady).trans rfl
    change { u.steady with held := none, responses := u.responses ++ [HostResponse.ok] } = _
    rw [hsteady, hr]
    rfl

/-! ### The cut -/

/-- A submission goes by neither memory nor the free values. -/
theorem submit_withMemory (r : Report) (s v : State) (n : Nat) :
    submit r { s.withMemory v with free := n } = { (submit r s).withMemory v with free := n } :=
  (submit_withReports (t := { s.withMemory v with free := n }) (u := s) r rfl).trans
    (congrArg (fun u : State => { u.withMemory v with free := n }) (submit_eq r s).symm)

/-- The outstanding ring word of a segment given up touches memory and the free values alone (R35, R156). -/
theorem strayRingWrite_eq (b : Body) (s : State) : strayRingWrite b s =
    { s.withMemory (strayRingWrite b s) with free := (strayRingWrite b s).free } := by
  unfold strayRingWrite
  split <;> rfl

theorem strayRingWrite_none {b : Body} (h : b.request = none) (s : State) : strayRingWrite b s = s := by
  simp only [strayRingWrite, h]

theorem strayRingWrite_badWords {b : Body} {s : State} {w : Nat} (h : w ∈ (strayRingWrite b s).badWords) :
    w ∈ s.badWords := by
  unfold strayRingWrite at h
  split at h
  · simp only at h
    split at h
    · exact storeRing_badWords h
    · exact h
  · exact h

theorem strayRingWrite_bytes {b : Body} {q : RingRequest} (hq : b.request = some q) {s : State}
    (hwf : Memory.wf s.mem = true) :
    BytesKeptBut (ringAddr q.offset) q.bytes.length s (strayRingWrite b s) := by
  intro x hx
  simp only [strayRingWrite, hq]
  split
  · exact storeRing_outside hwf _ _ x hx
  · rfl

/-- The ring place of a segment given back, if it was admitted (R36). -/
theorem unwindAdmission_eq (b : Body) (s : State) : unwindAdmission b s =
    { s with ringTail := b.start.getD s.ringTail
             ringUsed := if b.start.isSome then s.ringUsed - totalOf b.header.length else s.ringUsed } := by
  unfold unwindAdmission
  cases b.start <;> rfl

/-- The state with the segment `b` cut and its held write discarded, before the CUT notice and but for an outstanding ring
word (R36). -/
def State.cutOff (s : State) (b : Body) : State :=
  { s with held := none, responses := s.responses ++ [.error], lander := .seek [], discarded := 0
           ringTail := b.start.getD s.ringTail
           ringUsed := if b.start.isSome then s.ringUsed - totalOf b.header.length else s.ringUsed }

/-- The state with its held write answered with an error, its bytes discarded (R36). -/
def State.holdFailed (s : State) : State := respond .error { s with held := none }

/-- The cut, with whatever became of an outstanding ring word (R35, R36). -/
theorem cutSegment_eq {s : State} {b : Body} (hl : s.lander = .body b) : cutSegment s.holdFailed =
    { (submit (segmentNotice .cut b.header b.stamp b.landed) (s.cutOff b)).withMemory
        (strayRingWrite b s.holdFailed) with
      free := (strayRingWrite b s.holdFailed).free } := by
  have hcut : s.holdFailed.lander = .body b := hl
  simp only [cutSegment, hcut]
  rw [unwindAdmission_eq, strayRingWrite_eq]
  exact submit_withMemory _ (s.cutOff b) _ _

theorem holdExpired_iff {s : State} {h : HeldWrite} {pr : Profile} (hh : s.held = some h) (hi : h.chute = .inflow)
    (hp : s.profile = some pr) :
    holdExpired s .inflow = true ↔ 10 * pr.holdLimit < (s.clock - h.since).toNat := by
  simp [holdExpired, State.holdTicks, hh, hi, hp]

/-- Settles O28: nothing before the hold limit; past it the cut, with an outstanding ring word written or not. -/
theorem inflowTimeoutCutsSegment : Obligations.InflowTimeoutCutsSegment := by
  intro s h pr b hh hi hp hl
  have hexpired := holdExpired_iff hh hi hp
  refine ⟨fun hdue => ?_, fun hdue => ?_⟩
  · exact congrArg Host.Outcome.next (if_neg (mt hexpired.1 (Nat.not_lt.2 hdue)))
  · have hexec : exec .inflowHoldTimeout s = .next (cutSegment s.holdFailed) :=
      congrArg Host.Outcome.next (if_pos (hexpired.2 hdue))
    rw [cutSegment_eq hl] at hexec
    refine ⟨fun hq => ?_, fun q hq => ⟨_, hexec, rfl, fun w hw => strayRingWrite_badWords (s := s.holdFailed) hw,
      fun hwf => strayRingWrite_bytes (s := s.holdFailed) hq hwf⟩⟩
    rw [hexec, strayRingWrite_none hq]
    exact congrArg Host.Outcome.next (submit_withMemory _ (s.cutOff b) s.holdFailed _).symm

/-! ### Segments without a page -/

/-- Settles O52: such a segment is at work as it stands, and ends with its notice or with none. -/
theorem plainSegmentsAreMarkedDone : Obligations.PlainSegmentsAreMarkedDone := by
  intro s g _ hw hp
  have work : AtWork s s := AtWork.refl (purgeWaits_of_none hp)
  refine ⟨fun hk => ?_, fun hk => ?_⟩
  · have hexec : exec .filler s = .next (endSegment g s) := by
      simp [exec, execFiller, handlePlain, hw, hk, kindFiller]
    have ends := work.ended (g := g)
    exact ⟨_, hexec, ends.state, ends.reports, ends.quiet, bytesKept_of_mem work.ended_mem⟩
  · have hexec : exec .unknownKind s = .next (refuseSegment .unknownKind g g.header.kind.toNat s) := by
      have hu : unknownKindCode g.header.kind = true := decide_eq_true hk
      simp only [exec, execUnknownKind, handlePlain, hw, hu, if_true]
      rfl
    have ends := work.refused (g := g) rfl .unknownKind g.header.kind.toNat
    exact ⟨_, hexec, ends.state, bytesKept_of_mem (work.refused_mem _ _), ends.reports, ends.quiet⟩

end Sys2Proof.Machine
end

section
/-! ## A strip refused -/

namespace Sys2Proof.Machine

/-! ### Strips and damage -/

/-- Strips of which every BAD one stays BAD undo no damage (R70, R76). -/
theorem tileDamaged_strips {ps : List PatchEntry} {f : Nat} {p : Page} {strips : List StripState} {x y : Nat}
    (hs : ∀ i, p.strips.getD i .absent = .bad → strips.getD i .absent = .bad) (h : tileDamaged ps f p x y = true) :
    tileDamaged ps f { p with strips := strips } x y = true := by
  have hc : p.stripCondition y = true → ({ p with strips := strips } : Page).stripCondition y = true := by
    simp only [Page.stripCondition, List.any_eq_true, beq_iff_eq]
    rintro ⟨i, hi, hb⟩
    exact ⟨i, hi, hs _ hb⟩
  simp only [tileDamaged, Bool.and_eq_true] at h ⊢
  obtain ⟨hin, hd⟩ := h
  refine ⟨hin, ?_⟩
  cases he : findPatch ps f x y with
  | some e => simpa [he] using hd
  | none =>
    simp only [he, Bool.or_eq_true] at hd ⊢
    exact hd.imp (Or.imp hc id) id

theorem getD_set_bad {strips : List StripState} {k i : Nat} (h : strips.getD i .absent = .bad) :
    (strips.set k .bad).getD i .absent = .bad := by
  rw [List.getD_eq_getElem?_getD] at h ⊢
  rw [List.getElem?_set]
  split
  · next hk =>
    subst hk
    split
    · rfl
    · next hl => simp [List.getElem?_eq_none (Nat.le_of_not_lt hl)] at h
  · exact h

/-- A strip that becomes BAD lowers no count, and so tells the lanes nothing (R17, R77). -/
theorem changeStrip_bad_reports {s : State} {f : Nat} {p : Page} (hp : s.page f = some p) (tw k : Nat) :
    (changeStrip f tw k .bad s).reports = s.reports := by
  have hfell : countFell f (rowTiles tw (k / 16)) s
      (modPage f (fun p => { p with strips := p.strips.set k .bad }) s) = false :=
    countFell_modPage hp fun _ _ => tileDamaged_strips (p := p) fun _ => getD_set_bad
  rw [changeStrip_eq, recountTell_reports hfell]
  exact modPage_reports f _ s

/-! ### The rows completed -/

/-- No byte outside the rows completed of a strip changes (R7, R52). -/
theorem strip_outside_rows {f tw k : Nat} {rows : List (List Bool)} (hrows : ∀ r ∈ rows, r.length = tw * 256)
    (hn : rows.length ≤ 16) {s : State} (h : Memory.wf s.mem = true) {a : Nat}
    (ha : ∀ tx, tx < tw → ¬ (frameBase f + spanOffset tw tx (16 * k) ≤ a ∧
      a < frameBase f + spanOffset tw tx (16 * k) + 32 * rows.length)) :
    memRead (writePageRows f tw (16 * k) rows s).mem a = memRead s.mem a := by
  rw [writePageRows_eq]
  refine memRead_writeStretches_outside h fun w hw ⟨hlo, hhi⟩ => ?_
  obtain ⟨i, r, tx, hi, -, htx, -, haddr, hlen⟩ := covers_pageStretches hrows hn hw
  have hspan : spanOffset tw tx (16 * k) = _ := spanOffset_strip tw tx k (i := 0) (by omega)
  have hlt : i < rows.length := (List.getElem?_eq_some_iff.1 hi).1
  refine ha tx htx ?_
  rw [hspan]
  omega

theorem writePageRows_keeps (f tw y : Nat) (rows : List (List Bool)) (s : State) :
    (writePageRows f tw y rows s).pages = s.pages ∧ (writePageRows f tw y rows s).reports = s.reports := by
  rw [writePageRows_eq, writeStretches_eq]
  exact ⟨rfl, rfl⟩

/-! ### The refusals -/

/-- STRIP with its requests granted and a bad CRC (R52). -/
theorem applyStrip_badCrc {s : State} {g : Segment} {f : Nat} {p : Page} (hp : s.page f = some p)
    (hg : segmentGranted s g (stripWrites g p s) = true) (hc : crcGood s g = false) :
    applyStrip g f (grantClaim g f s) =
      let u := payloadDone g (grantClaim g f s)
      refuseSegment .crc g 0 (if p.strips.getD g.header.locator .absent = .absent then
        changeStrip f p.tw g.header.locator .bad u else u) := by
  have hp' : (grantClaim g f s).page f = some p := hp
  have hc' : crcGood (payloadDone g (grantClaim g f s)) g = false :=
    (crcGood_payloadDone g (grantClaim g f s)).trans hc
  have hg' : segmentGranted (grantClaim g f s) g (stripWrites g p (grantClaim g f s)) = true := hg
  simp only [applyStrip, hp']
  rw [whenRead_granted hg']
  simp [hc']

/-- A strip whose decode fails (R52). -/
theorem writeStrip_error {s : State} {g : Segment} {p : Page}
    (he : (lineDecode (p.tw * 256) 16 (payloadOf s g)).error = true) (f : Nat) :
    writeStrip g f p s =
      let rows := (lineDecode (p.tw * 256) 16 (payloadOf s g)).rows
      refuseSegment .decode g rows.length
        (changeStrip f p.tw g.header.locator .bad (writePageRows f p.tw (16 * g.header.locator) rows s)) := by
  simp [writeStrip, he]

/-- Settles O56: a bad CRC by whether the strip was ABSENT, a bad decode by the rows it completed. -/
theorem badCrcStripIsRefused : Obligations.BadCrcStripIsRefused := by
  intro s g f p hwf hu hk hp hs hloc hl hn hin hg k d withStrips
  obtain ⟨-, hf⟩ := present_eq_some.1 hp
  let u := payloadDone g (grantClaim g f s)
  have huf : u.page f = some p := hf
  have hat : AtWork s u := atWork_read hf hn
  have hexec : exec (.strip .whole) s = .next (applyStrip g f (grantClaim g f s)) :=
    congrArg Host.Outcome.next (handleKind_of_has hu hk hp (headerTest_strip hk hs hloc hin) hl applyStrip)
  refine ⟨fun hc => ?_, fun hc herr => ?_⟩
  · rw [applyStrip_badCrc hf hg hc] at hexec
    by_cases habsent : p.strips.getD k .absent = .absent
    · simp only [k, if_pos habsent] at hexec ⊢
      have hq : AtWork { s with pages := s.pages.set f (some (withStrips (p.strips.set k .bad))) }
          (changeStrip f p.tw k .bad u) :=
        hat.recounted rfl huf (g := fun p => { p with strips := p.strips.set k .bad }) rfl hn _
      exact ⟨_, hexec, bytesKept_of_mem (hq.refused_mem .crc 0),
        hq.refused (changeStrip_bad_reports huf p.tw k) .crc 0⟩
    · simp only [k, if_neg habsent] at hexec ⊢
      rw [withPages_self hf]
      exact ⟨_, hexec, bytesKept_of_mem (hat.refused_mem .crc 0), hat.refused rfl .crc 0⟩
  · obtain ⟨hrows, hcount, -⟩ := fits_lineDecode (width := p.tw * 256) (need := 16) (payloadOf s g)
    rw [applyStrip_read hf hg hc, writeStrip_error (s := u) herr] at hexec
    obtain ⟨hpages, hreports⟩ := writePageRows_keeps f p.tw (16 * k) d.rows u
    have hwritten : (writePageRows f p.tw (16 * k) d.rows u).page f = some p := by rw [State.page, hpages]; exact huf
    have hq := hat.strip rfl huf hn (16 * k) k .bad d.rows
    have hmem := hq.refused_mem (g := g) .decode d.rows.length
    refine ⟨_, hexec, ?_, fun i x hi hx => ?_, fun a ha => ?_⟩
    · exact (hq.refused ((changeStrip_bad_reports hwritten p.tw k).trans hreports) .decode d.rows.length).of_withMemory
        (s := { s with pages := s.pages.set f (some (withStrips (p.strips.set k .bad))) })
    · refine (congrArg (fun m => pixelBit (memRead m _) x) hmem).trans ?_
      exact strip_pixels hrows hcount (s := u) hwf hi hx
    · refine (congrArg (memRead · a) hmem).trans ?_
      exact strip_outside_rows hrows hcount (s := u) hwf ha

end Sys2Proof.Machine
end

section
/-! ## PAGE CLOSE -/

namespace Sys2Proof.Machine

/-! ### Damage over some tiles and over all -/

theorem nodup_rectTiles (tx0 ty0 w h : Nat) : (rectTiles tx0 ty0 w h).Nodup := by
  have pair_inj (j : Nat) : Function.Injective fun i => (tx0 + i, ty0 + j) := fun a b hab => by
    simpa using hab
  refine List.nodup_flatMap.2 ⟨fun j _ => List.nodup_range.map (pair_inj j), ?_⟩
  refine List.nodup_range.imp fun hab => List.disjoint_left.2 ?_
  intro t ha hb
  obtain ⟨i, _, rfl⟩ := List.mem_map.1 ha
  obtain ⟨j, _, he⟩ := List.mem_map.1 hb
  simp only [Prod.mk.injEq] at he
  omega

theorem nodup_passedTiles (r : PhotoRecord) (first : Nat) : (passedTiles r first).Nodup := by
  unfold passedTiles missingTiles
  split
  · exact nodup_rectTiles _ _ _ _
  · exact List.nodup_nil

/-- Two counts that differ only in a part of a list differ over the list as they do over the part. -/
theorem countP_part {α : Type} {part whole : List α} (hp : part.Nodup) (hw : whole.Nodup) {P Q : α → Bool}
    (hP : ∀ x ∈ part, P x = true → x ∈ whole) (hQ : ∀ x ∈ part, Q x = true → x ∈ whole)
    (hsame : ∀ x ∈ whole, x ∉ part → Q x = P x) :
    whole.countP Q + part.countP P = whole.countP P + part.countP Q := by
  classical
  have split {R : α → Bool} (hR : ∀ x ∈ part, R x = true → x ∈ whole) :
      whole.countP R = part.countP R + (whole.filter (· ∉ part)).countP R := by
    have hperm : (part.filter R).Perm ((whole.filter (· ∈ part)).filter R) := by
      refine (List.perm_ext_iff_of_nodup (hp.filter _) ((hw.filter _).filter _)).2 fun x => ?_
      simp only [List.mem_filter, decide_eq_true_eq]
      exact ⟨fun ⟨hx, h⟩ => ⟨⟨hR x hx h, hx⟩, h⟩, fun ⟨⟨_, hx⟩, h⟩ => ⟨hx, h⟩⟩
    have hpart : part.countP R = (whole.filter (· ∈ part)).countP R := by
      rw [List.countP_eq_length_filter, List.countP_eq_length_filter, hperm.length_eq]
    rw [hpart, List.countP_eq_countP_filter_add whole R (· ∈ part)]
    simp only [decide_not]
  have hrest : (whole.filter (· ∉ part)).countP Q = (whole.filter (· ∉ part)).countP P :=
    List.countP_congr fun x hx => by
      obtain ⟨hx, hn⟩ := List.mem_filter.1 hx
      rw [hsame x hx (by simpa using hn)]
  rw [split hP, split hQ, hrest]
  omega

theorem holds_of_damaged {ps : List PatchEntry} {f : Nat} {p : Page} {x y : Nat} (h : tileDamaged ps f p x y = true) :
    p.holds x y = true := by
  simp only [tileDamaged, Bool.and_eq_true] at h
  exact h.1

theorem mem_allTiles {p : Page} {x y : Nat} : (x, y) ∈ allTiles p.tw p.th ↔ p.holds x y = true := by
  simp [allTiles, mem_rectTiles, Page.holds]

/-- Flags changed leave those of any other tile of the page. -/
theorem modFlagsOf_flags_other (p : Page) (g : TileFlags → TileFlags) {ts : List (Nat × Nat)} {x y : Nat}
    (h : p.holds x y = true) (hn : (x, y) ∉ ts) : (p.modFlagsOf g ts).flags x y = p.flags x y := by
  unfold Page.modFlagsOf
  induction ts generalizing p with
  | nil => rfl
  | cons t ts ih =>
    obtain ⟨hne, hns⟩ := not_or.1 (mt List.mem_cons.2 hn)
    refine (ih (p.modFlags g t) h hns).trans ?_
    simp only [Page.flags, modFlags_tiles]
    split
    · next ht =>
      have hx : x < p.tw ∧ y < p.th := by simpa [Page.holds] using h
      have htx : t.1 < p.tw ∧ t.2 < p.th := by simpa [Page.holds] using ht
      have hidx : t.2 * p.tw + t.1 ≠ y * p.tw + x := fun he => by
        have hcol : t.1 = x := by
          rw [← Nat.mul_add_mod_of_lt (a := t.2) htx.1, he, Nat.mul_add_mod_of_lt hx.1]
        have hrow : t.2 = y := Nat.eq_of_mul_eq_mul_right (Nat.zero_lt_of_lt hx.1) (by omega)
        exact hne (by rw [← hcol, ← hrow])
      simp only [Page.modFlags, List.getD_eq_getElem?_getD, List.getElem?_modify, if_neg hidx]
      simp
    · rfl

/-- Setting PHOTO flags changes no damage but of the tiles flagged. -/
theorem tileDamaged_setPhoto_other {ps : List PatchEntry} {f : Nat} {p : Page} {ts : List (Nat × Nat)} {x y : Nat}
    (h : p.holds x y = true) (hn : (x, y) ∉ ts) :
    tileDamaged ps f (p.modFlagsOf (fun v => { v with photo := true }) ts) x y = tileDamaged ps f p x y := by
  have hflags := modFlagsOf_flags_other p (fun v => { v with photo := true }) h hn
  have hh : (p.modFlagsOf (fun v => { v with photo := true }) ts).holds x y = p.holds x y := by
    rw [modFlagsOf_eq]; rfl
  have hc : (p.modFlagsOf (fun v => { v with photo := true }) ts).stripCondition y = p.stripCondition y := by
    rw [modFlagsOf_eq]; rfl
  simp only [tileDamaged, hflags, hh, hc]

/-! ### A photo ended -/

/-- The record of a photo at a close (R58). -/
def PhotoRecord.ended (r : PhotoRecord) : PhotoRecord :=
  if r.state = .receiving then { r with nextRow := photoHeight r.h r.scale, state := .complete } else r

/-- The tiles that the rows missing from a photo at a close touch (R57, R58). -/
def PhotoRecord.missing (r : PhotoRecord) : List (Nat × Nat) :=
  if r.state = .receiving then passedTiles r (photoHeight r.h r.scale) else []

theorem ended_index (r : PhotoRecord) : r.ended.index = r.index := by
  unfold PhotoRecord.ended
  split <;> rfl

theorem nodup_missing (r : PhotoRecord) : r.missing.Nodup := by
  unfold PhotoRecord.missing
  split
  · exact nodup_passedTiles _ _
  · exact List.nodup_nil

/-- In a list by index a record is put in place of the one of its index (R8). -/
theorem putPhoto_replaces {as bs : List PhotoRecord} {q r : PhotoRecord} (ha : ∀ a ∈ as, a.index < r.index)
    (hq : r.index = q.index) : putPhoto r (as ++ q :: bs) = as ++ r :: bs := by
  induction as with
  | nil => simp [putPhoto, hq]
  | cons a as ih =>
    obtain ⟨hlt, has⟩ := List.forall_mem_cons.1 ha
    rw [List.cons_append, putPhoto, if_neg (by omega), if_neg (by omega), ih has, List.cons_append]

/-- A photo ended at a close, on its page alone: its record stands COMPLETE in its place, and the tiles of its missing
rows are flagged and recounted (R58). -/
theorem endPhoto_eq {s : State} {f : Nat} {p : Page} (hp : s.page f = some p) {before after : List PhotoRecord}
    {r : PhotoRecord} (hphotos : p.photos = before ++ r :: after) (hlow : ∀ a ∈ before, a.index < r.index) :
    endPhoto f s r =
      { s with pages := s.pages.set f (some (p.partTaken (before ++ r.ended :: after) r.missing s f)) } := by
  by_cases hs : r.state = .receiving
  · let q := p.partTaken p.photos (passedTiles r (photoHeight r.h r.scale)) s f
    have hpage : ({ s with pages := s.pages.set f (some q) } : State).page f = some q :=
      page_setPage (some q) s (page_lt hp)
    have hended : r.ended = { r with nextRow := photoHeight r.h r.scale, state := .complete } := if_pos hs
    have hmissing : r.missing = passedTiles r (photoHeight r.h r.scale) := if_pos hs
    have hput : putPhoto r.ended q.photos = before ++ r.ended :: after := by
      rw [show q.photos = before ++ r :: after from hphotos]
      exact putPhoto_replaces (by simpa only [ended_index] using hlow) (ended_index r)
    rw [endPhoto, if_pos hs, ← hended, flagMissing_eq hp, modPage_eq hpage, hput, hmissing]
    simp only [List.set_set]
    rfl
  · have hended : r.ended = r := if_neg hs
    have hmissing : r.missing = [] := if_neg hs
    have hself : p.partTaken p.photos [] s f = p := by
      simp [Page.partTaken, Page.modFlagsOf, Page.recounted, damagedOf]
    rw [endPhoto, if_neg hs, hended, hmissing, ← hphotos, hself, withPages_self hp]

/-! ### The page at a close -/

/-- The page `q` with photos changed and tiles flagged for missing rows, all its tiles counted again since it was `p`
(R58, R77). -/
def Page.closing (q p : Page) (photos : List PhotoRecord) (missing : List (Nat × Nat)) (s : State) (f : Nat) : Page :=
  Page.recounted { q.modFlagsOf (fun x => { x with photo := true }) missing with photos := photos } p s f
    (allTiles q.tw q.th)

theorem closing_purgePending (q p : Page) (photos : List PhotoRecord) (missing : List (Nat × Nat)) (s : State)
    (f : Nat) : (q.closing p photos missing s f).purgePending = q.purgePending := by
  rw [Page.closing, modFlagsOf_eq]
  rfl

/-- A page of which nothing changes. -/
theorem closing_self (p : Page) (s : State) (f : Nat) : p.closing p p.photos [] s f = p := by
  simp [Page.closing, Page.modFlagsOf, Page.recounted]

theorem closing_congr {s t : State} (h : t.patches = s.patches) (q p : Page) (photos : List PhotoRecord)
    (missing : List (Nat × Nat)) (f : Nat) : q.closing p photos missing t f = q.closing p photos missing s f := by
  simp only [Page.closing, Page.recounted, damagedOf, h]

/-- Flags are changed beside photos and the count. -/
theorem modFlagsOf_beside (p : Page) (g : TileFlags → TileFlags) (ts : List (Nat × Nat)) (photos : List PhotoRecord)
    (n : Nat) : ({ p with photos := photos, damaged := n } : Page).modFlagsOf g ts =
      { p.modFlagsOf g ts with photos := photos, damaged := n } := by
  unfold Page.modFlagsOf
  induction ts generalizing p with
  | nil => rfl
  | cons t ts ih => exact ih (p.modFlags g t)

/-- The page of a close, its strips and its flags changed at once (R58). -/
theorem closing_withStrips (p : Page) (strips : List StripState) (photos : List PhotoRecord)
    (missing : List (Nat × Nat)) (s : State) (f : Nat) :
    ({ p with strips := strips } : Page).closing p photos missing s f =
      Page.recounted
        { p.modFlagsOf (fun x => { x with photo := true }) missing with strips := strips, photos := photos }
        p s f (allTiles p.tw p.th) := by
  have htiles : (({ p with strips := strips } : Page).modFlagsOf (fun x => { x with photo := true }) missing).tiles =
      (p.modFlagsOf (fun x => { x with photo := true }) missing).tiles :=
    modFlagsOf_tiles_congr (p := p) (q := { p with strips := strips }) rfl rfl rfl _ _
  rw [Page.closing, modFlagsOf_eq ({ p with strips := strips } : Page), modFlagsOf_eq p, htiles]

/-- PHOTO flags set of some tiles move the count of these as they do that of the whole page. -/
theorem damagedOf_setPhoto (s : State) (f : Nat) (p : Page) {ts : List (Nat × Nat)} (hn : ts.Nodup) :
    let q := p.modFlagsOf (fun x => { x with photo := true }) ts
    damagedOf s f (allTiles p.tw p.th) q + damagedOf s f ts p =
      damagedOf s f (allTiles p.tw p.th) p + damagedOf s f ts q := by
  intro q
  have hsize : allTiles q.tw q.th = allTiles p.tw p.th := by
    simp only [q]
    rw [modFlagsOf_eq]
  refine countP_part hn (nodup_rectTiles _ _ _ _) (fun _ _ hd => mem_allTiles.2 (holds_of_damaged hd))
    (fun _ _ hd => ?_) fun _ ht hts => tileDamaged_setPhoto_other (mem_allTiles.1 ht) hts
  have hq := mem_allTiles.2 (holds_of_damaged hd)
  rwa [hsize] at hq

section
variable {s : State} {f : Nat} {q p : Page}
  (hmono : ∀ x y, tileDamaged s.patches f p x y = true → tileDamaged s.patches f q x y = true)
include hmono

/-- A photo ended after others, its missing rows' tiles alone recounted (R58, R77). -/
theorem closing_partTaken {t : State} (ht : t.patches = s.patches) (photos photos' : List PhotoRecord)
    (ms : List (Nat × Nat)) {ts : List (Nat × Nat)} (hn : ts.Nodup) :
    (q.closing p photos ms s f).partTaken photos' ts t f = q.closing p photos' (ms ++ ts) s f := by
  let all := allTiles q.tw q.th
  let q1 := q.modFlagsOf (fun x => { x with photo := true }) ms
  let q2 := q1.modFlagsOf (fun x => { x with photo := true }) ts
  have hq2 : q.modFlagsOf (fun x => { x with photo := true }) (ms ++ ts) = q2 := List.foldl_append
  have hsize : allTiles q1.tw q1.th = all := by
    simp only [q1]
    rw [modFlagsOf_eq]
  have hcount : damagedOf s f all q2 + damagedOf s f ts q1 = damagedOf s f all q1 + damagedOf s f ts q2 := by
    rw [← hsize]
    exact damagedOf_setPhoto s f q1 hn
  have hrose : damagedOf s f all p ≤ damagedOf s f all q1 :=
    List.countP_mono_left fun x _ hx => tileDamaged_setPhoto (hmono x.1 x.2 hx)
  let d := p.damaged + damagedOf s f all q1 - damagedOf s f all p
  calc (q.closing p photos ms s f).partTaken photos' ts t f
    _ = { q2 with photos := photos', damaged := d + damagedOf s f ts q2 - damagedOf s f ts q1 } := by
      rw [Page.partTaken, show q.closing p photos ms s f = { q1 with photos := photos, damaged := d } from rfl,
        modFlagsOf_beside]
      simp only [Page.recounted, damagedOf, ht]
      rfl
    _ = { q2 with photos := photos', damaged := p.damaged + damagedOf s f all q2 - damagedOf s f all p } := by
      rw [show d + damagedOf s f ts q2 - damagedOf s f ts q1 = p.damaged + damagedOf s f all q2 - damagedOf s f all p
        by omega]
    _ = q.closing p photos' (ms ++ ts) s f := by
      rw [Page.closing, hq2]
      rfl

/-- The photos ended one after another, each in its place (R58). -/
theorem foldl_endPhoto {rest : List PhotoRecord} : ∀ {done : List PhotoRecord} {ms : List (Nat × Nat)} {t : State},
    ((done ++ rest).map PhotoRecord.index).Pairwise (· < ·) → t.patches = s.patches →
    t.page f = some (q.closing p (done ++ rest) ms s f) →
    rest.foldl (endPhoto f) t = { t with pages := t.pages.set f (some
      (q.closing p (done ++ rest.map PhotoRecord.ended) (ms ++ rest.flatMap PhotoRecord.missing) s f)) } := by
  induction rest with
  | nil =>
    intro done ms t _ _ hp
    rw [List.flatMap_nil, List.append_nil]
    exact (withPages_self hp).symm
  | cons r rest ih =>
    intro done ms t hsorted ht hp
    have hlow : ∀ a ∈ done, a.index < r.index := fun a ha => by
      rw [List.map_append] at hsorted
      obtain ⟨-, -, hbelow⟩ := List.pairwise_append.1 hsorted
      exact hbelow _ (List.mem_map_of_mem ha) _ (by simp)
    have hstep := endPhoto_eq hp (before := done) (after := rest) (r := r) rfl hlow
    rw [closing_partTaken hmono ht _ _ ms (nodup_missing r), List.append_cons] at hstep
    rw [List.foldl_cons, hstep, ih (done := done ++ [r.ended]) (ms := ms ++ r.missing)]
    · simp only [List.set_set, List.map_cons, List.flatMap_cons, List.append_assoc, List.singleton_append]
    · simpa [ended_index] using hsorted
    · exact ht
    · exact page_setPage _ t (page_lt hp)

/-- All photos of a page ended (R58). -/
theorem endPhotos_eq {t : State} (hs : (q.photos.map PhotoRecord.index).Pairwise (· < ·)) (ht : t.patches = s.patches)
    (hp : t.page f = some (q.closing p q.photos [] s f)) : endPhotos f q t = setPage f (some
      (q.closing p (q.photos.map PhotoRecord.ended) (q.photos.flatMap PhotoRecord.missing) s f)) t :=
  foldl_endPhoto hmono (done := []) (ms := []) hs ht hp

end

/-! ### The two ends -/

/-- The strips of a page at its close (R58). -/
def Page.endedStrips (p : Page) : List StripState := p.strips.map fun v => if v = .absent then .bad else v

theorem getD_endedStrips_bad {p : Page} {i : Nat} (h : p.strips.getD i .absent = .bad) :
    p.endedStrips.getD i .absent = .bad := by
  rw [List.getD_eq_getElem?_getD] at h ⊢
  rw [Page.endedStrips, List.getElem?_map]
  cases hi : p.strips[i]? with
  | none => simp [hi] at h
  | some v =>
    obtain rfl : v = .bad := by simpa [hi] using h
    rfl

/-- The page after a close: CLOSED, with strips and a close stamp, its photos ended (R58, R59). -/
def Page.ended (p : Page) (strips : List StripState) (stamp : Option Tick) (s : State) (f : Nat) : Page :=
  { ({ p with strips := strips } : Page).closing p (p.photos.map PhotoRecord.ended)
      (p.photos.flatMap PhotoRecord.missing) s f with
    state := .closed, closeStamp := stamp }

theorem ended_eq (p : Page) (strips : List StripState) (stamp : Option Tick) (s : State) (f : Nat) :
    p.ended strips stamp s f = Page.recounted
      { p.modFlagsOf (fun x => { x with photo := true }) (p.photos.flatMap PhotoRecord.missing) with
        state := .closed, closeStamp := stamp, strips := strips, photos := p.photos.map PhotoRecord.ended }
      p s f (allTiles p.tw p.th) := by
  rw [Page.ended, closing_withStrips]
  rfl

theorem ended_purgePending (p : Page) (strips : List StripState) (stamp : Option Tick) (s : State) (f : Nat) :
    (p.ended strips stamp s f).purgePending = p.purgePending :=
  closing_purgePending { p with strips := strips } p (p.photos.map PhotoRecord.ended) _ s f

theorem ended_congr {s t : State} (h : t.patches = s.patches) (p : Page) (strips : List StripState)
    (stamp : Option Tick) (f : Nat) : p.ended strips stamp t f = p.ended strips stamp s f := by
  rw [Page.ended, closing_congr h, Page.ended]

/-- A CLOSED page keeps its state, its strips and its close stamp (R59). -/
theorem ended_of_closed {p : Page} (hs : p.state = .closed) (s : State) (f : Nat) :
    p.ended p.strips p.closeStamp s f =
      p.closing p (p.photos.map PhotoRecord.ended) (p.photos.flatMap PhotoRecord.missing) s f := by
  rw [Page.ended, Page.closing, modFlagsOf_eq, ← hs]
  rfl

/-- The page of frame `f` changed to `c` and told of. -/
def pageTold (f : Nat) (c : Page) (r : Report) (s : State) : State :=
  submit r (setPage f (some c) s)

theorem setPage_setPage (f : Nat) (a b : Option Page) (s : State) : setPage f a (setPage f b s) = setPage f a s := by
  simp only [setPage, List.set_set]

theorem modPage_setPage {s : State} {f : Nat} (hl : f < s.pages.length) (c : Page) (g : Page → Page) :
    modPage f g (setPage f (some c) s) = setPage f (some (g c)) s := by
  rw [modPage, page_setPage (some c) s hl]
  exact setPage_setPage f _ _ s

theorem submitFor_setPage {s : State} {f : Nat} (hl : f < s.pages.length) (c : Page) (r : Page → Report) :
    submitFor f r (setPage f (some c) s) = pageTold f c (r c) s :=
  submitFor_eq (page_setPage (some c) s hl) r

theorem announceIf_true (s : State) : announceIf true s = announce s := rfl

/-- PAGE CLOSE of an OPEN page: its strips, its photos, the page CLOSED, its report, and the announcement (R58). -/
theorem closePage_eq {s : State} {f : Nat} {p : Page} (hp : s.page f = some p)
    (hs : (p.photos.map PhotoRecord.index).Pairwise (· < ·)) :
    let c := p.ended p.endedStrips (some s.clock) s f
    closePage f p s = announceIf true (pageTold f c (pageClosedReport 0 f c) s) := by
  intro c
  have hl := page_lt hp
  let q : Page := { p with strips := p.endedStrips }
  have hstrips : endStrips f p s = setPage f (some (q.closing p q.photos [] s f)) s := recount_modPage hp rfl _
  have hphotos : endPhotos f q (endStrips f p s) = setPage f (some
      (q.closing p (q.photos.map PhotoRecord.ended) (q.photos.flatMap PhotoRecord.missing) s f)) s := by
    rw [hstrips, endPhotos_eq (s := s) (t := setPage f (some (q.closing p q.photos [] s f)) s)
      (fun _ _ => tileDamaged_strips fun _ => getD_endedStrips_bad) hs rfl (page_setPage _ s hl), setPage_setPage]
  have hclosed : closePage f p s = announce (submitFor f (pageClosedReport 0 f)
      (modPage f (fun x => { x with state := .closed, closeStamp := some s.clock })
        (endPhotos f q (endStrips f p s)))) := rfl
  rw [hclosed, hphotos, modPage_setPage hl, submitFor_setPage hl, announceIf_true]
  rfl

/-- The end of a revision: the photos, the report, and the announcement of photos now COMPLETE (R59). -/
theorem endRevision_eq {s : State} {f : Nat} {p : Page} (hp : s.page f = some p)
    (hs : (p.photos.map PhotoRecord.index).Pairwise (· < ·)) (hc : p.state = .closed) :
    let c := p.ended p.strips p.closeStamp s f
    endRevision f p s = announceIf (p.photos.any fun r => r.state == .receiving)
      (pageTold f c (pageRevisedReport f c) s) := by
  intro c
  have hself : s.page f = some (p.closing p p.photos [] s f) := by rw [closing_self, hp]
  rw [endRevision, endPhotos_eq (fun _ _ => id) hs rfl hself, submitFor_setPage (page_lt hp), ← ended_of_closed hc]

/-- A segment that ends with its page changed and told of, the report being the first (R58, R59). -/
theorem AtWork.pageTold {g : Segment} {s u : State} (h : AtWork s u) (hr : u.reports = s.reports) {f : Nat}
    (hu : u.unpackerPage = some f) (hl : f < u.pages.length) {c : Page} (hc : c.purgePending = none) (r : Report)
    (b : Bool) :
    let t := endSegment g (announceIf b (Machine.pageTold f c r u))
    SegmentEnds g [r] { s with pages := s.pages.set f (some c) } t ∧ t.mem = s.mem := by
  intro t
  have hat := ((h.withPage hu hl hc).tells hr r).announced b
  have hend := hat.ended (g := g)
  have hsteady := (submit_reacts r { s with pages := s.pages.set f (some c) }).steady
  refine ⟨⟨hend.state.trans ?_, hend.reports, fun hn => hend.quiet (hn.congr hsteady)⟩, ?_⟩
  · rw [steady_markDone, steady_markDone, hsteady]
  · exact hat.ended_mem.trans (submit_mem _ _)

/-- PAGE CLOSE with its requests granted (R58, R59). -/
theorem applyPageClose_read {s : State} {g : Segment} {f : Nat} {p : Page} (hp : s.page f = some p)
    (hg : segmentGranted s g 0 = true) :
    applyPageClose g f (grantClaim g f s) =
      let u := payloadDone g (grantClaim g f s)
      if !crcGood s g then refuseSegment .crc g 0 u
      else endSegment g (if p.state = .opened then closePage f p u else endRevision f p u) := by
  have hp' : (grantClaim g f s).page f = some p := hp
  have hc : crcGood (payloadDone g (grantClaim g f s)) g = crcGood s g := crcGood_payloadDone g (grantClaim g f s)
  simp only [applyPageClose, hp']
  rw [whenRead_granted (s := grantClaim g f s) hg]
  simp only [hc, apply_ite (endSegment g)]

/-- Settles O59: a bad CRC by its notice, the close of a page and of a revision by the page they leave. -/
theorem pageCloseEndsPageOrRevision : Obligations.PageCloseEndsPageOrRevision := by
  intro s g f p _ hu hk hp ht hl hn hg missing ended ends
  obtain ⟨-, hf⟩ := present_eq_some.1 hp
  have hat : AtWork s (payloadDone g (grantClaim g f s)) := atWork_read hf hn
  have hexec : exec (.pageClose .whole) s = .next (applyPageClose g f (grantClaim g f s)) :=
    congrArg Host.Outcome.next (handleKind_of_has hu hk hp ht hl applyPageClose)
  rw [applyPageClose_read hf hg] at hexec
  have hup : (payloadDone g (grantClaim g f s)).unpackerPage = some f := rfl
  have huf : (payloadDone g (grantClaim g f s)).page f = some p := hf
  have hur : (payloadDone g (grantClaim g f s)).reports = s.reports := rfl
  have hpatches : (payloadDone g (grantClaim g f s)).patches = s.patches := rfl
  generalize payloadDone g (grantClaim g f s) = u at hat hexec hup huf hur hpatches
  have hmissing : p.photos.flatMap PhotoRecord.missing = missing := by
    refine congrArg (List.flatMap · p.photos) (funext fun r => ?_)
    simp only [PhotoRecord.missing, passedTiles, ite_and]
  have hended (strips : List StripState) (stamp : Option Tick) : p.ended strips stamp u f = ended strips stamp := by
    rw [ended_congr hpatches, ended_eq, hmissing]
    rfl
  have told (strips : List StripState) (stamp : Option Tick) (r : Page → Report) (b : Bool)
      (h : exec (.pageClose .whole) s = .next (endSegment g (announceIf b
        (pageTold f (p.ended strips stamp u f) (r (p.ended strips stamp u f)) u)))) :
      ends (ended strips stamp) (r (ended strips stamp)) := by
    have hnone := (ended_purgePending p strips stamp u f).trans hn
    rw [hended] at h hnone
    obtain ⟨hend, hmem⟩ := hat.pageTold (g := g) hur hup (page_lt huf) hnone (r (ended strips stamp)) b
    exact ⟨_, h, hend, bytesKept_of_mem hmem⟩
  refine ⟨fun hc => ?_, fun hc hsorted => ⟨fun hs => ?_, fun hs => ?_⟩⟩
  · have hrefused : exec (.pageClose .whole) s = .next (refuseSegment .crc g 0 u) := by simpa [hc] using hexec
    exact ⟨_, hrefused, by rw [withPages_self hf]; exact hat.refused hur .crc 0,
      bytesKept_of_mem (hat.refused_mem .crc 0)⟩
  · have hclose : exec (.pageClose .whole) s = .next (endSegment g (closePage f p u)) := by
      simpa [hc, hs] using hexec
    rw [closePage_eq huf hsorted, hat.clock] at hclose
    exact told p.endedStrips (some s.clock) (pageClosedReport 0 f) true hclose
  · have hrevise : exec (.pageClose .whole) s = .next (endSegment g (endRevision f p u)) := by
      simpa [hc, hs] using hexec
    rw [endRevision_eq huf hsorted hs] at hrevise
    exact told p.strips p.closeStamp (pageRevisedReport f) _ hrevise

end Sys2Proof.Machine
end

section
/-! ## Spans: the errors they meet, the hatch, and their pixels -/

namespace Sys2Proof.Machine

/-! ### The words a span reads -/

/-- The first bad one of some words read is met as what it was read as. -/
theorem findIdx?_bind_eq_find? {α β : Type} (P : α → Bool) (l : List (α × β)) :
    ((l.map Prod.fst).findIdx? P).bind (fun k => l[k]?.map Prod.snd) = (l.find? fun r => P r.1).map Prod.snd := by
  induction l with
  | nil => rfl
  | cons r l ih =>
    by_cases h : P r.1 = true
    · simp [List.findIdx?_cons, h]
    · simp [List.findIdx?_cons, h, Option.bind_map, Function.comp_def, ← ih]

/-- A span of which nothing is read meets the first error among its words (R74, R99). -/
theorem spanError_eq (s : State) (f : Nat) (p : Page) (tx y : Nat) (src : SpanSource) :
    spanError s f p tx y src = ((spanReads f p tx y src).find? fun r => s.bad r.1).map Prod.snd := by
  rw [← findIdx?_bind_eq_find?]
  simp [spanError, SpanWork.error, Reading.error, Reading.start, spanAddrs]

/-- Some word that holds a byte of a stretch is bad exactly where a byte of the stretch is in a bad word (R155). -/
theorem bad_wordsOver (s : State) (a n : Nat) :
    (∃ w ∈ wordsOver a n, s.bad w = true) ↔ ∃ i, i < n ∧ s.badWords.contains ((a + i) / 8) = true := by
  unfold wordsOver State.bad wordOf
  by_cases hn : n = 0
  · simp [hn]
  · simp only [hn, if_false, List.mem_map, List.mem_range, exists_exists_and_eq_and]
    constructor
    · rintro ⟨i, hi, hb⟩
      refine ⟨8 * i - a % 8, by omega, ?_⟩
      rwa [show (a + (8 * i - a % 8)) / 8 = 8 * (a / 8 + i) / 8 by omega]
    · rintro ⟨i, hi, hb⟩
      refine ⟨(a % 8 + i) / 8, by omega, ?_⟩
      rwa [show 8 * (a / 8 + (a % 8 + i) / 8) / 8 = (a + i) / 8 by omega]

/-- What is met among words all read as one thing. -/
theorem find?_read_eq_some {s : State} {a n : Nat} {e e' : ReadSource} :
    (((wordsOver a n).map fun w => (w, e)).find? fun r => s.bad r.1).map Prod.snd = some e' ↔
      e' = e ∧ ∃ i, i < n ∧ s.badWords.contains ((a + i) / 8) = true := by
  rw [← bad_wordsOver, List.find?_map, Option.map_map]
  have hcomp : (fun r : Nat × ReadSource => s.bad r.1) ∘ (fun w => (w, e)) = s.bad := rfl
  rw [hcomp, Option.map_eq_some_iff]
  constructor
  · rintro ⟨w, hw, rfl⟩
    exact ⟨rfl, w, List.mem_of_find?_eq_some hw, List.find?_some hw⟩
  · rintro ⟨rfl, hw⟩
    obtain ⟨w, hw⟩ := Option.isSome_iff_exists.1 (List.find?_isSome.2 hw)
    exact ⟨w, hw, rfl⟩

theorem spanError_hatch (s : State) (f : Nat) (p : Page) (tx y : Nat) : spanError s f p tx y .hatch = none := by
  rw [spanError_eq]; rfl

theorem spanError_patch {s : State} {f : Nat} {p : Page} {tx y n : Nat} {e : ReadSource} :
    spanError s f p tx y (.patch n) = some e ↔
      e = .patchSlot n ∧ ∃ i, i < 32 ∧ s.badWords.contains ((slotBase n + y % 256 * 32 + i) / 8) = true := by
  rw [spanError_eq]
  exact find?_read_eq_some

theorem spanError_lineArt {s : State} {f : Nat} {p : Page} {tx y : Nat} {e : ReadSource} :
    spanError s f p tx y (.page none) = some e ↔
      e = .lineArt ∧ ∃ i, i < 32 ∧ s.badWords.contains ((frameBase f + spanOffset p.tw tx y + i) / 8) = true := by
  rw [spanError_eq]
  exact find?_read_eq_some

/-- Samples are read of a row that has come alone (R87). -/
theorem toneBytes_bad {s : State} {f : Nat} {r : PhotoRecord} {tx y : Nat} :
    (∃ i, i < (toneBytes f r tx y).2 ∧ s.badWords.contains (((toneBytes f r tx y).1 + i) / 8) = true) ↔
      ¬ (r.state = .receiving ∧ r.nextRow ≤ r.sampleRow y) ∧
        ∃ i, i < 256 / r.scale ∧
          s.badWords.contains ((r.sampleAddr f (r.sampleCol (tx * 256)) (r.sampleRow y) + i) / 8) = true := by
  have hawaits : r.awaits (r.sampleRow y) = true ↔ r.state = .receiving ∧ r.nextRow ≤ r.sampleRow y := by
    simp [PhotoRecord.awaits]
  rw [← hawaits]
  cases h : r.awaits (r.sampleRow y) <;> simp [toneBytes, h]

/-- Without a photo a span meets no error where its line art has none (R74). -/
theorem spanError_lineArt_eq_none {s : State} {f : Nat} {p : Page} {tx y : Nat} :
    spanError s f p tx y (.page none) = none ↔
      ¬ ∃ i, i < 32 ∧ s.badWords.contains ((frameBase f + spanOffset p.tw tx y + i) / 8) = true := by
  rw [Option.eq_none_iff_forall_not_mem]
  simp only [Option.mem_def, spanError_lineArt, not_and, forall_eq]

/-- Under a photo the line art is read first, and then the samples of a row that has come (R74, R87, R99). -/
theorem spanError_photo {s : State} {f : Nat} {p : Page} {r : PhotoRecord} {tx y : Nat} {e : ReadSource} :
    spanError s f p tx y (.page (some r)) = some e ↔
      spanError s f p tx y (.page none) = some e ∨
      e = .tone ∧ spanError s f p tx y (.page none) = none ∧
        ¬ (r.state = .receiving ∧ r.nextRow ≤ r.sampleRow y) ∧
          ∃ i, i < 256 / r.scale ∧
            s.badWords.contains ((r.sampleAddr f (r.sampleCol (tx * 256)) (r.sampleRow y) + i) / 8) = true := by
  rw [← toneBytes_bad, and_left_comm, ← find?_read_eq_some, spanError_eq, spanError_eq]
  simp only [spanReads, List.find?_append, Option.map_or, Option.or_eq_some_iff]

/-! ### Spans in composition -/

theorem spanAddrs_length (f : Nat) (p : Page) (tx y : Nat) (src : SpanSource) :
    (spanAddrs f p tx y src).length = (spanReads f p tx y src).length := List.length_map _

/-- A span that has met no error meets none where its words still to read have none (R155). -/
theorem spanWork_error_eq_none {s : State} {f : Nat} {p : Page} {tx y : Nat} {w : SpanWork}
    (h : w.read.failed = none) : w.error s f p tx y = none ↔
      ∀ i, w.read.words ≤ i → i < (spanAddrs f p tx y w.source).length →
        s.badWords.contains ((spanAddrs f p tx y w.source).getD i 0 / 8) = false := by
  have hread : ∀ k, ((spanAddrs f p tx y w.source).drop w.read.words).findIdx? s.bad = some k →
      ((spanReads f p tx y w.source)[k + w.read.words]?.map Prod.snd).isSome = true := fun k hk => by
    obtain ⟨hlt, -⟩ := List.findIdx?_eq_some_iff_getElem.1 hk
    rw [List.length_drop, spanAddrs_length] at hlt
    simp only [Option.isSome_map, isSome_getElem?]
    omega
  have hnone : w.error s f p tx y = none ↔
      ((spanAddrs f p tx y w.source).drop w.read.words).findIdx? s.bad = none := by
    simp only [SpanWork.error, Reading.error, h, Option.none_or]
    cases hk : ((spanAddrs f p tx y w.source).drop w.read.words).findIdx? s.bad with
    | none => simp
    | some k => simpa using Option.isSome_iff_ne_none.1 (hread k hk)
  rw [hnone, List.findIdx?_eq_none_iff]
  constructor
  · intro hall i hi hl
    have := hall ((spanAddrs f p tx y w.source).getD i 0) (by
      rw [List.getD_eq_getElem _ _ hl]
      exact List.mem_drop_iff_getElem.2 ⟨i - w.read.words, by omega, by simp [Nat.add_sub_cancel' hi]⟩)
    exact this
  · intro hall a ha
    obtain ⟨i, hi, rfl⟩ := List.mem_drop_iff_getElem.1 ha
    have := hall (w.read.words + i) (by omega) (by omega)
    rwa [List.getD_eq_getElem _ _ (by omega)] at this

/-- A span keeps the error that a word read had when it was read (R155). -/
theorem spanWork_error_of_failed {s : State} {f : Nat} {p : Page} {tx y k : Nat} {w : SpanWork}
    (h : w.read.failed = some k) : w.error s f p tx y = (spanReads f p tx y w.source)[k]?.map Prod.snd := by
  simp [SpanWork.error, Reading.error, h]

/-- A grant changes nothing of the error a span meets (R155). -/
theorem spanWork_error_granted (s : State) (f : Nat) (p : Page) (tx y : Nat) (w : SpanWork) :
    SpanWork.error s f p tx y { w with read := w.read.granted (spanAddrs f p tx y w.source) s } =
      w.error s f p tx y := by
  simp only [SpanWork.error, granted_error]

/-! ### A damaged tile -/

/-- A damaged tile is looked up as the hatch (R78). -/
theorem spanSource_of_damaged {s : State} {f : Nat} {p : Page} {tx ty : Nat}
    (h : tileDamaged s.patches f p tx ty = true) : spanSource s f p tx ty = .hatch := by
  unfold spanSource
  cases he : findPatch s.patches f tx ty with
  | none => simp [h]
  | some e =>
    have hs : e.spoilt = true := by simp [tileDamaged, he] at h; exact h.2
    simp [hs]

/-- A span without an error is composed from its source and asks for no flag (R99). -/
theorem composeSpan_of_none {s : State} {c : Context} {p : Page} {tx y : Nat} {w : SpanWork}
    (h : w.error s c.frame p tx y = none) : composeSpan s c p tx y w = ⟨spanBytes s c p w.source tx y, none⟩ := by
  simp [composeSpan, h]

/-- An error makes a span the hatch, and asks for the flag of its tile (R74, R75). -/
theorem composeSpan_of_some {s : State} {c : Context} {p : Page} {tx y : Nat} {w : SpanWork} {e : ReadSource}
    (h : w.error s c.frame p tx y = some e) :
    composeSpan s c p tx y w = ⟨spanBytes s c p .hatch tx y, some ⟨c.key, c.frame, tx, y / 256, e⟩⟩ := by
  simp [composeSpan, h]

theorem composeSpan_request (s : State) (c : Context) (p : Page) (tx y : Nat) (w : SpanWork) :
    (composeSpan s c p tx y w).request =
      (w.error s c.frame p tx y).map fun e => ⟨c.key, c.frame, tx, y / 256, e⟩ := by
  cases h : w.error s c.frame p tx y with
  | none => rw [composeSpan_of_none h]; rfl
  | some e => rw [composeSpan_of_some h]; rfl

/-- The hatch is composed of no word of memory (R78). -/
theorem composeSpan_hatch (s : State) (c : Context) (p : Page) (tx y : Nat) :
    composeSpan s c p tx y ⟨.hatch, Reading.start⟩ = ⟨spanBytes s c p .hatch tx y, none⟩ :=
  composeSpan_of_none (spanError_hatch s c.frame p tx y)

/-! ### Pixels and bytes -/

/-- Bit `7 - b` of a packed byte is its pixel `b`, the most significant bit leftmost. -/
theorem packByte_getLsbD (g : Nat → Bool) {b : Nat} (hb : b < 8) : (packByte g).getLsbD (7 - b) = g b := by
  have := pixelBit_packByte g b
  rwa [pixelBit, Nat.mod_eq_of_lt hb] at this

theorem spanBytes_getD (s : State) (c : Context) (p : Page) (src : SpanSource) (tx y : Nat) {j : Nat} (hj : j < 32) :
    (spanBytes s c p src tx y).getD j 0 = packByte fun i => composedPixel s c p src (tx * 256 + 8 * j + i) y := by
  simp [spanBytes, List.getD_eq_getElem?_getD, hj]

/-- Each bit of a span is its composed pixel (R98, R99). -/
theorem spanBytes_pixel (s : State) (c : Context) (p : Page) (src : SpanSource) (tx y : Nat) {j b : Nat} (hj : j < 32)
    (hb : b < 8) : ((spanBytes s c p src tx y).getD j 0).getLsbD (7 - b) =
      composedPixel s c p src (tx * 256 + 8 * j + b) y := by
  rw [spanBytes_getD _ _ _ _ _ _ hj, packByte_getLsbD _ hb]

/-- A hatched pixel with the marks over it, inverted in NEGATIVE polarity (R78, R98). -/
theorem composedPixel_hatch (s : State) (c : Context) (p : Page) (x y : Nat) :
    composedPixel s c p .hatch x y =
      if c.polarity = .negative then
        !(hatchPixel x y || markPixel c.marks (slugText c.key c.attempt) x y)
      else hatchPixel x y || markPixel c.marks (slugText c.key c.attempt) x y := by
  unfold composedPixel
  cases c.polarity <;> rfl

/-- The hatch repeats with period 16 in either direction (R78). -/
theorem hatchPixel_mod {x y x' y' : Nat} (hx : x % 16 = x' % 16) (hy : y % 16 = y' % 16) :
    hatchPixel x y = hatchPixel x' y' := by
  unfold hatchPixel
  rw [Nat.add_mod x y, hx, hy, ← Nat.add_mod]

/-- R78's table: the two bytes of the hatch for each residue of the row. -/
theorem hatch_table : ∀ r < 16,
    [packByte fun i => hatchPixel i r, packByte fun i => hatchPixel (8 + i) r] =
      [[0xC0, 0x00], [0x80, 0x01], [0x00, 0x03], [0x00, 0x06], [0x00, 0x0C], [0x00, 0x18], [0x00, 0x30], [0x00, 0x60],
       [0x00, 0xC0], [0x01, 0x80], [0x03, 0x00], [0x06, 0x00], [0x0C, 0x00], [0x18, 0x00], [0x30, 0x00],
       [0x60, 0x00]].getD r [] := by decide

/-- Settles O18: a damaged tile is looked up as the hatch, whose pixels go by their coordinates alone. -/
theorem damagedTileIsHatched : Obligations.DamagedTileIsHatched := by
  intro s c p tx y hd w
  have hw : w = ⟨.hatch, Reading.start⟩ := by
    simp only [w, lookUpSpan, spanSource_of_damaged hd]
  rw [hw]
  simp only [composeSpan_hatch]
  refine ⟨trivial, rfl, fun m bad => ?_, fun j b hj hb => ?_, fun hm hp j hj => ?_⟩
  · simp only [spanBytes, composedPixel_hatch]
  · rw [spanBytes_pixel _ _ _ _ _ _ hj hb, composedPixel_hatch]
    rfl
  · have hpix : ∀ x, composedPixel s c p .hatch x y = hatchPixel x y := fun x => by
      simp [composedPixel_hatch, hm, hp, markPixel]
    have hbyte : ∀ k, packByte (fun i => hatchPixel (tx * 256 + 8 * (2 * j) + 8 * k + i) y) =
        packByte fun i => hatchPixel (8 * k + i) (y % 16) := fun k =>
      congrArg packByte (funext fun i => hatchPixel_mod (by omega) (Nat.mod_mod y 16).symm)
    rw [← hatch_table (y % 16) (Nat.mod_lt _ (by decide)), spanBytes_getD _ _ _ _ _ _ (by omega),
      spanBytes_getD _ _ _ _ _ _ (by omega)]
    simpa only [hpix, Nat.mul_add, Nat.add_assoc, Nat.mul_zero, Nat.zero_add, Nat.mul_one] using
      congrArg₂ (fun a b => [a, b]) (hbyte 0) (hbyte 1)

end Sys2Proof.Machine
end

section
/-! ## Flags raised by composers, and the proof read -/

namespace Sys2Proof.Machine

/-! ### A flag raised -/

/-- The patch table with the entry of a tile SPOILT, if it names a slot (R73). -/
def spoilPatch (f tx ty n : Nat) (ps : List PatchEntry) : List PatchEntry :=
  ps.map fun e => if e.frame = f ∧ e.tx = tx ∧ e.ty = ty ∧ e.slot = n then { e with spoilt := true } else e

/-- A tile's STORE flag set and the tile recounted (R72, R77). -/
theorem raiseStore_eq {s : State} {f : Nat} {p : Page} (h : s.page f = some p) (tx ty : Nat) : raiseStore f tx ty s =
    { s with pages := s.pages.set f (some
        ((p.modFlags (fun x => { x with store := true }) (tx, ty)).recounted p s f [(tx, ty)])) } :=
  recount_modPage h rfl _

theorem damagedAmong_tile {s : State} {f : Nat} {p : Page} (h : s.page f = some p) (tx ty : Nat) :
    damagedAmong s f [(tx, ty)] = if tileDamaged s.patches f p tx ty then 1 else 0 := by
  simp [damagedAmong, h, List.countP_cons]

/-- A tile's entry SPOILT and the tile recounted (R73, R77). -/
theorem raiseSpoilt_eq {s : State} {f : Nat} {p : Page} (h : s.page f = some p) (tx ty n : Nat) :
    raiseSpoilt f tx ty n s =
      { s with
        patches := spoilPatch f tx ty n s.patches
        pages := s.pages.set f (some { p with
          damaged := p.damaged + (if tileDamaged (spoilPatch f tx ty n s.patches) f p tx ty then 1 else 0) -
            if tileDamaged s.patches f p tx ty then 1 else 0 }) } := by
  let t : State := { s with patches := spoilPatch f tx ty n s.patches }
  have ht : t.page f = some p := h
  change recount f [(tx, ty)] s t = _
  rw [recount, modPage_eq ht, damagedAmong_tile h, damagedAmong_tile ht]

section
variable {s : State} {r : FlagRequest} {p : Page} (h : s.page r.frame = some p) (hk : p.key = r.key)
include h hk

/-- A flag request for line art or tone, of the page its frame still holds (R74). -/
theorem raiseFlag_store (he : r.source = .lineArt ∨ r.source = .tone) :
    raiseFlag r s = raiseStore r.frame r.tx r.ty s := by
  rcases he with he | he <;> simp [raiseFlag, h, hk, he]

/-- A flag request for a patch slot, of the page its frame still holds (R74). -/
theorem raiseFlag_spoilt {n : Nat} (he : r.source = .patchSlot n) :
    raiseFlag r s = raiseSpoilt r.frame r.tx r.ty n s := by
  simp [raiseFlag, h, hk, he]

end

/-! ### A beat of the proof -/

/-- A beat holds its bytes from the least significant on (notes/assumptions/14.md). -/
theorem beatOf_getLsbD : ∀ (bs : List Byte) {j i : Nat}, j < 8 → i < 8 →
    (beatOf bs).getLsbD (8 * j + i) = (bs.getD j 0).getLsbD i
  | [], _, _, _, _ => by simp [beatOf]
  | b :: bs, 0, i, _, hi => by
    simp [beatOf, hi, show i < 64 by omega]
  | b :: bs, j + 1, i, hj, hi => by
    have ih := beatOf_getLsbD bs (j := j) (i := i) (by omega) hi
    have hhigh : b.getLsbD (8 * (j + 1) + i) = false := BitVec.getLsbD_of_ge _ _ (by omega)
    have hstep : beatOf (b :: bs) = (beatOf bs <<< 8) ||| b.setWidth 64 := rfl
    rw [List.getD_cons_succ, ← ih, hstep, BitVec.getLsbD_or, BitVec.getLsbD_shiftLeft, BitVec.getLsbD_setWidth, hhigh,
      show 8 * (j + 1) + i - 8 = 8 * j + i by omega]
    simp [show 8 * (j + 1) + i < 64 by omega, show ¬ 8 * (j + 1) + i < 8 by omega]

/-- The beat at a place of a span: the 8 bytes from there on (R111). -/
def spanBeat (o : Nat) (bytes : List Byte) : Beat := beatOf ((bytes.drop (o % 32)).take 8)

/-- Each bit of a beat of the proof is its composed pixel (R111). -/
theorem spanBeat_pixel (s : State) (c : Context) (p : Page) (src : SpanSource) (tx y : Nat) {o j b : Nat}
    (ho : o % 8 = 0) (hj : j < 8) (hb : b < 8) : (spanBeat o (spanBytes s c p src tx y)).getLsbD (8 * j + 7 - b) =
      composedPixel s c p src (tx * 256 + 8 * (o % 32) + 8 * j + b) y := by
  have hbyte : (((spanBytes s c p src tx y).drop (o % 32)).take 8).getD j 0 =
      (spanBytes s c p src tx y).getD (o % 32 + j) 0 := by
    simp only [List.getD_eq_getElem?_getD, List.getElem?_take, hj, if_true, List.getElem?_drop]
  rw [spanBeat, show 8 * j + 7 - b = 8 * j + (7 - b) by omega, beatOf_getLsbD _ hj (by omega), hbyte,
    spanBytes_pixel _ _ _ _ _ _ (by omega) hb]
  exact congrArg (composedPixel s c p src · y) (by omega)

/-! ### The read -/

/-- A proof read in ACTIVE, at the beat it lies in (R111, R149). -/
theorem exec_proofRead {s : State} (off : BitVec 26) (hh : s.held = none) (he : s.engine = .active) :
    exec (.proofRead off) s = .next (proofRead (8 * (off.toNat / 8)) s) := by
  have hoff := off.isLt
  have haddr : beatAddr (proofBase + off.toNat) = proofBase + 8 * (off.toNat / 8) := by
    simp only [beatAddr, proofBase]
    omega
  have hregion : regionOf (proofBase + 8 * (off.toNat / 8)) = .proofWindow :=
    regionOf_proofWindow (by simp only [proofBase]; omega) (by simp only [proofBase]; omega)
  have hread : hostRead (proofBase + 8 * (off.toNat / 8)) s = proofRead (8 * (off.toNat / 8)) s := by
    simp [hostRead, hh, readClass, hregion, he]
  change Host.Outcome.next (hostRead (beatAddr (proofBase + off.toNat)) s) = _
  rw [haddr, hread]

/-- A proof read with no page bound is zeros (R111). -/
theorem proofRead_unbound {s : State} (o : Nat) (h : s.proof = none) :
    proofRead o s = respond (.data 0) (portTaken s) := by
  simp [proofRead, h]

section
variable {s : State} {k : Key} {f : Nat} {p : Page} {pr : Profile} {o : Nat} (hb : s.proof = some (k, f))
  (hp : s.page f = some p) (hpr : s.profile = some pr)
include hb hp hpr

/-- A proof read beyond the bound page's tiles is zeros (R111). -/
theorem proofRead_beyond (h : p.tw * p.th * tileBytes ≤ o) : proofRead o s = respond (.data 0) (portTaken s) := by
  simp [proofRead, hb, hp, hpr, Nat.not_lt.2 h]

/-- A proof read of the bound page composes the span of its place (R111). -/
theorem proofRead_within (h : o < p.tw * p.th * tileBytes) : proofRead o s =
    answerProof o (composeSpan s (proofContext k f p pr) p (o / tileBytes % p.tw) (proofRow p.tw o)
      (lookUpSpan s f p (o / tileBytes % p.tw) (proofRow p.tw o))) (proofGrant f p o s) := by
  simp [proofRead, hb, hp, hpr, h]

end

/-- The grants for a beat move nothing but the port (R156). -/
theorem proofGrant_cases (f : Nat) (p : Page) (o : Nat) (s : State) :
    (proofGrant f p o s).pages = s.pages ∧ (proofGrant f p o s).patches = s.patches ∧
      (proofGrant f p o s).responses = s.responses := by
  unfold proofGrant
  split <;> simp

/-- A beat whose span met an error in line art or tone (R72, R75). -/
theorem answerProof_store {t : State} {p : Page} {r : FlagRequest} (hp : t.page r.frame = some p) (hk : p.key = r.key)
    (he : r.source = .lineArt ∨ r.source = .tone) (o : Nat) (bytes : List Byte) :
    answerProof o ⟨bytes, some r⟩ t =
      { t with
        responses := t.responses ++ [.data (spanBeat o bytes)]
        pages := t.pages.set r.frame (some ((p.modFlags (fun x => { x with store := true }) (r.tx, r.ty)).recounted p t
          r.frame [(r.tx, r.ty)])) } := by
  simp only [answerProof, raiseFlag?, raiseFlag_store hp hk he, raiseStore_eq hp]
  rfl

/-- A beat whose span met an error in a patch slot (R73, R75). -/
theorem answerProof_spoilt {t : State} {p : Page} {r : FlagRequest} {n : Nat} (hp : t.page r.frame = some p)
    (hk : p.key = r.key) (he : r.source = .patchSlot n) (o : Nat) (bytes : List Byte) :
    answerProof o ⟨bytes, some r⟩ t =
      respond (.data (spanBeat o bytes)) (raiseSpoilt r.frame r.tx r.ty n t) := by
  simp only [answerProof, raiseFlag?, raiseFlag_spoilt hp hk he]
  rfl

/-- Settles O15: zeros without a page or beyond its tiles, and otherwise the beat of the span composed, with the flag
that an error of its reads raises. -/
theorem proofReadShowsComposedPixels : Obligations.ProofReadShowsComposedPixels := by
  intro s off hh he
  rw [exec_proofRead off hh he]
  refine ⟨fun hb => by rw [proofRead_unbound _ hb]; rfl, fun k f p pr hb hp hpr => ?_⟩
  intro o
  refine ⟨fun h => by rw [proofRead_beyond hb hp hpr h]; rfl, fun h => ?_⟩
  intro tx y c src granted shows
  have hread : proofRead o s = answerProof o (composeSpan s c p tx y ⟨src, Reading.start⟩) granted :=
    proofRead_within hb hp hpr h
  have ho : o % 8 = 0 := by simp only [o]; omega
  have hshows : ∀ src', shows (spanBeat o (spanBytes s c p src' tx y)) src' := fun src' j b hj hbit =>
    spanBeat_pixel s c p src' tx y ho hj hbit
  obtain ⟨hpages, hpatches, hresponses⟩ : granted.pages = s.pages ∧ granted.patches = s.patches ∧
      granted.responses = s.responses := proofGrant_cases f p o s
  have hpage : granted.page f = some p := by rw [State.page, hpages]; exact hp
  have herror : SpanWork.error s c.frame p tx y ⟨src, Reading.start⟩ = spanError s f p tx y src := rfl
  refine ⟨fun hnone => ⟨_, congrArg Host.Outcome.next (hread.trans ?_), hshows src⟩, fun e herr hk =>
    ⟨_, hshows .hatch, fun hsrc => congrArg Host.Outcome.next (hread.trans ?_),
      fun n hn => congrArg Host.Outcome.next (hread.trans ?_)⟩⟩
  · rw [composeSpan_of_none (herror.trans hnone), ← hresponses]
    rfl
  · rw [composeSpan_of_some (herror.trans herr), answerProof_store (t := granted) (p := p) hpage hk hsrc, hpages,
      hresponses]
    simp only [Page.recounted, damagedOf, hpatches]
    rfl
  · rw [composeSpan_of_some (herror.trans herr), answerProof_spoilt (t := granted) (p := p) hpage hk hn,
      raiseSpoilt_eq hpage]
    simp only [respond, hpages, hpatches, hresponses]
    rfl

end Sys2Proof.Machine
end

section
/-! ## A row's memory errors -/

namespace Sys2Proof.Machine

/-! ### Flags and entries, tile by tile -/

/-- Changing one tile's flags changes those of no other (R72). -/
theorem modFlags_flags_other {p : Page} (g : TileFlags → TileFlags) {t : Nat × Nat} {x y : Nat}
    (h : p.holds x y = true) (hn : (x, y) ≠ t) : (p.modFlags g t).flags x y = p.flags x y :=
  modFlagsOf_flags_other p g (ts := [t]) h (by simpa using hn)

theorem modFlags_flags_same {p : Page} (g : TileFlags → TileFlags) {x y : Nat} (h : p.holds x y = true)
    (hl : y * p.tw + x < p.tiles.length) : (p.modFlags g (x, y)).flags x y = g (p.flags x y) := by
  simp [Page.flags, Page.modFlags, h, List.getD_eq_getElem?_getD, hl]

theorem modFlags_tiles_length (p : Page) (g : TileFlags → TileFlags) (t : Nat × Nat) :
    (p.modFlags g t).tiles.length = p.tiles.length := by
  rw [modFlags_tiles]
  split <;> simp

/-- Spoiling an entry leaves those of other tiles as they are (R73). -/
theorem findPatch_spoilPatch_other {f tx ty f' x y : Nat} (h : ¬ (f' = f ∧ x = tx ∧ y = ty)) (n : Nat)
    (ps : List PatchEntry) : findPatch (spoilPatch f tx ty n ps) f' x y = findPatch ps f' x y := by
  induction ps with
  | nil => rfl
  | cons e ps ih =>
    simp only [findPatch, spoilPatch, List.map_cons, List.find?_cons] at ih ⊢
    by_cases he : e.frame = f ∧ e.tx = tx ∧ e.ty = ty ∧ e.slot = n
    · obtain ⟨rfl, rfl, rfl, rfl⟩ := he
      have hne : (e.frame == f' && e.tx == x && e.ty == y) = false := by
        rw [← Bool.not_eq_true]
        simp only [Bool.and_eq_true, beq_iff_eq]
        exact fun ⟨⟨a, b⟩, c⟩ => h ⟨a.symm, b.symm, c.symm⟩
      simp only [and_self, if_true, hne]
      exact ih
    · rw [if_neg he, ih]

/-- The entry of a tile that names the slot becomes SPOILT (R73). -/
theorem findPatch_spoilPatch_same {f tx ty n : Nat} {b : Bool} {ps : List PatchEntry}
    (h : findPatch ps f tx ty = some ⟨f, tx, ty, n, b⟩) :
    findPatch (spoilPatch f tx ty n ps) f tx ty = some ⟨f, tx, ty, n, true⟩ := by
  induction ps with
  | nil => cases h
  | cons e ps ih =>
    simp only [findPatch, spoilPatch, List.map_cons, List.find?_cons] at h ih ⊢
    cases he : (e.frame == f && e.tx == tx && e.ty == ty) with
    | true =>
      rw [he] at h
      obtain rfl := Option.some.inj h
      simp
    | false =>
      rw [he] at h
      have hne : ¬ (e.frame = f ∧ e.tx = tx ∧ e.ty = ty ∧ e.slot = n) := fun ⟨a, b, c, _⟩ => by
        simp [a, b, c] at he
      rw [if_neg hne, he]
      exact ih h

/-! ### What a lookup and its error go by -/

/-- The words a span reads go by the page's width alone (R99). -/
theorem spanReads_congr {p q : Page} (h : q.tw = p.tw) (f tx y : Nat) (src : SpanSource) :
    spanReads f q tx y src = spanReads f p tx y src := by
  cases src with
  | patch n => rfl
  | hatch => rfl
  | page photo => cases photo <;> simp only [spanReads, h]

theorem spanWork_error_congr {s u : State} {p q : Page} (hb : u.badWords = s.badWords) (hw : q.tw = p.tw)
    (f tx y : Nat) (w : SpanWork) : w.error u f q tx y = w.error s f p tx y := by
  have hbad : u.bad = s.bad := funext fun a => by simp only [State.bad, hb]
  simp only [SpanWork.error, Reading.error, spanAddrs, spanReads_congr hw, hbad]

/-- A tile's lookup goes by its own entry and flags, and by what flag requests leave of a page (R76, R99). -/
theorem spanSource_congr {s u : State} {f tx ty : Nat} {p q : Page}
    (hq : q = { p with tiles := q.tiles, damaged := q.damaged }) (hflags : q.flags tx ty = p.flags tx ty)
    (hpatch : findPatch u.patches f tx ty = findPatch s.patches f tx ty) :
    spanSource u f q tx ty = spanSource s f p tx ty := by
  have hholds : q.holds tx ty = p.holds tx ty := by rw [hq]; rfl
  have hstrips : q.stripCondition ty = p.stripCondition ty := by rw [hq]; rfl
  have hphoto : q.photoAt tx ty = p.photoAt tx ty := by rw [hq]; rfl
  have hdamaged : tileDamaged u.patches f q tx ty = tileDamaged s.patches f p tx ty := by
    simp only [tileDamaged, hholds, hstrips, hflags, hpatch]
  simp only [spanSource, hpatch, hdamaged, hphoto]

/-! ### The flags of a row -/

/-- Page `q` is page `p` with the STORE flags raised that the first `n` tiles of tile row `ty` call for, `err` being
what each tile's span meets (R72). -/
structure StoreRaised (p : Page) (ty : Nat) (err : Nat → Option ReadSource) (n : Nat) (q : Page) : Prop where
  same : q = { p with tiles := q.tiles, damaged := q.damaged }
  length : q.tiles.length = p.tiles.length
  ahead : ∀ tx, n ≤ tx → tx < p.tw → q.flags tx ty = p.flags tx ty
  stored : ∀ tx, tx < n → err tx = some .lineArt ∨ err tx = some .tone → ty * p.tw + tx < p.tiles.length →
    (q.flags tx ty).store = true

/-- `ps'` is the patch table `ps` with the entries SPOILT that the first `n` tiles of a tile row call for (R73). -/
structure SpoiltRaised (ps : List PatchEntry) (f ty : Nat) (err : Nat → Option ReadSource) (n : Nat)
    (ps' : List PatchEntry) : Prop where
  ahead : ∀ tx, n ≤ tx → findPatch ps' f tx ty = findPatch ps f tx ty
  spoilt : ∀ tx k b, tx < n → err tx = some (.patchSlot k) → findPatch ps f tx ty = some ⟨f, tx, ty, k, b⟩ →
    findPatch ps' f tx ty = some ⟨f, tx, ty, k, true⟩

theorem StoreRaised.start (p : Page) (ty : Nat) (err : Nat → Option ReadSource) : StoreRaised p ty err 0 p :=
  ⟨rfl, rfl, fun _ _ _ => rfl, fun _ h => absurd h (Nat.not_lt_zero _)⟩

theorem SpoiltRaised.start (ps : List PatchEntry) (f ty : Nat) (err : Nat → Option ReadSource) :
    SpoiltRaised ps f ty err 0 ps :=
  ⟨fun _ _ => rfl, fun _ _ _ h => absurd h (Nat.not_lt_zero _)⟩

section
variable {p q : Page} {ty n : Nat} {err : Nat → Option ReadSource}

/-- A tile whose span met no error in line art or tone leaves the STORE flags as they are. -/
theorem StoreRaised.skip (h : StoreRaised p ty err n q) (he : ¬ (err n = some .lineArt ∨ err n = some .tone))
    (d : Nat) : StoreRaised p ty err (n + 1) { q with damaged := d } where
  same := by rw [h.same]
  length := h.length
  ahead tx hn := h.ahead tx (by omega)
  stored tx hn hx hl := by
    have hne : tx ≠ n := fun hxn => he (hxn ▸ hx)
    exact h.stored tx (by omega) hx hl

/-- A tile whose span met one has its STORE flag raised (R72). -/
theorem StoreRaised.store (h : StoreRaised p ty err n q) (hw : n < p.tw) (hh : ty < p.th) (d : Nat) :
    StoreRaised p ty err (n + 1) { q.modFlags (fun x => { x with store := true }) (n, ty) with damaged := d } := by
  have htw : q.tw = p.tw := by rw [h.same]
  have hth : q.th = p.th := by rw [h.same]
  have hholds : ∀ x, x < p.tw → q.holds x ty = true := fun x hx => by simp [Page.holds, htw, hth, hx, hh]
  have hother : ∀ x, x < p.tw → x ≠ n →
      (q.modFlags (fun x => { x with store := true }) (n, ty)).flags x ty = q.flags x ty := fun x hx hxn =>
    modFlags_flags_other _ (hholds x hx) (by simpa using hxn)
  refine ⟨by rw [h.same]; rfl, (modFlags_tiles_length _ _ _).trans h.length, fun tx hn hx => ?_, fun tx hn hx hl => ?_⟩
  · exact (hother tx hx (by omega)).trans (h.ahead tx (by omega) hx)
  · by_cases htx : tx = n
    · subst htx
      have := modFlags_flags_same (p := q) (fun x => { x with store := true }) (hholds tx hw) (by
        rw [h.length, htw]; exact hl)
      exact congrArg TileFlags.store this
    · refine (congrArg TileFlags.store (hother tx (by omega) htx)).trans (h.stored tx (by omega) hx hl)

variable {f : Nat} {ps ps' : List PatchEntry}

/-- A tile whose span met no error in a patch slot leaves the entries as they are. -/
theorem SpoiltRaised.skip (h : SpoiltRaised ps f ty err n ps') (he : ∀ k, err n ≠ some (.patchSlot k)) :
    SpoiltRaised ps f ty err (n + 1) ps' where
  ahead tx hn := h.ahead tx (by omega)
  spoilt tx k b hn hx hfind := by
    have hne : tx ≠ n := fun hxn => he k (hxn ▸ hx)
    exact h.spoilt tx k b (by omega) hx hfind

/-- A tile whose span met one has its entry SPOILT (R73). -/
theorem SpoiltRaised.spoil (h : SpoiltRaised ps f ty err n ps') {k : Nat} (he : err n = some (.patchSlot k)) :
    SpoiltRaised ps f ty err (n + 1) (spoilPatch f n ty k ps') where
  ahead tx hn := (findPatch_spoilPatch_other (by omega) k ps').trans (h.ahead tx (by omega))
  spoilt tx m b hn hx hfind := by
    by_cases htx : tx = n
    · subst htx
      obtain rfl : k = m := by simpa using he.symm.trans hx
      exact findPatch_spoilPatch_same ((h.ahead tx le_rfl).trans hfind)
    · exact (findPatch_spoilPatch_other (by omega) k ps').trans (h.spoilt tx m b (by omega) hx hfind)

end

/-! ### A row composed -/

/-- The error that the span of a tile column of a row meets (R99). -/
def rowError (s : State) (c : Context) (p : Page) (y : Nat) (row : List SpanWork) (tx : Nat) : Option ReadSource :=
  (row.getD tx (lookUpSpan s c.frame p tx y)).error s c.frame p tx y

/-- A row composed as far as tile column `n`: its flag requests are made, and apart from the pages and the patch table
nothing the lanes go by has changed (R109). -/
structure RowRaised (s : State) (c : Context) (p : Page) (y : Nat) (row : List SpanWork) (n : Nat) (r : RowResult) :
    Prop where
  lanes : r.state.lanes = s.lanes
  reports : r.state.reports = s.reports
  clock : r.state.clock = s.clock
  badWords : r.state.badWords = s.badWords
  page : ∃ q, r.state.page c.frame = some q ∧ StoreRaised p (y / 256) (rowError s c p y row) n q
  patches : SpoiltRaised s.patches c.frame (y / 256) (rowError s c p y row) n r.state.patches
  error : r.error = true ↔ ∃ tx, tx < n ∧ (rowError s c p y row tx).isSome = true

theorem exists_lt_succ_iff {P : Nat → Prop} {n : Nat} : (∃ i, i < n + 1 ∧ P i) ↔ (∃ i, i < n ∧ P i) ∨ P n := by
  simp only [Nat.lt_succ_iff_lt_or_eq, or_and_right, exists_or, exists_eq_left]

section
variable {s : State} {c : Context} {p : Page} {y n : Nat} {row : List SpanWork} {r : RowResult}

/-- The next span of a row composes as it would from the row's beginning: the flag requests of other tiles change
nothing of it (R99). -/
theorem RowRaised.request (h : RowRaised s c p y row n r) {q : Page}
    (hq : StoreRaised p (y / 256) (rowError s c p y row) n q) (hn : n < p.tw) :
    (composeSpan r.state c q n y (row.getD n (lookUpSpan r.state c.frame q n y))).request =
      (rowError s c p y row n).map fun e => ⟨c.key, c.frame, n, y / 256, e⟩ := by
  have hlook : lookUpSpan r.state c.frame q n y = lookUpSpan s c.frame p n y := by
    simp only [lookUpSpan, spanSource_congr hq.same (hq.ahead n le_rfl hn) (h.patches.ahead n le_rfl)]
  have hw : q.tw = p.tw := by rw [hq.same]
  rw [composeSpan_request, hlook, spanWork_error_congr h.badWords hw, rowError]

/-- One more span of a row (R109). -/
theorem RowRaised.step (h : RowRaised s c p y row n r) (hk : p.key = c.key) (hn : n < p.tw) (hy : y / 256 < p.th) :
    RowRaised s c p y row (n + 1) (addSpan c y row r n) := by
  obtain ⟨q, hpage, hq⟩ := h.page
  have hreq := h.request hq hn
  have hqk : q.key = c.key := by rw [hq.same]; exact hk
  have hadd : addSpan c y row r n =
      let w := composeSpan r.state c q n y (row.getD n (lookUpSpan r.state c.frame q n y))
      ⟨raiseFlag? w.request r.state, r.bytes ++ w.bytes, r.error || w.request.isSome⟩ := by
    simp only [addSpan, hpage]
  rw [hadd]
  simp only [hreq, Option.isSome_map]
  have herror : ∀ b, b = (rowError s c p y row n).isSome → ((r.error || b) = true ↔
      ∃ tx, tx < n + 1 ∧ (rowError s c p y row tx).isSome = true) := fun b hb => by
    rw [exists_lt_succ_iff, ← h.error, hb, Bool.or_eq_true]
  cases he : rowError s c p y row n with
  | none =>
    exact ⟨h.lanes, h.reports, h.clock, h.badWords, ⟨q, hpage, hq.skip (by simp [he]) q.damaged⟩,
      h.patches.skip (by simp [he]), herror _ (by rw [he])⟩
  | some e =>
    have store (bytes : List Byte) (hs : e = .lineArt ∨ e = .tone) : RowRaised s c p y row (n + 1)
        ⟨raiseFlag ⟨c.key, c.frame, n, y / 256, e⟩ r.state, bytes, r.error || (some e).isSome⟩ := by
      rw [raiseFlag_store (p := q) hpage hqk hs, raiseStore_eq hpage]
      exact ⟨h.lanes, h.reports, h.clock, h.badWords,
        ⟨_, page_setPage _ r.state (page_lt hpage), hq.store hn hy _⟩,
        h.patches.skip (by rcases hs with rfl | rfl <;> simp [he]), herror _ (by rw [he])⟩
    cases e with
    | lineArt => exact store _ (.inl rfl)
    | tone => exact store _ (.inr rfl)
    | patchSlot k =>
      simp only [Option.map_some, raiseFlag?]
      rw [raiseFlag_spoilt (p := q) hpage hqk rfl, raiseSpoilt_eq hpage]
      exact ⟨h.lanes, h.reports, h.clock, h.badWords,
        ⟨_, page_setPage _ r.state (page_lt hpage), hq.skip (by simp [he]) _⟩,
        h.patches.spoil he, herror _ (by rw [he])⟩

end

/-- A row composed raises the flags of all its errors, and says whether it met one (R109). -/
theorem composeRow_raised {s : State} {c : Context} {p : Page} {y : Nat} (row : List SpanWork)
    (hp : s.page c.frame = some p) (hk : p.key = c.key) (hw : c.tw = p.tw) (hy : y / 256 < p.th) :
    RowRaised s c p y row c.tw (composeRow c y row s) := by
  have key : ∀ n, n ≤ p.tw → RowRaised s c p y row n ((List.range n).foldl (addSpan c y row) ⟨s, [], false⟩) := by
    intro n
    induction n with
    | zero =>
      exact fun _ => ⟨rfl, rfl, rfl, rfl, ⟨p, hp, StoreRaised.start p _ _⟩, SpoiltRaised.start _ _ _ _, by simp⟩
    | succ n ih =>
      intro hn
      rw [List.range_succ, List.foldl_append]
      exact (ih (by omega)).step hk (by omega) hy
  exact key c.tw (by omega)

end Sys2Proof.Machine
end

section
/-! ## Choices and the plates of a queue, and a back plate given back -/

namespace Sys2Proof.Machine

/-! ### What choices do to the plates of a queue -/

/-- What choices of a lane in mode `m` may make of plate `x` of its queue: a QUEUED plate takes a held reason, or begins
LOADING where the lane is in RUN, and any other plate stays (R119). -/
structure Chosen (m : LaneMode) (x y : Plate) : Prop where
  tag : y.tag = x.tag
  attempt : y.attempt = x.attempt
  spoil : y.spoil = x.spoil
  other : x.state ≠ .queued → y = x
  queued : x.state = .queued → y.state = .queued ∨ m = .run ∧ y.state = .loading

theorem Chosen.refl (m : LaneMode) (x : Plate) : Chosen m x x := ⟨rfl, rfl, rfl, fun _ => rfl, .inl⟩

theorem Chosen.trans {m : LaneMode} {x y z : Plate} (h : Chosen m x y) (k : Chosen m y z) : Chosen m x z where
  tag := k.tag.trans h.tag
  attempt := k.attempt.trans h.attempt
  spoil := k.spoil.trans h.spoil
  other hx := by
    obtain rfl := h.other hx
    exact k.other hx
  queued hx := by
    rcases h.queued hx with hy | ⟨hm, hy⟩
    · exact k.queued hy
    · obtain rfl := k.other (by simp [hy])
      exact .inr ⟨hm, hy⟩

/-- A queue as choices leave it, plate by plate. -/
abbrev QueueChosen (m : LaneMode) (q q' : List Plate) : Prop := List.Forall₂ (Chosen m) q q'

theorem QueueChosen.refl (m : LaneMode) (q : List Plate) : QueueChosen m q q :=
  List.forall₂_same.2 fun x _ => Chosen.refl m x

theorem QueueChosen.trans {m : LaneMode} {q q' q'' : List Plate} (h : QueueChosen m q q') (k : QueueChosen m q' q'') :
    QueueChosen m q q'' := by
  induction h generalizing q'' with
  | nil => exact k
  | cons hx _ ih =>
    cases k with
    | cons hy ht => exact .cons (hx.trans hy) (ih ht)

theorem queueChosen_map {m : LaneMode} {q : List Plate} {g : Plate → Plate} (h : ∀ x ∈ q, Chosen m x (g x)) :
    QueueChosen m q (q.map g) :=
  List.forall₂_map_right_iff.2 (List.forall₂_same.2 h)

theorem QueueChosen.tags {m : LaneMode} {q q' : List Plate} (h : QueueChosen m q q') :
    q'.map Plate.tag = q.map Plate.tag := by
  induction h with
  | nil => rfl
  | cons hx _ ih => rw [List.map_cons, List.map_cons, hx.tag, ih]

/-- Choices leave the plate on the drum (R115, R119). -/
theorem QueueChosen.front {m : LaneMode} {q q' : List Plate} (h : QueueChosen m q q') :
    q'.find? (fun x => x.state.onDrum) = q.find? fun x => x.state.onDrum := by
  induction h with
  | nil => rfl
  | @cons x y _ _ hx _ ih =>
    rw [List.find?_cons, List.find?_cons, ih]
    by_cases hs : x.state = .queued
    · have hy : y.state.onDrum = false := by
        rcases hx.queued hs with hy | ⟨-, hy⟩ <;> rw [hy] <;> rfl
      rw [hy, hs]
      rfl
    · rw [hx.other hs]

/-- A change of the plates of one tag, all QUEUED. -/
theorem modPlate_chosen {m : LaneMode} {l : LaneId} {tag : Tag} {g : Plate → Plate} {s : State}
    (hq : ∀ x ∈ (s.lane l).queue, x.tag = tag → x.state = .queued)
    (hg : ∀ x : Plate, x.state = .queued → Chosen m x (g x)) :
    QueueChosen m (s.lane l).queue ((modPlate l tag g s).lane l).queue := by
  rw [modPlate, lane_modLane]
  refine queueChosen_map fun x hx => ?_
  by_cases ht : x.tag = tag
  · rw [if_pos ht]
    exact hg x (hq x hx ht)
  · rw [if_neg ht]
    exact Chosen.refl m x

theorem setHeld_chosen {l : LaneId} {tag : Tag} {s : State}
    (hq : ∀ x ∈ (s.lane l).queue, x.tag = tag → x.state = .queued) (m : LaneMode) (r : Option HeldReason) :
    QueueChosen m (s.lane l).queue ((setHeld l tag r s).lane l).queue := by
  unfold setHeld
  split
  · exact modPlate_chosen hq fun x hx => ⟨rfl, rfl, rfl, fun hn => absurd hx hn, .inl⟩
  · exact QueueChosen.refl _ _

theorem choiceEmpty_queue (l : LaneId) (s : State) : ((choiceEmpty l s).lane l).queue = (s.lane l).queue := by
  unfold choiceEmpty
  split
  · rw [lane_modLane]
  · split
    · rfl
    · split
      · rfl
      · rw [lane_modLane, lane_of_lanes (submit_lanes _ _)]

theorem beginLoading_chosen {l : LaneId} {pl : Plate} {s : State}
    (hq : ∀ x ∈ (s.lane l).queue, x.tag = pl.tag → x.state = .queued) (f : Nat) :
    QueueChosen .run (s.lane l).queue ((beginLoading l pl f s).lane l).queue := by
  unfold beginLoading
  split
  · rw [lane_modLane, ← lane_of_lanes (takeLock_lanes f s) l]
    refine modPlate_chosen (s := takeLock f s) ?_ fun x hx =>
      ⟨rfl, rfl, rfl, fun hn => absurd hx hn, fun _ => .inr ⟨rfl, rfl⟩⟩
    rwa [lane_of_lanes (takeLock_lanes f s) l]
  · exact QueueChosen.refl _ _

/-- The load requests of a choice, plate by plate (R119). -/
theorem chooseFrom_chosen (l : LaneId) : ∀ (ps : List Plate) (s : State),
    (∀ p ∈ ps, ∀ x ∈ (s.lane l).queue, x.tag = p.tag → x.state = .queued) →
    QueueChosen .run (s.lane l).queue ((chooseFrom l ps s).lane l).queue
  | [], s, _ => by
    rw [chooseFrom, choiceEmpty_queue]
    exact QueueChosen.refl _ _
  | p :: ps, s, h => by
    obtain ⟨hp, hps⟩ := List.forall_mem_cons.1 h
    unfold chooseFrom
    split
    · exact beginLoading_chosen hp _
    · next r _ =>
      refine (setHeld_chosen hp .run r).trans (chooseFrom_chosen l ps _ fun a ha x hx ht => ?_)
      unfold setHeld at hx
      split at hx
      · rw [modPlate, lane_modLane] at hx
        obtain ⟨y, hy, rfl⟩ := List.mem_map.1 hx
        have hy' := hps a ha y hy
        by_cases hyt : y.tag = p.tag
        · rw [if_pos hyt] at ht ⊢
          exact hy' ht
        · rw [if_neg hyt] at ht ⊢
          exact hy' ht
      · exact hps a ha x hx ht

theorem chooseFrom_lane_ne {l k : LaneId} (hk : k ≠ l) (ps : List Plate) (s : State) :
    (chooseFrom l ps s).lane k = s.lane k := by
  induction ps generalizing s with
  | nil =>
    unfold chooseFrom choiceEmpty
    split
    · rw [lane_modLane_ne _ _ hk]
    · split
      · rfl
      · split
        · rfl
        · rw [lane_modLane_ne _ _ hk, lane_of_lanes (submit_lanes _ _)]
  | cons p ps ih =>
    unfold chooseFrom
    split
    · unfold beginLoading
      split
      · rw [lane_modLane_ne _ _ hk, modPlate, lane_modLane_ne _ _ hk, lane_of_lanes (takeLock_lanes _ _)]
      · rfl
    · rw [ih]
      unfold setHeld
      split
      · rw [modPlate, lane_modLane_ne _ _ hk]
      · rfl

/-- A lane's choice touches no other lane (R119). -/
theorem choose_lane_ne {l k : LaneId} (hk : k ≠ l) (s : State) : (choose l s).lane k = s.lane k := by
  unfold choose
  split
  · exact chooseFrom_lane_ne hk _ s
  · rfl

theorem choose_chosen {l : LaneId} {s : State} (hn : ((s.lane l).queue.map Plate.tag).Nodup) :
    QueueChosen (s.lane l).mode (s.lane l).queue ((choose l s).lane l).queue := by
  unfold choose
  split
  · next h =>
    rw [h.1]
    refine chooseFrom_chosen l _ s fun p hp x hx ht => ?_
    obtain ⟨hpq, hps⟩ := Lane.mem_queued.1 hp
    rw [List.inj_on_of_nodup_map hn hx hpq ht, hps]
  · exact QueueChosen.refl _ _

/-- Reactions make of a queue what choices may (R17, R119). -/
theorem reactionsKeep_chosen {l : LaneId} {m : LaneMode} {q : List Plate} (hn : (q.map Plate.tag).Nodup) :
    ReactionsKeep fun t => (t.lane l).mode = m ∧ QueueChosen m q (t.lane l).queue where
  lane k s := fun ⟨hm, hq⟩ => by
    by_cases hk : l = k
    · subst hk
      have hmode : ((choose l s).lane l).mode = (s.lane l).mode := by
        have := congrArg Lane.mode (control_of_steady (choose_reacts l s).steady l)
        exact this
      refine ⟨hmode.trans hm, hq.trans ?_⟩
      subst hm
      exact choose_chosen (by rw [hq.tags]; exact hn)
    · rw [choose_lane_ne hk]
      exact ⟨hm, hq⟩
  take e s h := by rwa [lane_of_lanes (takeUp_lanes e s)]
  claim s h := by rwa [lane_of_lanes (claimNow_lanes s)]
  free _ h := h

/-! ### The back plate given back -/

/-- Everything a lateness test can do (R121). -/
theorem lateTest_cases (l : LaneId) (tag : Tag) (s : State) :
    lateTest l tag s = s ∨ ∃ p, lateTest l tag s =
      modPlate l tag (fun x => { x with lateReported := true }) (submit (lateReport p) s) := by
  unfold lateTest
  split
  · next p _ =>
    split
    · exact .inr ⟨p, rfl⟩
    · exact .inl rfl
  · exact .inl rfl

theorem lateTest_reacts (l : LaneId) (tag : Tag) (s : State) : Reacts s (lateTest l tag s) := by
  rcases lateTest_cases l tag s with h | ⟨p, h⟩ <;> rw [h]
  · exact Reacts.refl s
  · exact (submit_reacts _ s).trans (modPlate_reacts _ _ _ _)

/-- A lateness test of the plate at the head of a queue (R121). -/
theorem lateTest_lane {l : LaneId} {s : State} {x : Plate} {q : List Plate} (hq : (s.lane l).queue = x :: q)
    (hn : ∀ y ∈ q, y.tag ≠ x.tag) :
    ∃ late, (lateTest l x.tag s).lane l = { s.lane l with queue := { x with lateReported := late } :: q } := by
  rcases lateTest_cases l x.tag s with h | ⟨p, h⟩ <;> rw [h]
  · exact ⟨x.lateReported, by rw [← hq]⟩
  · refine ⟨true, ?_⟩
    have hmap : q.map (fun y => if y.tag = x.tag then { y with lateReported := true } else y) = q :=
      (List.map_congr_left fun y hy => if_neg (hn y hy)).trans (List.map_id' q)
    rw [modPlate, lane_modLane, lane_of_lanes (submit_lanes _ _), hq, List.map_cons, if_pos rfl, hmap]

/-- A plate as it returns to QUEUED with its attempt unchanged (R118, R123). -/
def Plate.givenBack (p : Plate) : Plate := { p with state := .queued, spoil := none, returned := true }

/-- A lane whose back plate is given back (R123). -/
def Lane.givenBack (L : Lane) (p : Plate) : Lane :=
  { L with
    backCtx := none, buffer := L.buffer.filter fun r => r.mark != .back
    queue := p.givenBack :: L.queue.filter fun x => x.tag != p.tag }

theorem releaseLock_modLane (k : Key) (l : LaneId) (g : Lane → Lane) (s : State) :
    releaseLock k (modLane l g s) = modLane l g (releaseLock k s) := by
  have hfind : (modLane l g s).findPage k = s.findPage k := rfl
  unfold releaseLock
  rw [hfind]
  split
  · next f _ =>
    have hpage : (modLane l g s).page f = s.page f := rfl
    unfold modPage
    rw [hpage]
    split <;> rfl
  · rfl

/-- The back plate given back: its lock is released, the lane changed, and its lateness tested (R123). -/
theorem giveBack_eq {l : LaneId} {s : State} {p : Plate} (hp : (s.lane l).back = some p) (hl : p.lane = l) :
    giveBack l s = lateTest l p.tag (modLane l (fun L => L.givenBack p) (releaseLock p.key s)) := by
  subst hl
  have hflight : p.state.inFlight = true := by rw [(Lane.back_mem hp).2]; rfl
  simp only [giveBack, hp, returnPlate, hflight, if_true, dropBack]
  rw [releaseLock_modLane, modLane_modLane]
  rfl

/-- The lane that gives its back plate back (R118, R123). -/
theorem giveBack_lane {l : LaneId} {s : State} {p : Plate} (hp : (s.lane l).back = some p) (hl : p.lane = l) :
    ∃ late, (giveBack l s).lane l = { (s.lane l).givenBack p with
      queue := { p.givenBack with lateReported := late } :: (s.lane l).queue.filter fun x => x.tag != p.tag } := by
  have hlane : (modLane l (fun L => L.givenBack p) (releaseLock p.key s)).lane l = (s.lane l).givenBack p := by
    rw [lane_modLane, lane_of_lanes (releaseLock_lanes _ _)]
  obtain ⟨late, h⟩ := lateTest_lane (l := l) (x := p.givenBack) (congrArg Lane.queue hlane)
    fun y hy => show y.tag ≠ p.tag by simpa using (List.mem_filter.1 hy).2
  exact ⟨late, by rw [giveBack_eq hp hl, ← hlane]; exact h⟩

/-- Giving the back plate back leaves the mode of every lane. -/
theorem giveBack_mode {l : LaneId} {s : State} {p : Plate} (hp : (s.lane l).back = some p) (hl : p.lane = l)
    (k : LaneId) : ((giveBack l s).lane k).mode = (s.lane k).mode := by
  rw [giveBack_eq hp hl]
  have hlate := congrArg Lane.mode (control_of_steady (lateTest_reacts l p.tag
    (modLane l (fun L => L.givenBack p) (releaseLock p.key s))).steady k)
  refine Eq.trans hlate ?_
  by_cases hk : k = l
  · subst hk
    rw [lane_modLane, lane_of_lanes (releaseLock_lanes _ _)]
    rfl
  · rw [lane_modLane_ne _ _ hk, lane_of_lanes (releaseLock_lanes _ _)]
    rfl

/-- Giving the back plate back leaves the pages but for their locks, and the patch table (R12). -/
theorem giveBack_tables {l : LaneId} {s : State} {p : Plate} (hp : (s.lane l).back = some p) (hl : p.lane = l) :
    (giveBack l s).steady.pages = s.steady.pages ∧ (giveBack l s).patches = s.patches := by
  have hlock := (releaseLock_reacts p.key s).steady
  have hlate := (lateTest_reacts l p.tag (modLane l (fun L => L.givenBack p) (releaseLock p.key s))).steady
  have hpages : (releaseLock p.key s).steady.pages = s.steady.pages := by rw [hlock]
  have hpatches : (releaseLock p.key s).steady.patches = s.steady.patches := by rw [hlock]
  rw [giveBack_eq hp hl]
  exact ⟨(congrArg State.pages hlate).trans hpages, (congrArg State.patches hlate).trans hpatches⟩

end Sys2Proof.Machine
end

section
/-! ## The STORE error of a row -/

namespace Sys2Proof.Machine

/-! ### The row in hand -/

theorem composing_front {L : Lane} {c : Latched} (h : L.frontCtx = some c) (hc : c.composed < c.ctx.th * 256) :
    composing L = some (.front, c) := by
  simp [composing, h, hc]

theorem composing_back {L : Lane} {c : Latched} (hf : ∀ d, L.frontCtx = some d → d.ctx.th * 256 ≤ d.composed)
    (h : L.backCtx = some c) (hc : c.composed < c.ctx.th * 256) : composing L = some (.back, c) := by
  unfold composing
  cases hd : L.frontCtx with
  | none => simp [h, hc]
  | some d => simp [Nat.not_lt.2 (hf d hd), h, hc]

/-- LANE_ROW_COMPOSED with a row in hand whose requests are granted (R107, R156). -/
theorem exec_laneRowComposed {s : State} {l : LaneId} {m : RowMark} {c : Latched} (he : s.engine = .active)
    (hb : (s.lane l).buffer.length < s.highWater l) (hc : composing (s.lane l) = some (m, c))
    (hg : s.grantsRun (.composer l) (rowRequestsLeft s l c) = true) :
    exec (.laneRowComposed l) s = .next (composeNext l m c s) := by
  have hrow : rowInHand s l = some (m, c) := by rw [rowInHand, if_pos ⟨he, hb⟩, hc]
  refine congrArg Host.Outcome.next ?_
  simp [rowComposed, hrow, rowWaits, hg]

/-- A row's last grant moves the port alone (R156). -/
theorem noteRowGrant_keeps (l : LaneId) (c : Latched) (s : State) :
    (noteRowGrant l c s).lanes = s.lanes ∧ (noteRowGrant l c s).pages = s.pages ∧
      (noteRowGrant l c s).patches = s.patches ∧ (noteRowGrant l c s).badWords = s.badWords ∧
      (noteRowGrant l c s).reports = s.reports ∧ (noteRowGrant l c s).clock = s.clock := by
  unfold noteRowGrant
  split <;> simp

theorem rowError_congr {s u : State} (hb : u.badWords = s.badWords) (hp : u.patches = s.patches) (c : Context)
    (p : Page) (y : Nat) (row : List SpanWork) : rowError u c p y row = rowError s c p y row := by
  funext tx
  have hlook : lookUpSpan u c.frame p tx y = lookUpSpan s c.frame p tx y := by
    simp only [lookUpSpan, spanSource_congr (s := s) (u := u) (p := p) (q := p) rfl rfl (by rw [hp])]
  rw [rowError, hlook, spanWork_error_congr hb rfl, rowError]

/-- A row whose spans meet an error: its flags are raised, it is placed, and the STORE error is taken with it (R109,
R146). -/
theorem composeNext_error {s : State} {l : LaneId} {c : Latched} {p : Page} (m : RowMark)
    (hp : s.page c.ctx.frame = some p) (hk : p.key = c.ctx.key) (hw : p.tw = c.ctx.tw) (hh : p.th = c.ctx.th)
    (hc : c.composed < c.ctx.th * 256)
    (he : ∃ tx, tx < c.ctx.tw ∧ (rowError s c.ctx p c.composed c.row tx).isSome = true) :
    ∃ r : RowResult, RowRaised s c.ctx p c.composed c.row c.ctx.tw r ∧
      composeNext l m c s = storeError l m (placeRow l m c r.bytes r.state) := by
  obtain ⟨hlanes, hpages, hpatches, hbad, hreports, hclock⟩ := noteRowGrant_keeps l c s
  have hpage : (noteRowGrant l c s).page c.ctx.frame = some p := by rw [State.page, hpages]; exact hp
  have h := composeRow_raised (y := c.composed) c.row hpage hk hw.symm (by omega)
  have herr := rowError_congr hbad hpatches c.ctx p c.composed c.row
  obtain ⟨rlanes, rreports, rclock, rbad, rpage, rpatches, rerror⟩ := h
  rw [herr] at rpage rpatches rerror
  rw [hpatches] at rpatches
  refine ⟨_, ⟨rlanes.trans hlanes, rreports.trans hreports, rclock.trans hclock, rbad.trans hbad, rpage, rpatches,
    rerror⟩, ?_⟩
  simp only [composeNext, rerror.2 he, if_true]

/-! ### The flags that stay -/

/-- The flags that the errors of a row call for are raised in `t`: STORE for line art and tone (R72), and SPOILT in the
entry that names the slot (R73). -/
def RowFlagged (s : State) (c : Context) (p : Page) (y : Nat) (row : List SpanWork) (t : State) : Prop :=
  ∀ tx e, tx < c.tw ∧ rowError s c p y row tx = some e →
    (e = .lineArt ∨ e = .tone → y / 256 * p.tw + tx < p.tiles.length →
      ∃ r, t.page c.frame = some r ∧ (r.flags tx (y / 256)).store = true) ∧
    ∀ n b, e = .patchSlot n →
      findPatch s.patches c.frame tx (y / 256) = some ⟨c.frame, tx, y / 256, n, b⟩ →
      findPatch t.patches c.frame tx (y / 256) = some ⟨c.frame, tx, y / 256, n, true⟩

/-- A change of the pages' locks and deferred lists alone keeps the rest of a page. -/
theorem page_of_steady_pages {s t : State} (h : t.steady.pages = s.steady.pages) {f : Nat} {p : Page}
    (hp : s.page f = some p) : ∃ q, t.page f = some q ∧ q.content = p.content := by
  have e : t.steady.page f = s.steady.page f := by rw [State.page, h]; rfl
  rw [steady_page, steady_page, hp] at e
  exact Option.map_eq_some_iff.1 e

/-- What leaves the pages but for their locks, and the patch table, leaves the flags raised. -/
theorem RowRaised.flagged {s t : State} {c : Context} {p : Page} {y : Nat} {row : List SpanWork} {r : RowResult}
    (h : RowRaised s c p y row c.tw r) (hpages : t.steady.pages = r.state.steady.pages)
    (hpatches : t.patches = r.state.patches) : RowFlagged s c p y row t := by
  intro tx e ⟨htx, he⟩
  obtain ⟨q, hq, hstore⟩ := h.page
  obtain ⟨q', hq', hcontent⟩ := page_of_steady_pages hpages hq
  have hflags : q'.flags tx (y / 256) = q.flags tx (y / 256) :=
    show q'.content.flags tx (y / 256) = q.content.flags tx (y / 256) by rw [hcontent]
  refine ⟨fun hs hl => ⟨q', hq', ?_⟩, fun n b hn hfind => ?_⟩
  · rw [hflags]
    exact hstore.stored tx htx (hs.imp (fun h => by rw [he, h]) fun h => by rw [he, h]) hl
  · rw [hpatches]
    exact h.patches.spoilt tx n b htx (hn ▸ he) hfind

/-! ### The front plate spoiled -/

/-- A lane whose front plate is spoiled and cancelled (R122, R138). -/
def Lane.spoilCancelled (L : Lane) (p : Plate) (cause : SpoilCause) (now : Tick) : Lane :=
  { L with
    owed := 0, frontCtx := none, buffer := L.buffer.filter fun r => r.mark != .front
    queue := L.queue.map fun x => if x.tag = p.tag then { x with state := .cancelling, spoil := some cause } else x
    sent := L.sent ++ [.cancel p.tag], lastSent := now }

/-- A front plate spoiled and cancelled: its outcome is reported and its lane changed (R122, R138). -/
theorem spoilCancel_eq (p : Plate) (cause : SpoilCause) (s : State) : cancelFront p (spoil p cause s) =
    modLane p.lane (fun L => L.spoilCancelled p cause s.clock) (submit (plateOutcome p 2 cause.code) s) := by
  simp only [cancelFront, spoil, dropFront, modPlate, sendMsg, modLane_modLane, modLane_clock, submit_clock]
  refine modLane_congr ?_
  have hqueue : ∀ q : List Plate,
      (q.map fun x => if x.tag = p.tag then { x with spoil := some cause } else x).map
          (fun x => if x.tag = p.tag then { x with state := .cancelling } else x) =
        q.map fun x => if x.tag = p.tag then { x with state := .cancelling, spoil := some cause } else x := fun q => by
    rw [List.map_map]
    refine List.map_congr_left fun x _ => ?_
    by_cases ht : x.tag = p.tag <;> simp [ht]
  simp only [Lane.spoilCancelled, hqueue]

/-- The one plate of a queue with a property is found after a change of it that keeps the property. -/
theorem find?_map_tag {q : List Plate} {P : Plate → Bool} {p : Plate} {g : Plate → Plate}
    (hn : (q.map Plate.tag).Nodup) (hp : q.find? P = some p) (hg : P (g p) = true) :
    (q.map fun x => if x.tag = p.tag then g x else x).find? P = some (g p) := by
  induction q with
  | nil => cases hp
  | cons a q ih =>
    rw [List.map_cons]
    by_cases ha : P a = true
    · rw [List.find?_cons_of_pos ha] at hp
      obtain rfl := Option.some.inj hp
      rw [if_pos rfl, List.find?_cons_of_pos hg]
    · rw [List.find?_cons_of_neg ha] at hp
      have hne : a.tag ≠ p.tag := fun ht =>
        (List.nodup_cons.1 hn).1 (ht ▸ List.mem_map.2 ⟨p, List.mem_of_find?_eq_some hp, rfl⟩)
      rw [if_neg hne, List.find?_cons_of_neg ha]
      exact ih (List.nodup_cons.1 hn).2 hp

theorem filter_not_front (b : List BufferedRow) : ∀ r ∈ b.filter (fun r => r.mark != .front), r.mark = .back := by
  intro r hr
  have := (List.mem_filter.1 hr).2
  cases h : r.mark <;> simp [h] at this ⊢

theorem filter_not_back (b : List BufferedRow) : ∀ r ∈ b.filter (fun r => r.mark != .back), r.mark = .front := by
  intro r hr
  have := (List.mem_filter.1 hr).2
  cases h : r.mark <;> simp [h] at this ⊢

/-- The STORE error of a front plate's row (R122, R146). -/
theorem storeError_front {s u : State} {l : LaneId} {c : Latched} {q : Plate} (hq : QueuesSafe s)
    (hlanes : u.lanes = s.lanes) (hreports : u.reports = s.reports) (hclock : u.clock = s.clock)
    (hf : (s.lane l).front = some q) (hs : q.state = .exposing) (bytes : List Byte) :
    let t := storeError l .front (placeRow l .front c bytes u)
    t.pages = u.pages ∧ t.patches = u.patches ∧
      (t.lane l).front = some { q with state := .cancelling, spoil := some .store } ∧
      (t.lane l).sent = (s.lane l).sent ++ [.cancel q.tag] ∧ (t.lane l).owed = 0 ∧ (t.lane l).frontCtx = none ∧
      (∀ r ∈ (t.lane l).buffer, r.mark = .back) ∧ OtherLanesKept l s t ∧
      (submit (plateOutcome q 2 4) s).reports <+: t.reports := by
  intro t
  obtain rfl := (hq.ok l).own q (Lane.front_mem hf).1
  have hu : ∀ k, u.lane k = s.lane k := lane_of_lanes hlanes
  have hfront : ((placeRow q.lane .front c bytes u).lane q.lane).front = some q := by
    rw [placeRow, lane_modLane, hu]
    exact hf
  have ht : t = modLane q.lane (fun L => L.spoilCancelled q .store u.clock)
      (submit (plateOutcome q 2 4) (placeRow q.lane .front c bytes u)) := by
    simp only [t, storeError, hfront, hs, if_true]
    exact spoilCancel_eq q .store _
  have hlane : t.lane q.lane = ({ s.lane q.lane with
      buffer := (s.lane q.lane).buffer ++ [⟨.front, bytes⟩]
      frontCtx := some ⟨c.ctx, c.composed + 1, []⟩ } : Lane).spoilCancelled q .store u.clock := by
    rw [ht, lane_modLane, lane_of_lanes (submit_lanes _ _), placeRow, lane_modLane, hu]
  refine ⟨by rw [ht]; exact submit_pages _ _, by rw [ht]; exact submit_patches _ _, ?_, by rw [hlane]; rfl,
    by rw [hlane]; rfl, by rw [hlane]; rfl, by rw [hlane]; exact filter_not_front _, fun k hk => ?_, ?_⟩
  · rw [hlane]
    exact find?_map_tag (hq.ok q.lane).tags hf rfl
  · rw [ht, lane_modLane_ne _ _ hk, lane_of_lanes (submit_lanes _ _), placeRow, lane_modLane_ne _ _ hk, hu]
  · have hr : t.reports = (submit (plateOutcome q 2 4) s).reports := by
      rw [ht]
      exact submit_reports_congr _ hreports hclock
    rw [hr]

/-! ### The back plate given back with its row -/

/-- Where no lane runs, falling lock counts leave every lane as it is. -/
theorem settleLocks_lanes_quiet {s : State} (hn : NoLaneRuns s) (a b : State) :
    (settleLocks a b s).lanes = s.lanes :=
  ((reactionsKeep_quiet (P := fun t => t.lanes = s.lanes) (fun e t h => (takeUp_lanes e t).trans h)
    (fun t h => (claimNow_lanes t).trans h) fun _ h => h).settleLocks a b ⟨hn, rfl⟩).2

/-- The plate on the drum is not the back plate, and is found without it. -/
theorem QueueOk.front_without_back {l : LaneId} {L : Lane} (h : QueueOk l L.queue) {p : Plate} (hp : L.back = some p) :
    (L.queue.filter fun x => x.tag != p.tag).find? (fun x => x.state.onDrum) = L.front := by
  obtain ⟨hm, hs⟩ := Lane.back_mem hp
  rw [List.find?_filter]
  refine List.find?_congr fun x hx => ?_
  by_cases ht : x.tag = p.tag
  · rw [h.eq_of_tag hx hm ht, hs]
    simp [PlateState.onDrum]
  · simp [ht]

/-- The STORE error of a back plate's row (R123, R146). -/
theorem storeError_back {s u : State} {l : LaneId} {c : Latched} {q : Plate} (hq : QueuesSafe s)
    (hlanes : u.lanes = s.lanes) (hb : (s.lane l).back = some q) (bytes : List Byte) :
    let t := storeError l .back (placeRow l .back c bytes u)
    t.steady.pages = u.steady.pages ∧ t.patches = u.patches ∧ (t.lane l).sent = (s.lane l).sent ∧
      (t.lane l).front = (s.lane l).front ∧ (∀ r ∈ (t.lane l).buffer, r.mark = .front) ∧
      (∃ x ∈ (t.lane l).queue, x.tag = q.tag ∧ x.attempt = q.attempt ∧ x.spoil = none ∧
        (x.state = .queued ∨ (s.lane l).mode = .run ∧ x.state = .loading)) ∧
      (NoLaneRuns s → (t.lane l).backCtx = none ∧
        ∃ x, (t.lane l).queue = x :: (s.lane l).queue.filter (fun y => y.tag != q.tag) ∧
          x = { q with state := .queued, spoil := none, returned := true, lateReported := x.lateReported }) := by
  intro t
  have hql : q.lane = l := (hq.ok l).own q (Lane.back_mem hb).1
  have hu : ∀ k, u.lane k = s.lane k := lane_of_lanes hlanes
  let v := placeRow l .back c bytes u
  let w := giveBack l v
  have hvlane : v.lane l = { s.lane l with
      buffer := (s.lane l).buffer ++ [⟨.back, bytes⟩], backCtx := some ⟨c.ctx, c.composed + 1, []⟩ } := by
    rw [← hu l]
    exact lane_modLane l _ u
  have hvb : (v.lane l).back = some q := by rw [hvlane]; exact hb
  have hvq : QueuesSafe v := (hq.of_lanes hlanes).of_modLane_queue l _ rfl
  have hvmode : ∀ k, (v.lane k).mode = (s.lane k).mode := fun k => by
    by_cases hk : k = l
    · rw [hk, hvlane]
    · rw [show v.lane k = u.lane k from lane_modLane_ne _ _ hk, hu]
  have hwmode : ∀ k, (w.lane k).mode = (s.lane k).mode := fun k => (giveBack_mode hvb hql k).trans (hvmode k)
  obtain ⟨late, hwlane⟩ := giveBack_lane hvb hql
  have hwqueue : (w.lane l).queue = { q.givenBack with lateReported := late } ::
      (s.lane l).queue.filter fun x => x.tag != q.tag := by rw [hwlane, hvlane]
  obtain ⟨hpages, hpatches⟩ := giveBack_tables hvb hql
  have hreacts : Reacts w t := (choose_reacts l w).trans (settleLocks_reacts v w _)
  have hcontrol := control_of_steady hreacts.steady l
  obtain ⟨-, hchosen⟩ := (reactionsKeep_chosen (m := (s.lane l).mode) ((hvq.of_giveBack l).ok l).tags).settleLocks v w
    ((reactionsKeep_chosen ((hvq.of_giveBack l).ok l).tags).lane l w ⟨hwmode l, QueueChosen.refl _ _⟩)
  change QueueChosen _ _ (t.lane l).queue at hchosen
  refine ⟨(congrArg State.pages hreacts.steady).trans hpages, (congrArg State.patches hreacts.steady).trans hpatches,
    (congrArg Lane.sent hcontrol).trans (by rw [hwlane, hvlane]; rfl), ?_, ?_, ?_, fun hn => ?_⟩
  · rw [Lane.front, hchosen.front, hwqueue, List.find?_cons_of_neg (by simp [Plate.givenBack, PlateState.onDrum])]
    exact (hq.ok l).front_without_back hb
  · have hbuffer : (t.lane l).buffer = (v.lane l).buffer.filter fun r => r.mark != .back :=
      (congrArg Lane.buffer hcontrol).trans (by rw [hwlane]; rfl)
    rw [hbuffer]
    exact filter_not_back _
  · rw [hwqueue] at hchosen
    obtain ⟨y, ys, hy, -, hys⟩ := List.forall₂_cons_left_iff.1 hchosen
    exact ⟨y, by rw [hys]; exact List.mem_cons_self, hy.tag, hy.attempt, hy.spoil, hy.queued rfl⟩
  · have hwn : NoLaneRuns w := fun k => by rw [hwmode]; exact hn k
    have htw : t.lane l = w.lane l := by
      have ht : t = settleLocks v w w := congrArg (settleLocks v w) (choose_of_not_run (hwn l))
      rw [ht]
      exact lane_of_lanes (settleLocks_lanes_quiet hwn v w) l
    refine ⟨by rw [htw, hwlane]; rfl, _, htw ▸ hwqueue, rfl⟩

/-- Settles O44: the errors that spans meet, what a row with errors flags, and what becomes of its plate. -/
theorem storeErrorSpoilsFrontPlate : Obligations.StoreErrorSpoilsFrontPlate := by
  refine ⟨fun s f p tx y => ⟨spanError_hatch s f p tx y, fun n e => spanError_patch, fun e => spanError_lineArt,
    fun r e => ?_⟩, fun s f p tx y w => ⟨spanWork_error_eq_none, fun k => spanWork_error_of_failed,
    spanWork_error_granted s f p tx y w⟩, ?_⟩
  · rw [spanError_photo, spanError_lineArt, spanError_lineArt_eq_none]
    rfl
  · intro s l c p hq hact hg hp hb hc hk hw hh ty span meets flagged hmeets
    have herr : ∃ tx, tx < c.ctx.tw ∧ (rowError s c.ctx p c.composed c.row tx).isSome = true := by
      obtain ⟨tx, e, htx, he⟩ := hmeets
      exact ⟨tx, htx, Option.isSome_iff_exists.2 ⟨e, he⟩⟩
    refine ⟨fun q hfc hfront hs => ?_, fun q hfc hbc hback => ?_⟩
    · obtain ⟨r, hr, hnext⟩ := composeNext_error (l := l) .front hp hk hw hh hc herr
      obtain ⟨hpages, hpatches, hrest⟩ :=
        storeError_front (c := c) hq hr.lanes hr.reports hr.clock hfront hs r.bytes
      refine ⟨_, (exec_laneRowComposed hact hb (composing_front hfc hc) hg).trans (congrArg Host.Outcome.next hnext),
        hr.flagged ?_ hpatches, hrest⟩
      rw [State.steady, hpages]; rfl
    · obtain ⟨r, hr, hnext⟩ := composeNext_error (l := l) .back hp hk hw hh hc herr
      obtain ⟨hpages, hpatches, hrest⟩ := storeError_back (c := c) hq hr.lanes hback r.bytes
      exact ⟨_, (exec_laneRowComposed hact hb (composing_back hfc hbc hc) hg).trans (congrArg Host.Outcome.next hnext),
        hr.flagged hpages hpatches, hrest⟩

end Sys2Proof.Machine
end

section
/-! ## Screening, and the pixels of a plate and of the proof -/

namespace Sys2Proof.Machine

/-! ### The tone curve -/

theorem knot_nonneg (K : List Byte) (k : Nat) : 0 ≤ knot K k := Int.natCast_nonneg _

theorem knot_le_255 (K : List Byte) (k : Nat) : knot K k ≤ 255 := by
  have := (K.getD k 0).isLt
  unfold knot
  omega

/-- What a piece of the curve adds to its first knot: `r` sixteenths of its rise or fall `d`, to the nearest, never
outside it (R89). -/
theorem sixteenths_between (d : Int) {r : Int} (h0 : 0 ≤ r) (h15 : r ≤ 15) :
    min 0 d ≤ (d * r + 8) / 16 ∧ (d * r + 8) / 16 ≤ max 0 d := by
  rcases le_total 0 d with hd | hd
  · have hlow : 0 ≤ d * r := mul_nonneg hd h0
    have hhigh : d * r ≤ d * 15 := mul_le_mul_of_nonneg_left h15 hd
    omega
  · have hlow : d * 15 ≤ d * r := mul_le_mul_of_nonpos_left h15 hd
    have hhigh : d * r ≤ 0 := mul_nonpos_of_nonpos_of_nonneg hd h0
    omega

/-- The tone lies between the two knots that bracket its sample (R90). -/
theorem toneCurve_between (K : List Byte) (c : Nat) :
    min (knot K (c / 16)) (knot K (c / 16 + 1)) ≤ toneCurve K c ∧
      toneCurve K c ≤ max (knot K (c / 16)) (knot K (c / 16 + 1)) := by
  obtain ⟨hlow, hhigh⟩ := sixteenths_between (knot K (c / 16 + 1) - knot K (c / 16)) (r := (c % 16 : Nat))
    (by omega) (by omega)
  unfold toneCurve
  omega

/-- The last piece of the curve ends one sixteenth short of the last knot (R90). -/
theorem toneCurve_255 (K : List Byte) :
    toneCurve K 255 = knot K 15 + (15 * (knot K 16 - knot K 15) + 8) / 16 := by
  rw [mul_comm]
  rfl

/-- A piece that falls by one has fallen at its end, as the division rounds toward minus infinity (R89, R90). -/
theorem toneCurve_of_fall {K : List Byte} {c : Nat} (hd : knot K (c / 16 + 1) - knot K (c / 16) = -1)
    (hc : c % 16 = 15) : toneCurve K c = knot K (c / 16 + 1) := by
  rw [toneCurve, hd, hc]
  omega

/-- Settles O17: what is added to the first knot stays between nothing and the whole way to the second. -/
theorem toneLiesBetweenItsKnots : Obligations.ToneLiesBetweenItsKnots := by
  intro K c _
  obtain ⟨hlow, hhigh⟩ := toneCurve_between K c
  refine ⟨hlow, hhigh, (le_min (knot_nonneg K _) (knot_nonneg K _)).trans hlow,
    hhigh.trans (max_le (knot_le_255 K _) (knot_le_255 K _)), ?_, ?_, toneCurve_of_fall, fun hflat => ?_⟩
  · rintro rfl
    exact toneCurve_255 K
  · rintro rfl h15 h16
    rw [toneCurve_255, h15, h16]
    rfl
  · rw [hflat, min_self] at hlow
    rw [hflat, max_self] at hhigh
    exact le_antisymm hhigh hlow

/-! ### The base pixel -/

theorem basePixel_patch (s : State) (f : Nat) (p : Page) (q : ScreenSlot) (n x y : Nat) :
    basePixel s f p q (.patch n) x y =
      pixelBit (memRead s.mem (slotBase n + y % 256 * 32 + x % 256 / 8)) x := rfl

/-- The line-art bit of a pixel of a page (R6, R98). -/
theorem basePixel_lineArt (s : State) (f : Nat) (p : Page) (q : ScreenSlot) (x y : Nat) :
    basePixel s f p q (.page none) x y = pixelBit (memRead s.mem (frameBase f + pixelOffset p.tw x y)) x :=
  Bool.or_false _

theorem basePixel_photo (s : State) (f : Nat) (p : Page) (q : ScreenSlot) (r : PhotoRecord) (x y : Nat) :
    basePixel s f p q (.page (some r)) x y =
      (basePixel s f p q (.page none) x y || photoPixel s f q r x y) := by
  rw [basePixel_lineArt]
  rfl

theorem PhotoRecord.awaits_iff {r : PhotoRecord} {j : Nat} :
    r.awaits j = true ↔ r.state = .receiving ∧ r.nextRow ≤ j := by
  simp [PhotoRecord.awaits]

/-- A sample row that has come: the photo is COMPLETE, or the row is before its next one (R87). -/
theorem PhotoRecord.awaits_eq_false {r : PhotoRecord} {j : Nat} (h : r.state = .complete ∨ j < r.nextRow) :
    r.awaits j = false := by
  rw [Bool.eq_false_iff, ne_eq, PhotoRecord.awaits_iff]
  rintro ⟨hs, hj⟩
  rcases h with h | h
  · exact absurd (hs.symm.trans h) (by decide)
  · omega

theorem PhotoRecord.sampleRow_eq (r : PhotoRecord) (y : Nat) : r.sampleRow y = (y - 256 * r.ty0) / r.scale := by
  rw [PhotoRecord.sampleRow, mul_comm]

theorem photoPixel_of_awaits {s : State} {f : Nat} {q : ScreenSlot} {r : PhotoRecord} {x y : Nat}
    (h : r.awaits (r.sampleRow y) = true) : photoPixel s f q r x y = false := if_pos h

theorem photoPixel_of_come {s : State} {f : Nat} {q : ScreenSlot} {r : PhotoRecord} {x y : Nat}
    (h : r.awaits (r.sampleRow y) = false) :
    photoPixel s f q r x y =
      screenedBit q x y (memRead s.mem (r.sampleAddr f (r.sampleCol x) (r.sampleRow y))).toNat := by
  rw [photoPixel, h]
  rfl

/-- The byte of line art that holds a pixel of a page in a frame, by the address map's numbers (R5, R6). -/
theorem lineArt_addr (f tw x y : Nat) : frameBase f + pixelOffset tw x y =
    0x8000000 + f * 0x6000000 + (y / 256 * tw + x / 256) * 8192 + 32 * (y % 256) + x % 256 / 8 := by
  simp only [frameBase, framesBase, frameSize, pixelOffset, spanOffset, tileOffset, tileBytes]
  omega

/-- The byte of a patch slot that holds a pixel, by the address map's numbers (R64). -/
theorem slotPixel_addr (n x y : Nat) : slotBase n + y % 256 * 32 + x % 256 / 8 =
    0x4000000 + n * 8192 + 32 * (y % 256) + x % 256 / 8 := by
  simp only [slotBase, poolBase, tileBytes]
  omega

/-- The sample behind a pixel under a photo, by the address map's numbers (R5, R8, R86). -/
theorem sample_addr (f : Nat) (r : PhotoRecord) (x y : Nat) : r.sampleAddr f (r.sampleCol x) (r.sampleRow y) =
    0x8000000 + f * 0x6000000 + 0x4000000 + r.base + (y - 256 * r.ty0) / r.scale * (r.w * 256 / r.scale) +
      (x - 256 * r.tx0) / r.scale := by
  rw [PhotoRecord.sampleAddr, PhotoRecord.sampleCol, PhotoRecord.sampleRow_eq, mul_comm r.tx0]
  rfl

/-- R92's threshold: the table is read at sixteenths of the cell. -/
theorem threshold_eq (q : ScreenSlot) (x y : Nat) : threshold q x y =
    max (q.thr.getD (16 * (16 * cellV q.a q.b x y / cellModulus q.a q.b) +
      16 * cellU q.a q.b x y / cellModulus q.a q.b) 0).toNat 1 := by
  rw [threshold, mul_comm 16 (cellV ..), mul_comm 16 (cellU ..)]

/-! ### Marks -/

theorem Mark.holds_iff {m : Mark} {x y : Nat} :
    m.holds x y = true ↔ m.x ≤ x ∧ x < m.x + m.w ∧ m.y ≤ y ∧ y < m.y + m.h := decide_eq_true_iff

theorem barCovers_iff {origin extent stroke v : Nat} : barCovers origin extent stroke v = true ↔
    (origin + ((extent : Int) - stroke) / 2 : Int) ≤ v ∧
      (v : Int) < origin + ((extent : Int) - stroke) / 2 + stroke := by
  simp only [barCovers, decide_eq_true_eq, Int.le_sub_one_iff]

/-- The dots of a SLUG: 11 characters of 6 columns, the last of each blank, and 7 rows (R104). -/
theorem slugInks_iff {m : Mark} {text : List SlugChar} {x y : Nat} : slugInks m text x y = true ↔
    (x - m.x) / m.dot < 66 ∧ (y - m.y) / m.dot < 7 ∧ (x - m.x) / m.dot % 6 < 5 ∧
      glyphDot (text.getD ((x - m.x) / m.dot / 6) .dash) ((x - m.x) / m.dot % 6) ((y - m.y) / m.dot) = true := by
  have hcols : (x - m.x) / m.dot / 6 < 11 ↔ (x - m.x) / m.dot < 66 := Nat.div_lt_iff_lt_mul (by decide)
  simp only [slugInks, Bool.and_eq_true, decide_eq_true_eq, hcols, and_assoc]

/-- What a mark of each kind inks within its rectangle (R102 to R104). -/
theorem Mark.inks_iff {m : Mark} {text : List SlugChar} {x y : Nat} : m.inks text x y = true ↔
    m.holds x y = true ∧
      (m.kind = .solid ∨
        (m.kind = .cross ∧ (barCovers m.y m.h m.stroke y = true ∨ barCovers m.x m.w m.stroke x = true)) ∨
        (m.kind = .slug ∧ slugInks m text x y = true)) := by
  rw [Mark.inks, Bool.and_eq_true]
  refine and_congr_right fun _ => ?_
  cases m.kind <;> simp

theorem markPixel_iff {marks : List Mark} {text : List SlugChar} {x y : Nat} :
    markPixel marks text x y = true ↔ ∃ m ∈ marks, m.inks text x y = true := List.any_eq_true

/-- Only a SLUG draws its text. -/
theorem Mark.inks_text {m : Mark} {x y : Nat} (h : m.kind = .slug → m.holds x y = false) (text text' : List SlugChar) :
    m.inks text x y = m.inks text' x y := by
  cases hk : m.kind with
  | slug => simp only [Mark.inks, h hk, Bool.false_and]
  | off => simp only [Mark.inks, hk]
  | solid => simp only [Mark.inks, hk]
  | cross => simp only [Mark.inks, hk]

/-- Outside every SLUG the text of the marks makes no difference. -/
theorem markPixel_text {marks : List Mark} {x y : Nat} (h : ∀ m ∈ marks, m.kind = .slug → m.holds x y = false)
    (text text' : List SlugChar) : markPixel marks text x y = markPixel marks text' x y :=
  Bool.eq_iff_iff.2 <| by
    simp only [markPixel_iff]
    exact exists_congr fun m => and_congr_right fun hm => by rw [Mark.inks_text (h m hm) text text']

/-! ### The composed pixel -/

theorem composedPixel_of_positive {s : State} {c : Context} {p : Page} {src : SpanSource} {x y : Nat}
    (h : c.polarity = .positive) : composedPixel s c p src x y = positivePixel s c p src x y := by
  rw [composedPixel, h]

theorem composedPixel_of_negative {s : State} {c : Context} {p : Page} {src : SpanSource} {x y : Nat}
    (h : c.polarity = .negative) : composedPixel s c p src x y = !positivePixel s c p src x y := by
  rw [composedPixel, h]

/-- NEGATIVE polarity inverts the pixel (R98, R105). -/
theorem composedPixel_eq_xor (s : State) (c : Context) (p : Page) (src : SpanSource) (x y : Nat) :
    composedPixel s c p src x y = ((c.polarity == .negative) ^^ positivePixel s c p src x y) := by
  cases h : c.polarity with
  | positive => exact (composedPixel_of_positive h).trans (Bool.false_xor _).symm
  | negative => exact (composedPixel_of_negative h).trans (Bool.true_xor _).symm

/-- The attempt digit shows in SLUG marks only (R98, R104). -/
theorem positivePixel_attempt {c c' : Context} {x y : Nat} (hc : c' = { c with polarity := .positive, attempt := 0 })
    (h : ∀ m ∈ c.marks, m.kind = .slug → m.holds x y = false) (s : State) (p : Page) (src : SpanSource) :
    positivePixel s c p src x y = positivePixel s c' p src x y := by
  subst hc
  exact congrArg (basePixel s c.frame p c.slot src x y || ·) (markPixel_text h _ _)

/-- Settles O16: the base pixel address by address, the marks kind by kind, and the attempt digit that only a SLUG
shows. -/
theorem platePixelEqualsProofPixel : Obligations.PlatePixelEqualsProofPixel := by
  refine ⟨composedPixel_eq_xor, fun s f p q x y => ⟨fun n => ?_, fun photo => ⟨?_, ?_⟩⟩,
    fun marks k attempt x y => ⟨?_, rfl⟩, fun s c proofCtx p src x y hctx hslug => ?_⟩
  · rw [basePixel_patch, slotPixel_addr]
    rfl
  · rintro rfl
    rw [basePixel_lineArt, lineArt_addr]
    rfl
  · rintro r rfl
    refine ⟨fun hwaits => ?_, fun hcome => ?_⟩
    · rw [basePixel_photo, photoPixel_of_awaits, Bool.or_false, basePixel_lineArt, lineArt_addr]
      · rfl
      · rw [PhotoRecord.awaits_iff, PhotoRecord.sampleRow_eq]
        exact hwaits
    · rw [basePixel_photo, photoPixel_of_come, basePixel_lineArt, lineArt_addr, sample_addr, screenedBit, threshold_eq]
      · rfl
      · rw [PhotoRecord.sampleRow_eq]
        exact PhotoRecord.awaits_eq_false hcome
  · simp only [markPixel_iff, Mark.inks_iff, Mark.holds_iff, barCovers_iff, slugInks_iff, and_assoc]
    rfl
  · have hproof : composedPixel s proofCtx p src x y = positivePixel s c p src x y := by
      rw [composedPixel_of_positive (by rw [hctx]), positivePixel_attempt hctx hslug]
    rw [hproof]
    exact ⟨composedPixel_of_positive, composedPixel_of_negative⟩

end Sys2Proof.Machine
end

section
/-! ## The proof window's binding -/

namespace Sys2Proof.Machine

/-- The zero key unbinds (R110). -/
theorem decideProof_unbinds {s : State} {o : Order} (hk : o.key = ⟨0, 0, 0⟩) :
    decideProof o s = answer o .done { s with proof := none } :=
  if_pos hk

/-- The key of a present page binds it (R110). -/
theorem decideProof_binds {s : State} {o : Order} {f : Nat} (hk : o.key ≠ ⟨0, 0, 0⟩) (h : s.findPage o.key = some f) :
    decideProof o s = answer o .done { s with proof := some (o.key, f) } := by
  have hkey : o.key ≠ Key.zero := hk
  rw [decideProof, if_neg hkey, h]

/-- SET PROOF in hand is decided by the proof composer, and the executor goes on (R110, R153). -/
theorem exec_setProof {s : State} {o : Order} (ho : s.inHand = some o) (hk : o.kind = 6) :
    exec .setProof s = .next (finishOrder (decideProof o s)) :=
  congrArg Host.Outcome.next (handleOrder_of_kind ho hk decideProof)

/-- Settles O34: the composer's answer to the zero key and to a present page's, after which the executor goes on. -/
theorem proofBindingIsSet : Obligations.ProofBindingIsSet := by
  refine fun s o ho hk => ⟨fun hzero => ?_, fun f hkey hpage => ?_⟩
  · rw [exec_setProof ho hk, decideProof_unbinds hzero, answer]
  · rw [exec_setProof ho hk, decideProof_binds hkey hpage, answer]

end Sys2Proof.Machine
end

section
/-! ## Locks and the plates in flight -/

namespace Sys2Proof.Machine

/-! ### Counting plates in flight -/

/-- Whether a plate is in flight with a key, and so holds a lock of its page (R12). -/
def flies (k : Key) (x : Plate) : Bool := x.state.inFlight && x.key == k

/-- How many plates of a lane are in flight with a key. -/
def Lane.flying (L : Lane) (k : Key) : Nat := L.queue.countP (flies k)

theorem platesInFlight_eq (s : State) (k : Key) : platesInFlight s k =
    (s.lane 0).flying k + (s.lane 1).flying k + (s.lane 2).flying k + (s.lane 3).flying k := by
  simp only [platesInFlight, allLanes, List.map_cons, List.map_nil, List.sum_cons, List.sum_nil, Nat.add_zero,
    ← Nat.add_assoc]
  rfl

theorem platesInFlight_congr {s t : State} (h : ∀ l, (t.lane l).queue = (s.lane l).queue) (k : Key) :
    platesInFlight t k = platesInFlight s k := by
  simp only [platesInFlight, h]

/-- Where one lane changes, the plates in flight change by its own. -/
theorem platesInFlight_change {s t : State} {l : LaneId} (h : ∀ j, j ≠ l → (t.lane j).queue = (s.lane j).queue)
    (k : Key) : platesInFlight t k + (s.lane l).flying k = platesInFlight s k + (t.lane l).flying k := by
  have hj : ∀ j, j ≠ l → (t.lane j).flying k = (s.lane j).flying k := fun j hj => by
    rw [Lane.flying, h j hj, Lane.flying]
  rw [platesInFlight_eq, platesInFlight_eq]
  match l with
  | 0 => rw [hj 1 (by decide), hj 2 (by decide), hj 3 (by decide)]; omega
  | 1 => rw [hj 0 (by decide), hj 2 (by decide), hj 3 (by decide)]; omega
  | 2 => rw [hj 0 (by decide), hj 1 (by decide), hj 3 (by decide)]; omega
  | 3 => rw [hj 0 (by decide), hj 1 (by decide), hj 2 (by decide)]; omega

theorem platesInFlight_pos {s : State} {k : Key} :
    0 < platesInFlight s k ↔ ∃ l, ∃ x ∈ (s.lane l).queue, x.state.inFlight = true ∧ x.key = k := by
  have hsum : 0 < platesInFlight s k ↔ ∃ l, 0 < (s.lane l).flying k := by
    rw [platesInFlight_eq]
    constructor
    · intro h
      by_contra hn
      have h0 : ∀ l, (s.lane l).flying k = 0 := fun l => by
        by_contra hl
        exact hn ⟨l, by omega⟩
      simp only [h0] at h
      omega
    · rintro ⟨l, h⟩
      match l with
      | 0 | 1 | 2 | 3 => omega
  rw [hsum]
  simp [Lane.flying, flies, List.countP_pos_iff]

/-- Of plates with different tags, those of one tag changed: a property then holds of the others as before, and of the
plate changed or not. -/
theorem countP_map_tag {q : List Plate} {p : Plate} (hn : (q.map Plate.tag).Nodup) (hp : p ∈ q) (P : Plate → Bool)
    (g : Plate → Plate) : (q.map fun x => if x.tag = p.tag then g x else x).countP P =
      (q.filter fun x => x.tag != p.tag).countP P + if P (g p) then 1 else 0 := by
  induction q with
  | nil => simp at hp
  | cons a q ih =>
    obtain ⟨ha, hq⟩ := List.nodup_cons.1 hn
    rcases List.mem_cons.1 hp with rfl | hp
    · have hne : ∀ x ∈ q, x.tag ≠ p.tag := fun x hx ht => ha (ht ▸ List.mem_map.2 ⟨x, hx, rfl⟩)
      have hmap : q.map (fun x => if x.tag = p.tag then g x else x) = q :=
        (List.map_congr_left fun x hx => if_neg (hne x hx)).trans (List.map_id' q)
      have hfilter : q.filter (fun x => x.tag != p.tag) = q := List.filter_eq_self.2 fun x hx => by simpa using hne x hx
      rw [List.map_cons, if_pos rfl, hmap, List.countP_cons, List.filter_cons_of_neg (by simp), hfilter]
    · have hne : a.tag ≠ p.tag := fun ht => ha (ht ▸ List.mem_map.2 ⟨p, hp, rfl⟩)
      rw [List.map_cons, if_neg hne, List.countP_cons, ih hq hp, List.filter_cons_of_pos (by simpa using hne),
        List.countP_cons]
      omega

theorem countP_without_tag {q : List Plate} {p : Plate} (hn : (q.map Plate.tag).Nodup) (hp : p ∈ q)
    (P : Plate → Bool) : q.countP P = (q.filter fun x => x.tag != p.tag).countP P + if P p then 1 else 0 := by
  have h := countP_map_tag hn hp P fun x => x
  simpa using h

/-! ### The promise on locks -/

theorem findPage_isSome_iff {s : State} {k : Key} :
    (s.findPage k).isSome = true ↔ ∃ f p, s.page f = some p ∧ p.key = k := by
  constructor
  · intro h
    obtain ⟨f, hf⟩ := Option.isSome_iff_exists.1 h
    exact ⟨f, findPage_eq_some hf⟩
  · rintro ⟨f, p, hp, hk⟩
    have hl := page_lt hp
    rw [State.findPage, List.findIdx?_isSome, List.any_eq_true]
    refine ⟨some p, ?_, by simp [holdsKey, hk]⟩
    have : s.pages[f] = some p := by simpa [State.page, List.getD_eq_getElem?_getD, hl] using hp
    exact this ▸ List.getElem_mem hl

/-- With no two records of one key, a page present is the one its key finds (R1). -/
theorem LocksSafe.findPage {s : State} (h : LocksSafe s) {f : Nat} {p : Page} (hp : s.page f = some p) :
    s.findPage p.key = some f := by
  obtain ⟨g, hg⟩ := Option.isSome_iff_exists.1 (findPage_isSome_iff.2 ⟨f, p, hp, rfl⟩)
  obtain ⟨q, hq, hk⟩ := findPage_eq_some hg
  rw [hg, h.keys g f q p hq hp hk]

/-- The locks stay right where each page's lock count and the plates in flight of its key move alike (R12). -/
theorem LocksSafe.of_moved {s t : State} (h : LocksSafe s)
    (pages : ∀ f q, t.page f = some q → ∃ p, s.page f = some p ∧ q.key = p.key ∧ q.lockCount ≤ 4 ∧
      q.lockCount + platesInFlight s p.key = p.lockCount + platesInFlight t p.key ∧
      (t.unpackerPage = some f → q.lockCount = 0))
    (present : ∀ k, 0 < platesInFlight t k → (t.findPage k).isSome = true)
    (buffers : ∀ l, (t.lane l).buffer.length ≤ (s.lane l).buffer.length) (profile : t.profile = s.profile) :
    LocksSafe t where
  keys f g p q hp hq hk := by
    obtain ⟨p', hp', hpk, -⟩ := pages f p hp
    obtain ⟨q', hq', hqk, -⟩ := pages g q hq
    exact h.keys f g p' q' hp' hq' (hpk.symm.trans (hk.trans hqk))
  locks f q hq := by
    obtain ⟨p, hp, hk, -, hm, -⟩ := pages f q hq
    have := h.locks f p hp
    rw [hk]
    omega
  lockLimit f q hq := by
    obtain ⟨p, -, -, hl, -⟩ := pages f q hq
    exact hl
  present l x hx hf := present x.key (platesInFlight_pos.2 ⟨l, x, hx, hf, rfl⟩)
  claimed f q hu hq := by
    obtain ⟨p, -, -, -, -, hc⟩ := pages f q hq
    exact hc hu
  buffers l := (buffers l).trans (h.buffers l)
  levels p hp := h.levels p (profile ▸ hp)

/-- What LocksSafe says of the plates in flight of a key: their page is present (R115). -/
theorem LocksSafe.present_of_pos {s : State} (h : LocksSafe s) {k : Key} (hk : 0 < platesInFlight s k) :
    (s.findPage k).isSome = true := by
  obtain ⟨l, x, hx, hf, rfl⟩ := platesInFlight_pos.1 hk
  exact h.present l x hx hf

/-- What the promise on locks goes by of a page record: its key and its lock count. -/
def Page.lock (p : Page) : Key × Nat := (p.key, p.lockCount)

theorem page_of_locks {s t : State} {f : Nat} (h : (t.page f).map Page.lock = (s.page f).map Page.lock) {q : Page}
    (hq : t.page f = some q) : ∃ p, s.page f = some p ∧ q.key = p.key ∧ q.lockCount = p.lockCount := by
  rw [hq] at h
  obtain ⟨p, hp, hl⟩ := Option.map_eq_some_iff.1 h.symm
  obtain ⟨hk, hc⟩ := Prod.mk.inj hl
  exact ⟨p, hp, hk.symm, hc.symm⟩

theorem findPage_isSome_congr {s t : State} (h : ∀ f, (t.page f).map Page.lock = (s.page f).map Page.lock) (k : Key) :
    (t.findPage k).isSome = (s.findPage k).isSome := by
  have half : ∀ {a b : State}, (∀ f, (b.page f).map Page.lock = (a.page f).map Page.lock) →
      (b.findPage k).isSome = true → (a.findPage k).isSome = true := by
    intro a b hab hb
    obtain ⟨f, q, hq, hk⟩ := findPage_isSome_iff.1 hb
    obtain ⟨p, hp, hpk, -⟩ := page_of_locks (hab f) hq
    exact findPage_isSome_iff.2 ⟨f, p, hp, hpk.symm.trans hk⟩
  rw [Bool.eq_iff_iff]
  exact ⟨half h, half fun f => (h f).symm⟩

/-- The locks stay right where pages keep keys and lock counts, and the plates in flight are as many of every key. -/
theorem LocksSafe.of_counts {s t : State} (h : LocksSafe s) (flight : ∀ k, platesInFlight t k = platesInFlight s k)
    (pages : ∀ f, (t.page f).map Page.lock = (s.page f).map Page.lock) (claim : t.unpackerPage = s.unpackerPage)
    (buffers : ∀ l, (t.lane l).buffer.length ≤ (s.lane l).buffer.length) (profile : t.profile = s.profile) :
    LocksSafe t := by
  refine h.of_moved (fun f q hq => ?_) (fun k hk => ?_) buffers profile
  · obtain ⟨p, hp, hk, hc⟩ := page_of_locks (pages f) hq
    exact ⟨p, hp, hk, hc ▸ h.lockLimit f p hp, by rw [hc, flight], fun hu => hc ▸ h.claimed f p (claim ▸ hu) hp⟩
  · rw [findPage_isSome_congr pages]
    exact h.present_of_pos (flight k ▸ hk)

/-! ### Locks taken and released -/

/-- Releasing a lock of a key lowers the lock count of the page of that key alone (R12). -/
theorem LocksSafe.releaseLock_page {s : State} (h : LocksSafe s) {k : Key} {f : Nat} {q : Page}
    (hq : (releaseLock k s).page f = some q) : ∃ p, s.page f = some p ∧ q.key = p.key ∧
      q.lockCount = if p.key = k then p.lockCount - 1 else p.lockCount := by
  unfold releaseLock at hq
  cases hk : s.findPage k with
  | none =>
    simp only [hk] at hq
    refine ⟨q, hq, rfl, (if_neg fun hqk => ?_).symm⟩
    have := findPage_isSome_iff.2 ⟨f, q, hq, hqk⟩
    simp [hk] at this
  | some g =>
    simp only [hk] at hq
    obtain ⟨p, hp, hpk⟩ := findPage_eq_some hk
    by_cases hf : f = g
    · subst hf
      rw [page_modPage _ hp] at hq
      obtain rfl := Option.some.inj hq
      exact ⟨p, hp, rfl, by rw [if_pos hpk]⟩
    · rw [page_modPage_ne _ _ hf] at hq
      refine ⟨q, hq, rfl, (if_neg fun hqk => hf ?_).symm⟩
      exact h.keys f g q p hq hp (hqk.trans hpk.symm)

theorem findPage_releaseLock (k j : Key) (s : State) : (releaseLock k s).findPage j = s.findPage j := by
  unfold releaseLock
  split
  · exact findPage_modPage _ _ (by intro; rfl) s j
  · rfl

/-- A plate of lane `l` that leaves flight, or was not in flight, gives its lock back if it held one (R12, R115). -/
theorem LocksSafe.of_leaves {s t : State} (h : LocksSafe s) {l : LaneId} {p : Plate}
    (pages : t.pages = (if p.state.inFlight then releaseLock p.key s else s).pages)
    (others : ∀ j, j ≠ l → (t.lane j).queue = (s.lane j).queue)
    (own : ∀ k, (s.lane l).flying k = (t.lane l).flying k + if flies k p then 1 else 0)
    (claim : t.unpackerPage = s.unpackerPage)
    (buffers : ∀ j, (t.lane j).buffer.length ≤ (s.lane j).buffer.length) (profile : t.profile = s.profile) :
    LocksSafe t := by
  have hcount : ∀ k, platesInFlight s k = platesInFlight t k + if flies k p then 1 else 0 := fun k => by
    have := platesInFlight_change others k
    have := own k
    omega
  have hpage : ∀ f q, t.page f = some q → ∃ p', s.page f = some p' ∧ q.key = p'.key ∧
      q.lockCount = p'.lockCount - if flies p'.key p then 1 else 0 := by
    intro f q hq
    rw [State.page, pages] at hq
    cases hf : p.state.inFlight with
    | true =>
      rw [hf, if_pos rfl] at hq
      obtain ⟨p', hp', hk, hc⟩ := h.releaseLock_page hq
      refine ⟨p', hp', hk, hc.trans ?_⟩
      by_cases hkey : p'.key = p.key
      · simp [flies, hf, hkey]
      · simp [flies, hf, hkey, Ne.symm hkey]
    | false =>
      rw [hf, if_neg (by simp)] at hq
      exact ⟨q, hq, rfl, by simp [flies, hf]⟩
  refine h.of_moved (fun f q hq => ?_) (fun k hk => ?_) buffers profile
  · obtain ⟨p', hp', hk, hc⟩ := hpage f q hq
    have hlock := h.locks f p' hp'
    have hlimit := h.lockLimit f p' hp'
    have hn := hcount p'.key
    refine ⟨p', hp', hk, by omega, by omega, fun hu => ?_⟩
    have := h.claimed f p' (claim ▸ hu) hp'
    omega
  · have hfind : t.findPage k = s.findPage k := by
      rw [findPage_congr pages]
      split
      · exact findPage_releaseLock _ _ _
      · rfl
    rw [hfind]
    exact h.present_of_pos (by have := hcount k; omega)

/-- A load granted takes a lock of a page that is not the Unpacker's and has a place for one (R12, R13, R14). -/
theorem loadRequest_granted {s : State} {k : Key} {r : Bool} {f : Nat} (h : loadRequest s k r = .granted f) :
    ∃ p, s.page f = some p ∧ p.key = k ∧ p.lockCount < 4 ∧ s.unpackerPage ≠ some f := by
  cases hp : s.present k with
  | none => rw [loadRequest_absent (present_eq_none.1 hp)] at h; cases h
  | some x =>
    obtain ⟨g, p⟩ := x
    have hg : g = f := by
      rw [loadRequest_present hp] at h
      split at h
      · cases h
      · exact LoadAnswer.granted.inj h
    subst hg
    obtain ⟨-, -, hu, -, -, -, hl⟩ := (loadRequest_granted_iff hp r).1 h
    exact ⟨p, (present_eq_some.1 hp).2, present_key hp, hl, hu⟩

/-- A QUEUED plate of lane `l` that begins LOADING takes a lock of its page (R12, R119). -/
theorem LocksSafe.of_loads {s t : State} (h : LocksSafe s) {l : LaneId} {k : Key} {r : Bool} {f : Nat}
    (granted : loadRequest s k r = .granted f) (pages : t.pages = (takeLock f s).pages)
    (others : ∀ j, j ≠ l → (t.lane j).queue = (s.lane j).queue)
    (own : ∀ j, (t.lane l).flying j = (s.lane l).flying j + if j = k then 1 else 0)
    (claim : t.unpackerPage = s.unpackerPage)
    (buffers : ∀ j, (t.lane j).buffer.length ≤ (s.lane j).buffer.length) (profile : t.profile = s.profile) :
    LocksSafe t := by
  obtain ⟨p, hp, hk, hl, hu⟩ := loadRequest_granted granted
  have hcount : ∀ j, platesInFlight t j = platesInFlight s j + if j = k then 1 else 0 := fun j => by
    have := platesInFlight_change others j
    have := own j
    omega
  have hfind : ∀ j, t.findPage j = s.findPage j := fun j => by
    rw [findPage_congr pages]
    exact findPage_modPage _ _ (by intro; rfl) s j
  refine h.of_moved (fun g q hq => ?_) (fun j hj => ?_) buffers profile
  · rw [State.page, pages] at hq
    by_cases hg : g = f
    · subst hg
      have hq' : (takeLock g s).page g = some q := hq
      rw [takeLock, page_modPage _ hp] at hq'
      obtain rfl := Option.some.inj hq'
      refine ⟨p, hp, rfl, hl, ?_, fun hc => absurd (claim ▸ hc) hu⟩
      rw [hcount, if_pos hk]
      simp only
      omega
    · have hq' : (takeLock f s).page g = some q := hq
      rw [takeLock, page_modPage_ne _ _ hg] at hq'
      have hne : q.key ≠ k := fun hqk => hg (h.keys g f q p hq' hp (hqk.trans hk.symm))
      exact ⟨q, hq', rfl, h.lockLimit g q hq', by rw [hcount, if_neg hne]; rfl,
        fun hc => h.claimed g q (claim ▸ hc) hq'⟩
  · rw [hfind]
    by_cases hjk : j = k
    · exact findPage_isSome_iff.2 ⟨f, p, hp, hk.trans hjk.symm⟩
    · have := hcount j
      rw [if_neg hjk] at this
      exact h.present_of_pos (by omega)

end Sys2Proof.Machine
end

section
/-! ## What keeps the promises on queues and locks -/

namespace Sys2Proof.Machine

/-! ### What the promises do not go by -/

/-- `t` differs from `s` in nothing that the promises on queues and locks go by, unless it has fewer rows buffered. -/
structure SameLocks (s t : State) : Prop where
  queue : ∀ l, (t.lane l).queue = (s.lane l).queue
  buffer : ∀ l, (t.lane l).buffer.length ≤ (s.lane l).buffer.length
  page : ∀ f, (t.page f).map Page.lock = (s.page f).map Page.lock
  claim : t.unpackerPage = s.unpackerPage
  profile : t.profile = s.profile

theorem SameLocks.refl (s : State) : SameLocks s s := ⟨fun _ => rfl, fun _ => le_rfl, fun _ => rfl, rfl, rfl⟩

theorem SameLocks.trans {s t u : State} (h : SameLocks s t) (k : SameLocks t u) : SameLocks s u where
  queue l := (k.queue l).trans (h.queue l)
  buffer l := (k.buffer l).trans (h.buffer l)
  page f := (k.page f).trans (h.page f)
  claim := k.claim.trans h.claim
  profile := k.profile.trans h.profile

theorem SameLocks.of_eq {s t : State} (hl : t.lanes = s.lanes) (hp : t.pages = s.pages)
    (hu : t.unpackerPage = s.unpackerPage) (hpr : t.profile = s.profile) : SameLocks s t :=
  ⟨fun l => by rw [lane_of_lanes hl], fun l => by rw [lane_of_lanes hl], fun f => by rw [State.page, hp]; rfl, hu, hpr⟩

theorem SameLocks.submit (r : Report) (s : State) : SameLocks s (submit r s) :=
  .of_eq (by simp) (by simp) (by simp) (by simp)

/-- One lane changed, but neither its queue nor with more rows. -/
theorem SameLocks.modLane {l : LaneId} {g : Lane → Lane} {s : State} (hq : (g (s.lane l)).queue = (s.lane l).queue)
    (hb : (g (s.lane l)).buffer.length ≤ (s.lane l).buffer.length) : SameLocks s (modLane l g s) := by
  refine ⟨fun k => ?_, fun k => ?_, fun _ => rfl, rfl, rfl⟩ <;> by_cases hk : k = l
  · rw [hk, lane_modLane, hq]
  · rw [lane_modLane_ne _ _ hk]
  · rw [hk, lane_modLane]; exact hb
  · rw [lane_modLane_ne _ _ hk]

/-- One page changed, but neither its key nor its locks. -/
theorem SameLocks.modPage (f : Nat) {g : Page → Page} (s : State) (h : ∀ p, (g p).lock = p.lock) :
    SameLocks s (modPage f g s) := by
  have hl : (Machine.modPage f g s).lanes = s.lanes := by simp
  refine ⟨fun l => by rw [lane_of_lanes hl], fun l => by rw [lane_of_lanes hl], fun k => ?_, by simp, by simp⟩
  by_cases hk : k = f
  · subst hk
    cases hp : s.page k with
    | none => simp [Machine.modPage, hp]
    | some p => rw [page_modPage _ hp, Option.map_some, Option.map_some, h]
  · rw [page_modPage_ne _ _ hk]

/-! ### The changes that go by them -/

/-- A plate changed in nothing that says who it is, whose it is, or how often it may try. -/
structure SamePlate (x y : Plate) : Prop where
  tag : y.tag = x.tag
  key : y.key = x.key
  lane : y.lane = x.lane
  attempt : y.attempt = x.attempt
  allowance : y.allowance = x.allowance

/-- The state without a page and without the QUEUED plates of its key, as a purge leaves it (R19). -/
def State.pageGone (s : State) (f : Nat) (k : Key) : State :=
  { s with
    lanes := ⟨s.lanes.q0.without k, s.lanes.q1.without k, s.lanes.q2.without k, s.lanes.q3.without k⟩
    pages := s.pages.set f none }

/-- A property kept by each of the changes that commands make to queues, locks, claims, buffers and levels, and by any
change that `SameLocks` allows. -/
structure OpsKeep (P : State → Prop) : Prop where
  queues : ∀ {s}, P s → QueuesSafe s
  same : ∀ {s t}, SameLocks s t → P s → P t
  reset : P State.reset
  /-- A plate changed in its notes alone. -/
  plate : ∀ {s} l tag {g}, (∀ x, SamePlate x (g x) ∧ (g x).state = x.state) → P s → P (modPlate l tag g s)
  /-- A plate in flight in a state of a plate on the drum, on which there is no other (R115). -/
  drum : ∀ {s l p g}, p ∈ (s.lane l).queue → p.state.inFlight = true →
    (s.lane l).front = some p ∨ (s.lane l).front = none →
    (∀ x, SamePlate x (g x) ∧ (g x).state.onDrum = true) → P s → P (modPlate l p.tag g s)
  /-- A QUEUED plate's load granted, where there is no back plate (R119). -/
  loads : ∀ {s l p f}, (∃ x ∈ (s.lane l).queue, x.tag = p.tag ∧ x.key = p.key ∧ x.state = .queued) →
    (s.lane l).back = none → loadRequest s p.key p.release = .granted f → P s → P (beginLoading l p f s)
  ends : ∀ {s p} e, p ∈ (s.lane p.lane).queue → P s → P (endPlate p e s)
  returns : ∀ {s p n}, p ∈ (s.lane p.lane).queue → 1 ≤ n → n ≤ p.allowance → P s → P (returnPlate p n s)
  accepts : ∀ {s p}, p.state = .queued → 1 ≤ p.attempt ∧ p.attempt ≤ p.allowance ∧ p.allowance ≤ 3 →
    p.tag ∉ liveTags s → (s.lane p.lane).queue.length < 16 → P s →
    P (modLane p.lane (fun L => { L with queue := placePlate p L.queue }) s)
  /-- A claim of an unlocked page granted (R14). -/
  claims : ∀ {s f p}, s.page f = some p → p.lockCount = 0 → P s → P { s with unpackerPage := some f }
  unclaims : ∀ {s}, P s → P { s with unpackerPage := none }
  /-- A page made in a FREE frame, of a key that none has (R1, R2). -/
  creates : ∀ {s f p}, s.page f = none → s.findPage p.key = none → p.lockCount = 0 → P s → P (setPage f (some p) s)
  /-- A page purged that has no locks, being the Unpacker's or for another reason (R12, R18). -/
  purges : ∀ {s f p}, s.page f = some p → p.lockCount = 0 ∨ s.unpackerPage = some f → P s →
    P (s.pageGone f p.key)
  /-- A row buffered below the high-water level (R107). -/
  row : ∀ {s l} m c bytes, (s.lane l).buffer.length < s.highWater l → P s → P (placeRow l m c bytes s)
  /-- A profile applied whose levels are in range (R161). -/
  levels : ∀ {s pr}, (∀ l, (pr.levels.get l).highWater ≤ 256) → P s → P { s with profile := some pr }

/-! ### The queues -/

theorem lane_pageGone (s : State) (f : Nat) (k : Key) (l : LaneId) :
    (s.pageGone f k).lane l = (s.lane l).without k := by
  match l with
  | 0 | 1 | 2 | 3 => rfl

theorem QueuesSafe.of_pageGone {s : State} (h : QueuesSafe s) (f : Nat) (k : Key) :
    QueuesSafe (s.pageGone f k) := by
  have hsub : ∀ l, ((s.pageGone f k).lane l).queue.Sublist (s.lane l).queue := fun l => by
    rw [lane_pageGone]
    exact List.filter_sublist
  rw [queuesSafe_iff] at h ⊢
  exact ⟨fun l => (h.1 l).sublist (hsub l), fun l j hlj x hx hy =>
    h.2 l j hlj x (((hsub l).map _).subset hx) (((hsub j).map _).subset hy)⟩

theorem queuesSafe_opsKeep : OpsKeep QueuesSafe where
  queues h := h
  same hs h := h.congr hs.queue
  reset := reset_queuesSafe
  plate l tag _ hg h := h.of_modPlate_state l tag _
    (fun x => ⟨(hg x).1.tag, (hg x).1.lane, (hg x).1.attempt, (hg x).1.allowance⟩) fun x => (hg x).2
  drum {s l p g} hp _ hf hg h := by
    refine h.of_modPlate l p.tag _ (fun x => ⟨(hg x).1.tag, (hg x).1.lane, (hg x).1.attempt, (hg x).1.allowance⟩) ?_
      (.inl fun x _ _ hx => ?_)
    · refine hf.imp_left fun hf x hx ht _ => ?_
      rw [(h.ok l).eq_of_tag hx hp ht]
      exact (Lane.front_mem hf).2
    · have hd := (hg x).2
      rw [hx] at hd
      cases hd
  loads _ hb _ h := h.of_beginLoading hb _ _
  ends e _ h := h.of_endPlate _ e
  returns hp ha hb h := h.of_returnPlate hp ha hb
  accepts hs ha ht hr h := h.of_placePlate _ hs ha ht hr
  claims _ _ h := h.of_lanes rfl
  unclaims h := h.of_lanes rfl
  creates _ _ _ h := h.of_lanes rfl
  purges _ _ h := h.of_pageGone _ _
  row m _ _ _ h := h.of_modLane_queue _ _ (by cases m <;> rfl)
  levels _ h := h.of_lanes rfl

/-! ### The queues with the locks -/

/-- The queues and the locks are safe. -/
structure LockedSafe (s : State) : Prop where
  queues : QueuesSafe s
  locks : LocksSafe s

theorem flying_modPlate {s : State} {l : LaneId} {tag : Tag} {g : Plate → Plate} {k : Key}
    (h : ∀ x ∈ (s.lane l).queue, x.tag = tag → flies k (g x) = flies k x) (j : LaneId) :
    ((modPlate l tag g s).lane j).flying k = (s.lane j).flying k := by
  by_cases hj : j = l
  · subst hj
    rw [modPlate, lane_modLane, Lane.flying, List.countP_map]
    refine List.countP_congr fun x hx => ?_
    by_cases ht : x.tag = tag
    · simp only [Function.comp_apply, if_pos ht, h x hx ht]
    · simp only [Function.comp_apply, if_neg ht]
  · rw [modPlate, lane_modLane_ne _ _ hj]

/-- A change of plates that keeps which of them are in flight, and of what key. -/
theorem LocksSafe.of_modPlate {s : State} (h : LocksSafe s) (l : LaneId) (tag : Tag) (g : Plate → Plate)
    (hg : ∀ k, ∀ x ∈ (s.lane l).queue, x.tag = tag → flies k (g x) = flies k x) : LocksSafe (modPlate l tag g s) := by
  refine h.of_counts (fun k => ?_) (fun _ => rfl) rfl (fun j => ?_) rfl
  · simp only [platesInFlight_eq, flying_modPlate (hg k)]
  · by_cases hj : j = l
    · rw [hj, modPlate, lane_modLane]
    · rw [modPlate, lane_modLane_ne _ _ hj]

theorem LocksSafe.of_same {s t : State} (h : LocksSafe s) (hs : SameLocks s t) : LocksSafe t :=
  h.of_counts (platesInFlight_congr hs.queue) hs.page hs.claim hs.buffer hs.profile

theorem LocksSafe.of_lateTest {s : State} (h : LocksSafe s) (l : LaneId) (tag : Tag) :
    LocksSafe (lateTest l tag s) := by
  rcases lateTest_cases l tag s with ht | ⟨p, ht⟩ <;> rw [ht]
  · exact h
  · exact (h.of_same (SameLocks.submit _ s)).of_modPlate _ _ _ fun _ _ _ _ => rfl

theorem LocksSafe.of_beginLoading {s : State} (h : LocksSafe s) {l : LaneId} (hq : QueueOk l (s.lane l).queue)
    {p : Plate} {f : Nat} (hp : ∃ x ∈ (s.lane l).queue, x.tag = p.tag ∧ x.key = p.key ∧ x.state = .queued)
    (hg : loadRequest s p.key p.release = .granted f) : LocksSafe (beginLoading l p f s) := by
  obtain ⟨x, hx, ht, hk, hs⟩ := hp
  unfold beginLoading
  split
  · have hl : ∀ j, (takeLock f s).lane j = s.lane j := lane_of_lanes (takeLock_lanes f s)
    refine h.of_loads (l := l) hg rfl (fun j hj => ?_) (fun k => ?_) (by simp [takeLock]) (fun j => ?_)
      (by simp [takeLock])
    · rw [lane_modLane_ne _ _ hj, modPlate, lane_modLane_ne _ _ hj, hl]
    · rw [lane_modLane, modPlate, lane_modLane, hl, Lane.flying, Lane.flying, countP_without_tag hq.tags hx,
        ← ht, countP_map_tag hq.tags hx]
      by_cases hkey : p.key = k
      · simp [flies, hs, PlateState.inFlight, hk, hkey]
      · simp [flies, hs, PlateState.inFlight, hk, hkey, Ne.symm hkey]
    · by_cases hj : j = l
      · rw [hj, lane_modLane, modPlate, lane_modLane, hl]
      · rw [lane_modLane_ne _ _ hj, modPlate, lane_modLane_ne _ _ hj, hl]
  · exact h

theorem releaseLock_pages_congr {s t : State} (h : t.pages = s.pages) (k : Key) :
    (releaseLock k t).pages = (releaseLock k s).pages := by
  have hpage : ∀ f, t.page f = s.page f := fun f => by rw [State.page, h]; rfl
  unfold releaseLock modPage
  rw [findPage_congr h]
  split
  · rw [hpage]
    split
    · simp only [setPage, h]
    · exact h
  · exact h

theorem releaseLock_unpackerPage (k : Key) (s : State) : (releaseLock k s).unpackerPage = s.unpackerPage := by
  unfold releaseLock
  split <;> simp

theorem releaseLock_profile (k : Key) (s : State) : (releaseLock k s).profile = s.profile := by
  unfold releaseLock
  split <;> simp

theorem LocksSafe.of_endPlate {s : State} (h : LocksSafe s) (hq : QueuesSafe s) {p : Plate}
    (hp : p ∈ (s.lane p.lane).queue) (e : PlateEnd) : LocksSafe (endPlate p e s) := by
  let r := plateOutcome p e.code e.cause
  have hlanes : (if p.state.inFlight then releaseLock p.key (submit r s) else submit r s).lanes = s.lanes := by
    split
    · rw [releaseLock_lanes, submit_lanes]
    · exact submit_lanes _ _
  have hlane := lane_of_lanes hlanes
  have hend : endPlate p e s = removePlate p.lane p.tag
      (if p.state.inFlight then releaseLock p.key (submit r s) else submit r s) := rfl
  rw [hend]
  refine h.of_leaves (l := p.lane) (p := p) ?_ (fun j hj => ?_) (fun k => ?_) ?_ (fun j => ?_) ?_
  · rw [removePlate_pages]
    split
    · exact releaseLock_pages_congr (submit_pages _ _) _
    · exact submit_pages _ _
  · rw [removePlate, lane_modLane_ne _ _ hj, hlane]
  · rw [removePlate, lane_modLane, hlane]
    exact countP_without_tag (hq.ok p.lane).tags hp _
  · rw [removePlate_unpackerPage]
    split
    · rw [releaseLock_unpackerPage, submit_unpackerPage]
    · exact submit_unpackerPage _ _
  · by_cases hj : j = p.lane
    · rw [hj, removePlate, lane_modLane, hlane]
    · rw [removePlate, lane_modLane_ne _ _ hj, hlane]
  · rw [removePlate_profile]
    split
    · rw [releaseLock_profile, submit_profile]
    · exact submit_profile _ _

theorem LocksSafe.of_returnPlate {s : State} (h : LocksSafe s) (hq : QueuesSafe s) {p : Plate}
    (hp : p ∈ (s.lane p.lane).queue) (n : Nat) : LocksSafe (returnPlate p n s) := by
  have hlane := lane_of_lanes (s := s) (t := if p.state.inFlight then releaseLock p.key s else s)
    (by split; exacts [releaseLock_lanes _ _, rfl])
  unfold returnPlate
  refine LocksSafe.of_lateTest ?_ _ _
  refine h.of_leaves (l := p.lane) (p := p) rfl (fun j hj => ?_) (fun k => ?_) ?_ (fun j => ?_) ?_
  · rw [lane_modLane_ne _ _ hj, hlane]
  · rw [lane_modLane, hlane, Lane.flying, countP_without_tag (hq.ok p.lane).tags hp, Lane.flying,
      List.countP_cons_of_neg (by simp [flies, PlateState.inFlight])]
  · rw [modLane_unpackerPage]
    split
    · exact releaseLock_unpackerPage _ _
    · rfl
  · by_cases hj : j = p.lane
    · rw [hj, lane_modLane, hlane]
    · rw [lane_modLane_ne _ _ hj, hlane]
  · rw [modLane_profile]
    split
    · exact releaseLock_profile _ _
    · rfl

theorem LocksSafe.of_placePlate {s : State} (h : LocksSafe s) {p : Plate} (hs : p.state = .queued) :
    LocksSafe (modLane p.lane (fun L => { L with queue := placePlate p L.queue }) s) := by
  have hl : ∀ (j : LaneId) {α : Type} (v : Lane → α), (∀ L : Lane, v { L with queue := placePlate p L.queue } = v L) →
      v ((modLane p.lane (fun L => { L with queue := placePlate p L.queue }) s).lane j) = v (s.lane j) := by
    intro j α v hv
    by_cases hj : j = p.lane
    · rw [hj, lane_modLane, hv]
    · rw [lane_modLane_ne _ _ hj]
  refine h.of_counts (fun k => ?_) (fun _ => rfl) rfl (fun j => (hl j (fun L => L.buffer.length) fun _ => rfl).le) rfl
  have hk : ∀ L : Lane, ({ L with queue := placePlate p L.queue } : Lane).flying k = L.flying k := fun L => by
    rw [Lane.flying, (placePlate_perm p L.queue).countP_eq,
      List.countP_cons_of_neg (by simp [flies, hs, PlateState.inFlight])]
    rfl
  simp only [platesInFlight_eq, hl _ (fun L => L.flying k) hk]

theorem LocksSafe.of_setPage_new {s : State} (h : LocksSafe s) {f : Nat} {p : Page} (hf : s.page f = none)
    (hk : s.findPage p.key = none) (hc : p.lockCount = 0) : LocksSafe (setPage f (some p) s) := by
  have hnew : ∀ g q, (setPage f (some p) s).page g = some q → q = p ∧ g = f ∨ s.page g = some q := fun g q hq => by
    by_cases hg : g = f
    · by_cases hl : f < s.pages.length
      · rw [hg, page_setPage _ _ hl] at hq
        exact .inl ⟨(Option.some.inj hq).symm, hg⟩
      · have : (setPage f (some p) s).pages = s.pages := List.set_eq_of_length_le (by omega)
        rw [State.page, this] at hq
        exact .inr hq
    · rw [page_setPage_ne _ _ hg] at hq
      exact .inr hq
  have hno : ∀ g q, s.page g = some q → q.key ≠ p.key := fun g q hq hqk => by
    have := findPage_isSome_iff.2 ⟨g, q, hq, hqk⟩
    simp [hk] at this
  have hzero : platesInFlight s p.key = 0 := by
    by_contra hn
    have := h.present_of_pos (k := p.key) (by omega)
    simp [hk] at this
  refine ⟨fun f' g' p' q' hp' hq' hkey => ?_, fun g q hq => ?_, fun g q hq => ?_, fun l x hx hx' => ?_,
    fun g q hu hq => ?_, h.buffers, h.levels⟩
  · rcases hnew f' p' hp' with ⟨hpp, hff⟩ | hps <;> rcases hnew g' q' hq' with ⟨hqp, hgf⟩ | hqs
    · exact hff.trans hgf.symm
    · exact absurd (hkey.symm.trans (congrArg Page.key hpp)) (hno g' q' hqs)
    · exact absurd (hkey.trans (congrArg Page.key hqp)) (hno f' p' hps)
    · exact h.keys f' g' p' q' hps hqs hkey
  · change q.lockCount = platesInFlight s q.key
    rcases hnew g q hq with ⟨rfl, rfl⟩ | hq
    · rw [hc, hzero]
    · exact h.locks g q hq
  · rcases hnew g q hq with ⟨rfl, rfl⟩ | hq
    · omega
    · exact h.lockLimit g q hq
  · obtain ⟨g, q, hq, hqk⟩ := findPage_isSome_iff.1 (h.present l x hx hx')
    have hg : g ≠ f := fun hg => by simp [hg, hf] at hq
    exact findPage_isSome_iff.2 ⟨g, q, by rw [page_setPage_ne _ _ hg]; exact hq, hqk⟩
  · rcases hnew g q hq with ⟨rfl, rfl⟩ | hq
    · exact hc
    · exact h.claimed g q hu hq

theorem LocksSafe.of_pageGone {s : State} (h : LocksSafe s) {f : Nat} {p : Page} (hp : s.page f = some p)
    (hc : p.lockCount = 0) : LocksSafe (s.pageGone f p.key) := by
  have hpage : ∀ g, (s.pageGone f p.key).page g = if g = f then none else s.page g := fun g => by
    have e : (s.pageGone f p.key).page g = (setPage f none s).page g := rfl
    rw [e]
    split
    · next hg => rw [hg, page_setPage _ _ (page_lt hp)]
    · next hg => exact page_setPage_ne _ _ hg
  have hcount : ∀ k, platesInFlight (s.pageGone f p.key) k = platesInFlight s k := fun k => by
    have hl : ∀ l, ((s.pageGone f p.key).lane l).flying k = (s.lane l).flying k := fun l => by
      rw [lane_pageGone, Lane.flying, Lane.without, List.countP_filter, Lane.flying]
      refine List.countP_congr fun x _ => ?_
      simp only [flies, Bool.and_eq_true]
      constructor
      · exact fun hx => hx.1
      · refine fun hx => ⟨hx, ?_⟩
        have : x.state ≠ .queued := fun hq => by simp [hq, PlateState.inFlight] at hx
        simp [this]
    simp only [platesInFlight_eq, hl]
  refine h.of_moved (fun g q hq => ?_) (fun k hk => ?_) (fun l => ?_) rfl
  · rw [hpage] at hq
    split at hq
    · cases hq
    · exact ⟨q, hq, rfl, h.lockLimit g q hq, by rw [hcount], fun hu => h.claimed g q hu hq⟩
  · rw [hcount] at hk
    obtain ⟨g, q, hq, hqk⟩ := findPage_isSome_iff.1 (h.present_of_pos hk)
    have hg : g ≠ f := fun hg => by
      subst hg
      obtain rfl := Option.some.inj (hp.symm.trans hq)
      have := h.locks g p hp
      rw [hqk] at this
      omega
    exact findPage_isSome_iff.2 ⟨g, q, by rw [hpage, if_neg hg]; exact hq, hqk⟩
  · rw [lane_pageGone]
    exact le_rfl

theorem LocksSafe.of_placeRow {s : State} (h : LocksSafe s) {l : LaneId} (m : RowMark) (c : Latched)
    (bytes : List Byte) (hb : (s.lane l).buffer.length < s.highWater l) : LocksSafe (placeRow l m c bytes s) := by
  have hhigh : s.highWater l ≤ 256 := by
    unfold State.highWater
    split
    · next p hp => exact h.levels p hp l
    · omega
  have hq : ∀ j, ((placeRow l m c bytes s).lane j).queue = (s.lane j).queue := fun j => by
    by_cases hj : j = l
    · rw [hj, placeRow, lane_modLane]; cases m <;> rfl
    · rw [placeRow, lane_modLane_ne _ _ hj]
  refine ⟨h.keys, fun f p hp => ?_, h.lockLimit, fun j x hx hf => ?_, h.claimed, fun j => ?_, h.levels⟩
  · rw [platesInFlight_congr hq]
    exact h.locks f p hp
  · rw [hq] at hx
    exact h.present j x hx hf
  · by_cases hj : j = l
    · rw [hj, placeRow, lane_modLane]
      cases m <;> simp <;> omega
    · rw [placeRow, lane_modLane_ne _ _ hj]
      exact h.buffers j

theorem lockedSafe_opsKeep : OpsKeep LockedSafe where
  queues h := h.queues
  same hs h := ⟨queuesSafe_opsKeep.same hs h.queues, h.locks.of_same hs⟩
  reset := ⟨reset_queuesSafe, reset_locksSafe⟩
  plate l tag g hg h := ⟨queuesSafe_opsKeep.plate l tag hg h.queues, h.locks.of_modPlate l tag g fun k x _ _ => by
    rw [flies, (hg x).2, (hg x).1.key]; rfl⟩
  drum {s l p g} hp hi hf hg h := ⟨queuesSafe_opsKeep.drum hp hi hf hg h.queues, by
    refine h.locks.of_modPlate l p.tag g fun k x hx ht => ?_
    have hfly : ∀ q : PlateState, q.onDrum = true → q.inFlight = true := fun q hq => by
      cases q with
      | queued | loading => cases hq
      | exposing | finishing | cancelling => rfl
    rw [flies, flies, hfly _ (hg x).2, (hg x).1.key, (h.queues.ok l).eq_of_tag hx hp ht, hi]⟩
  loads hp hb hg h := ⟨queuesSafe_opsKeep.loads hp hb hg h.queues, h.locks.of_beginLoading (h.queues.ok _) hp hg⟩
  ends e hp h := ⟨queuesSafe_opsKeep.ends e hp h.queues, h.locks.of_endPlate h.queues hp e⟩
  returns hp ha hb h := ⟨queuesSafe_opsKeep.returns hp ha hb h.queues, h.locks.of_returnPlate h.queues hp _⟩
  accepts hs ha ht hr h := ⟨queuesSafe_opsKeep.accepts hs ha ht hr h.queues, h.locks.of_placePlate hs⟩
  claims {s f p} hp hc h := ⟨queuesSafe_opsKeep.claims hp hc h.queues, { h.locks with
    claimed := fun g q hu hq => by
      obtain rfl : f = g := Option.some.inj hu
      obtain rfl := Option.some.inj (hp.symm.trans hq)
      exact hc }⟩
  unclaims h := ⟨queuesSafe_opsKeep.unclaims h.queues, { h.locks with claimed := fun _ _ hu => nomatch hu }⟩
  creates hf hk hc h := ⟨queuesSafe_opsKeep.creates hf hk hc h.queues, h.locks.of_setPage_new hf hk hc⟩
  purges hp hc h := ⟨queuesSafe_opsKeep.purges hp hc h.queues,
    h.locks.of_pageGone hp (hc.elim id fun hu => h.locks.claimed _ _ hu hp)⟩
  row m c bytes hb h := ⟨queuesSafe_opsKeep.row m c bytes hb h.queues, h.locks.of_placeRow m c bytes hb⟩
  levels {s pr} hl h := ⟨queuesSafe_opsKeep.levels hl h.queues, { h.locks with
    levels := fun p hp => by
      obtain rfl : pr = p := Option.some.inj hp
      exact hl }⟩

end Sys2Proof.Machine
end

section
/-! ## What every choice, lane event and order keeps -/

namespace Sys2Proof.Machine

section
variable {P : State → Prop} (k : OpsKeep P)
include k

/-! ### Choices and the Unpacker's reactions -/

/-- A change of no queue, page, claim or level. -/
theorem OpsKeep.elsewhere {s t : State} (h : P s) (hl : t.lanes = s.lanes) (hp : t.pages = s.pages)
    (hu : t.unpackerPage = s.unpackerPage) (hpr : t.profile = s.profile) : P t := k.same (.of_eq hl hp hu hpr) h

theorem OpsKeep.submit {s : State} (r : Report) (h : P s) : P (submit r s) := k.same (.submit r s) h

/-- A change of a lane in neither its queue nor its buffer. -/
theorem OpsKeep.modLane {s : State} (l : LaneId) {g : Lane → Lane} (hq : ∀ L, (g L).queue = L.queue)
    (hb : ∀ L, (g L).buffer.length ≤ L.buffer.length) (h : P s) : P (modLane l g s) :=
  k.same (.modLane (hq _) (hb _)) h

theorem OpsKeep.setHeld {s : State} (l : LaneId) (tag : Tag) (r : Option HeldReason) (h : P s) :
    P (setHeld l tag r s) := by
  unfold Machine.setHeld
  split
  · exact k.plate l tag (fun _ => ⟨⟨rfl, rfl, rfl, rfl, rfl⟩, rfl⟩) h
  · exact h

omit k in
/-- A held reason noted leaves every QUEUED plate in the queue, QUEUED. -/
theorem setHeld_queued {s : State} {l : LaneId} {p : Plate} (tag : Tag) (r : Option HeldReason)
    (h : ∃ x ∈ (s.lane l).queue, x.tag = p.tag ∧ x.key = p.key ∧ x.state = .queued) :
    ∃ x ∈ ((setHeld l tag r s).lane l).queue, x.tag = p.tag ∧ x.key = p.key ∧ x.state = .queued := by
  obtain ⟨x, hx, hp⟩ := h
  unfold Machine.setHeld
  split
  · next e =>
    rw [modPlate, lane_modLane]
    refine ⟨_, List.mem_map_of_mem hx, ?_⟩
    by_cases ht : x.tag = tag
    · rw [if_pos ht]; exact hp
    · rw [if_neg ht]; exact hp
  · exact ⟨x, hx, hp⟩

theorem OpsKeep.choiceEmpty {s : State} (l : LaneId) (h : P s) : P (choiceEmpty l s) := by
  unfold Machine.choiceEmpty
  split
  · exact k.modLane l (fun _ => rfl) (fun _ => le_rfl) h
  · split
    · exact h
    · split
      · exact h
      · exact k.modLane l (fun _ => rfl) (fun _ => le_rfl) (k.submit _ h)

theorem OpsKeep.chooseFrom {l : LaneId} (ps : List Plate) {s : State}
    (hp : ∀ p ∈ ps, ∃ x ∈ (s.lane l).queue, x.tag = p.tag ∧ x.key = p.key ∧ x.state = .queued)
    (hb : (s.lane l).back = none) (h : P s) : P (chooseFrom l ps s) := by
  induction ps generalizing s with
  | nil => exact k.choiceEmpty l h
  | cons p ps ih =>
    obtain ⟨hp, hps⟩ := List.forall_mem_cons.1 hp
    unfold Machine.chooseFrom
    split
    · next hg => exact k.loads hp hb hg h
    · exact ih (fun q hq => setHeld_queued _ _ (hps q hq)) (setHeld_back hb _ _) (k.setHeld l _ _ h)

theorem OpsKeep.choose {s : State} (l : LaneId) (h : P s) : P (choose l s) := by
  unfold Machine.choose
  split
  · next hc =>
    refine k.chooseFrom _ (fun p hp => ?_) hc.2 h
    obtain ⟨hm, hs⟩ := Lane.mem_queued.1 hp
    exact ⟨p, hm, rfl, rfl, hs⟩
  · exact h

/-- A grant of a segment's claim is of an unlocked page (R14). -/
theorem OpsKeep.grantClaim {s : State} (g : Segment) {f : Nat} (hg : headerClaim s g.header = .granted f) (h : P s) :
    P (grantClaim g f s) := by
  unfold headerClaim at hg
  split at hg
  · cases hg
  · next n p hp =>
    split at hg
    · split at hg
      · next hc =>
        obtain rfl := ClaimAnswer.granted.inj hg
        exact k.elsewhere (k.claims (present_eq_some.1 hp).2 hc h) rfl rfl rfl rfl
      · cases hg
    · cases hg

theorem OpsKeep.claimNow {s : State} (h : P s) : P (claimNow s) := by
  unfold Machine.claimNow
  split
  · split
    · next hg => exact k.grantClaim _ hg h
    · exact h
    · exact h
  · exact h

theorem OpsKeep.takeUp {s : State} (e : LandedEntry) (h : P s) : P (takeUp e s) := by
  have hi : P { s with unpacker := .working e.seg .taken, payloadRead := Reading.start } :=
    k.elsewhere h rfl rfl rfl rfl
  unfold Machine.takeUp undefer
  split
  · exact k.same (.modPage _ _ fun _ => rfl) hi
  · exact hi

/-- Reactions keep what the changes they are made of keep (R17, R42, R119). -/
theorem OpsKeep.reactions : ReactionsKeep P where
  lane l _ h := k.choose l h
  take e _ h := k.takeUp e h
  claim _ h := k.claimNow h
  free _ h := k.elsewhere h rfl rfl rfl rfl

/-! ### Plates on their lane -/

omit k in
theorem startReady_plates {s : State} {l : LaneId} {p : Plate} {c : Latched} (h : startReady s l = some (p, c)) :
    (s.lane l).front = none ∧ (s.lane l).back = some p := by
  refine ⟨startReady_front h, ?_⟩
  unfold startReady at h
  split at h
  · next hb _ =>
    split at h
    · obtain ⟨rfl, -⟩ := Prod.mk.inj (Option.some.inj h)
      exact hb
    · cases h
  · cases h

theorem OpsKeep.sendStart {s : State} {l : LaneId} {p : Plate} (hf : (s.lane l).front = none)
    (hb : (s.lane l).back = some p) (c : Latched) (h : P s) : P (sendStart l p c s) := by
  unfold Machine.sendStart sendMsg
  obtain ⟨hm, hs⟩ := Lane.back_mem hb
  refine k.modLane l (fun _ => rfl) (fun _ => by simp) (k.drum ?_ (by rw [hs]; rfl) ?_ ?_
    (k.modLane l (fun _ => rfl) (fun _ => le_rfl) h))
  · rw [lane_modLane]; exact hm
  · rw [lane_modLane]; exact .inr hf
  · exact fun _ => ⟨⟨rfl, rfl, rfl, rfl, rfl⟩, rfl⟩

theorem OpsKeep.tryStart {s : State} (l : LaneId) (h : P s) : P (tryStart l s) := by
  unfold Machine.tryStart
  split
  · next hs => exact k.choose l (k.sendStart (startReady_plates hs).1 (startReady_plates hs).2 _ h)
  · exact h

theorem OpsKeep.startThenChoose {s : State} (l : LaneId) (h : P s) : P (startThenChoose l s) := by
  unfold Machine.startThenChoose
  split
  · next hs => exact k.choose l (k.sendStart (startReady_plates hs).1 (startReady_plates hs).2 _ h)
  · exact k.choose l h

theorem OpsKeep.lateTest {s : State} (l : LaneId) (tag : Tag) (h : P s) : P (lateTest l tag s) := by
  rcases lateTest_cases l tag s with ht | ⟨p, ht⟩ <;> rw [ht]
  · exact h
  · exact k.plate l tag (fun _ => ⟨⟨rfl, rfl, rfl, rfl, rfl⟩, rfl⟩) (k.submit _ h)

theorem OpsKeep.dropFront {s : State} (l : LaneId) (h : P s) : P (dropFront l s) :=
  k.modLane l (fun _ => rfl) (fun _ => List.length_filter_le _ _) h

theorem OpsKeep.dropBack {s : State} (l : LaneId) (h : P s) : P (dropBack l s) :=
  k.modLane l (fun _ => rfl) (fun _ => List.length_filter_le _ _) h

theorem OpsKeep.giveBack {s : State} (l : LaneId) (h : P s) : P (giveBack l s) := by
  unfold Machine.giveBack
  split
  · next p hp =>
    have hm := (Lane.back_mem hp).1
    obtain rfl := ((k.queues h).ok l).own p hm
    have ha := ((k.queues h).ok _).attempts p hm
    refine k.returns ?_ ha.1 ha.2.1 (k.dropBack _ h)
    rw [Machine.dropBack, lane_modLane]
    exact hm
  · exact h

theorem OpsKeep.spoil {s : State} (p : Plate) (c : SpoilCause) (h : P s) : P (spoil p c s) := by
  unfold Machine.spoil
  exact k.modLane _ (fun _ => rfl) (fun _ => le_rfl)
    (k.plate _ _ (fun _ => ⟨⟨rfl, rfl, rfl, rfl, rfl⟩, rfl⟩) (k.submit _ h))

/-- CANCEL for a plate whose tag is that of the plate on the drum (R138). -/
theorem OpsKeep.cancelFront {s : State} {p q : Plate} (hq : (s.lane p.lane).front = some q) (ht : q.tag = p.tag)
    (h : P s) : P (cancelFront p s) := by
  unfold Machine.cancelFront sendMsg
  obtain ⟨hm, hd⟩ := Lane.front_mem hq
  have hi : q.state.inFlight = true := by
    revert hd
    cases q.state with
    | queued | loading => exact fun hd => nomatch hd
    | exposing | finishing | cancelling => exact fun _ => rfl
  rw [← ht]
  refine k.dropFront _ (k.drum (p := q) ?_ hi ?_ ?_ (k.modLane _ (fun _ => rfl) (fun _ => le_rfl) h))
  · rw [lane_modLane]; exact hm
  · rw [lane_modLane]; exact .inl hq
  · exact fun _ => ⟨⟨rfl, rfl, rfl, rfl, rfl⟩, rfl⟩

omit k in
/-- A plate spoiled stays on the drum (R122). -/
theorem front_spoil {s : State} (hs : QueuesSafe s) {p : Plate} (hp : (s.lane p.lane).front = some p)
    (c : SpoilCause) : ((spoil p c s).lane p.lane).front = some { p with spoil := some c } := by
  rw [spoil, lane_modLane, modPlate, lane_modLane, lane_of_lanes (submit_lanes _ _)]
  exact find?_map_tag (g := fun x => { x with spoil := some c }) (hs.ok p.lane).tags hp (Lane.front_mem hp).2

theorem OpsKeep.resolveFront {s : State} (l : LaneId) (h : P s) : P (resolveFront l s) := by
  unfold Machine.resolveFront
  split
  · exact h
  · next p hp =>
    have hm := (Lane.front_mem hp).1
    obtain rfl := ((k.queues h).ok l).own p hm
    have ha := ((k.queues h).ok _).attempts p hm
    have hd : p ∈ ((Machine.dropFront p.lane s).lane p.lane).queue := by
      rw [Machine.dropFront, lane_modLane]
      exact hm
    simp only
    split
    · exact k.submit _ (k.ends _ hd (k.dropFront _ h))
    · split
      · exact k.returns hd (by omega) (by omega) (k.dropFront _ h)
      · exact k.ends _ hd (k.dropFront _ h)

theorem OpsKeep.leaveFront {s : State} (l : LaneId) (before : State) (h : P s) : P (leaveFront l before s) := by
  unfold Machine.leaveFront
  split
  · exact k.startThenChoose l h
  · exact k.tryStart l h

/-! ### Setter messages, feeding and rows -/

theorem OpsKeep.takeMessage {s : State} (l : LaneId) (h : P s) : P (takeMessage l s) := by
  have hm : ∀ (g : Lane → Lane) {t : State}, (∀ L, (g L).queue = L.queue) → (∀ L, (g L).buffer = L.buffer) → P t →
      P (Machine.modLane l g t) := fun g _ hq hb ht => k.modLane l hq (fun L => (congrArg List.length (hb L)).le) ht
  unfold Machine.takeMessage
  simp only
  split
  · exact k.submit _ (hm _ (fun _ => rfl) (fun _ => rfl) (hm _ (fun _ => rfl) (fun _ => rfl) h))
  · exact hm _ (fun _ => rfl) (fun _ => rfl) h

theorem OpsKeep.finishFront {s : State} {l : LaneId} {p : Plate} (hp : (s.lane l).front = some p)
    (hs : p.state = .exposing) (h : P s) : P (finishFront l p s) := by
  unfold Machine.finishFront sendMsg
  refine k.modLane _ (fun _ => rfl) (fun _ => le_rfl) (k.drum (p := p) ?_ (by rw [hs]; rfl) ?_ ?_
    (k.modLane _ (fun _ => rfl) (fun _ => le_rfl) h))
  · rw [lane_modLane]; exact (Lane.front_mem hp).1
  · rw [lane_modLane]; exact .inl hp
  · exact fun _ => ⟨⟨rfl, rfl, rfl, rfl, rfl⟩, rfl⟩

theorem OpsKeep.feed {l : LaneId} (n : Nat) {s : State} (h : P s) : P (feed l n s) := by
  induction n generalizing s with
  | zero => exact h
  | succ n ih =>
    unfold Machine.feed
    split
    · next p r rest hp hb =>
      split
      · next hc =>
        have hsent : P (sendRow l r rest s) := by
          unfold sendRow sendMsg
          refine k.same (.modLane rfl ?_) (k.modLane l (fun _ => rfl) (fun _ => le_rfl) h)
          rw [lane_modLane, hb]
          exact Nat.le_succ _
        have hfront : ((sendRow l r rest s).lane l).front = some p := by
          rw [sendRow, lane_modLane, sendMsg, lane_modLane]
          exact hp
        simp only
        split
        · exact k.finishFront hfront hc.1 hsent
        · exact ih hsent
      · exact h
    · exact h

theorem OpsKeep.readyTaken {s : State} (l : LaneId) (h : P s) : P (readyTaken l s) := by
  unfold Machine.readyTaken
  split
  · exact k.tryStart l (k.modLane l (fun _ => rfl) (fun _ => le_rfl) h)
  · exact k.submit _ h

/-- A plate on the drum spoiled and cancelled (R122, R138). -/
theorem OpsKeep.spoilCancel {s : State} {l : LaneId} {p : Plate} (hp : (s.lane l).front = some p) (c : SpoilCause)
    (h : P s) : P (Machine.cancelFront p (Machine.spoil p c s)) := by
  obtain rfl := ((k.queues h).ok l).own p (Lane.front_mem hp).1
  exact k.cancelFront (front_spoil (k.queues h) hp c) rfl (k.spoil p c h)

theorem OpsKeep.pullTaken {s : State} (l : LaneId) (n : BitVec 16) (h : P s) : P (pullTaken l n s) := by
  unfold Machine.pullTaken
  split
  · next p hp =>
    split
    · exact k.submit _ h
    · split
      · split
        · unfold underrun
          rw [hp]
          exact k.spoilCancel hp _ h
        · exact k.feed _ (k.modLane l (fun _ => rfl) (fun _ => le_rfl) h)
      · split
        · exact h
        · exact k.submit _ h
  · exact k.submit _ h

theorem OpsKeep.exposeFront {s : State} {l : LaneId} {p : Plate} (hp : (s.lane l).front = some p) (h : P s) :
    P (exposeFront l p s) := by
  have hm := (Lane.front_mem hp).1
  obtain rfl := ((k.queues h).ok l).own p hm
  have he : P (endPlate p .exposed (Machine.dropFront p.lane s)) := by
    refine k.ends _ ?_ (k.dropFront _ h)
    rw [Machine.dropFront, lane_modLane]
    exact hm
  unfold Machine.exposeFront
  simp only
  split
  · exact k.submit _ he
  · exact he

theorem OpsKeep.exposedTaken {s : State} (l : LaneId) (tag : Tag) (h : P s) : P (exposedTaken l tag s) := by
  unfold Machine.exposedTaken
  split
  · next p hp =>
    split
    · exact k.reactions.settleLocks _ _ (k.tryStart l (k.exposeFront hp h))
    · exact k.submit _ h
  · exact k.submit _ h

theorem OpsKeep.ejectedTaken {s : State} (l : LaneId) (tag : Tag) (h : P s) : P (ejectedTaken l tag s) := by
  unfold Machine.ejectedTaken
  split
  · split
    · exact k.reactions.settleLocks _ _ (k.leaveFront l s (k.resolveFront l h))
    · exact k.submit _ h
  · exact k.submit _ h

theorem OpsKeep.faultTaken {s : State} (l : LaneId) (c : FaultCause) (h : P s) : P (faultTaken l c s) := by
  have hf : P (faultFront l s) := by
    unfold faultFront
    split
    · split
      · exact k.resolveFront l h
      · exact k.resolveFront l (k.spoil _ _ h)
    · exact h
  unfold Machine.faultTaken
  refine k.reactions.settleLocks _ _ (k.submit _ (k.modLane l (fun _ => rfl) (fun _ => le_rfl) ?_))
  split
  · exact k.leaveFront l s hf
  · exact hf

theorem OpsKeep.takeLoss {s : State} (l : LaneId) (h : P s) : P (takeLoss l s) := by
  have hl : ∀ {t : State}, P t → P (lossFront l t) := fun ht => by
    unfold lossFront
    split
    · split
      · exact k.resolveFront l ht
      · exact k.resolveFront l (k.spoil _ _ ht)
    · exact ht
  unfold Machine.takeLoss
  exact k.reactions.settleLocks _ _ (k.modLane l (fun _ => rfl) (fun _ => Nat.zero_le _)
    (hl (k.giveBack l (k.submit _ (k.modLane l (fun _ => rfl) (fun _ => le_rfl) h)))))

theorem OpsKeep.storeError {s : State} (l : LaneId) (m : RowMark) (h : P s) : P (storeError l m s) := by
  unfold Machine.storeError
  split
  · split
    · next p hp =>
      split
      · exact k.spoilCancel hp _ h
      · exact h
    · exact h
  · exact k.reactions.settleLocks _ _ (k.choose l (k.giveBack l h))

theorem OpsKeep.rowPlaced {s : State} (l : LaneId) (m : RowMark) (h : P s) : P (rowPlaced l m s) := by
  cases m
  · exact k.feed _ h
  · exact k.tryStart l h

end

end Sys2Proof.Machine
end

section
/-! ## What every row, order, host request and reset keeps -/

namespace Sys2Proof.Machine

/-! ### Port, flags and rows beside queues and locks -/

/-- What the memory port moves is beside queues and locks (R156). -/
theorem PortMoves.sameLocks {s t : State} (h : PortMoves s t) : SameLocks s t where
  queue l := by
    have hl := congrArg Lane.queue (h.lanes l)
    exact hl
  buffer l := by
    have hl := congrArg (fun L : Lane => L.buffer.length) (h.lanes l)
    exact hl.le
  page f := by rw [h.state]; rfl
  claim := by rw [h.state]
  profile := by rw [h.state]

theorem SameLocks.noteRowGrant (l : LaneId) (c : Latched) (s : State) : SameLocks s (noteRowGrant l c s) := by
  unfold Machine.noteRowGrant
  split
  · exact (noteGrant_moves l s).sameLocks.trans (.of_eq rfl rfl rfl rfl)
  · exact .refl s

theorem SameLocks.recount (f : Nat) (tiles : List (Nat × Nat)) (before s : State) :
    SameLocks s (recount f tiles before s) := .modPage f s fun _ => rfl

theorem modFlagsOf_lock (p : Page) (g : TileFlags → TileFlags) (ts : List (Nat × Nat)) :
    (p.modFlagsOf g ts).lock = p.lock := by rw [modFlagsOf_eq]; rfl

theorem SameLocks.setPhotoFlags (f : Nat) (v : Bool) (ts : List (Nat × Nat)) (s : State) :
    SameLocks s (setPhotoFlags f v ts s) := .modPage f s fun p => modFlagsOf_lock p _ ts

theorem SameLocks.raiseFlag (r : FlagRequest) (s : State) : SameLocks s (raiseFlag r s) := by
  have store : SameLocks s (raiseStore r.frame r.tx r.ty s) := by
    unfold raiseStore
    refine SameLocks.trans ?_ (.recount _ _ _ _)
    exact .modPage _ s fun _ => rfl
  unfold Machine.raiseFlag
  split
  · split
    · split
      · exact store
      · exact store
      · unfold raiseSpoilt
        refine SameLocks.trans ?_ (.recount _ _ _ _)
        exact .of_eq rfl rfl rfl rfl
    · exact .refl s
  · exact .refl s

theorem SameLocks.raiseFlag? (r : Option FlagRequest) (s : State) : SameLocks s (raiseFlag? r s) := by
  cases r with
  | none => exact .refl s
  | some q => exact .raiseFlag q s

theorem SameLocks.composeRow (c : Context) (y : Nat) (row : List SpanWork) (s : State) :
    SameLocks s (composeRow c y row s).state := by
  have fold : ∀ (ts : List Nat) (r : RowResult), SameLocks r.state (ts.foldl (addSpan c y row) r).state := by
    intro ts
    induction ts with
    | nil => exact fun r => .refl _
    | cons tx ts ih =>
      refine fun r => SameLocks.trans ?_ (ih _)
      unfold addSpan
      split
      · exact .raiseFlag? _ _
      · exact .refl _
  exact fold (List.range c.tw) ⟨s, [], false⟩

/-! ### The levels of a valid profile -/

/-- A profile judged valid has high-water levels of 256 at most (R161, R162). -/
theorem levels_of_valid {got : List (Option (List Byte))} {p : Profile} (h : judge got = .valid p) (l : LaneId) :
    (p.levels.get l).highWater ≤ 256 := by
  have key : ∀ bs, judgeBytes bs = .valid p → ∀ n, n < 4 → (levelsOf bs n).highWater ≤ 256 := by
    intro bs hb n hn
    unfold judgeBytes at hb
    split at hb
    · cases hb
    · split at hb
      · cases hb
      · split at hb
        · cases hb
        · split at hb
          · cases hb
          · next hf =>
            have hfind := Option.map_eq_none_iff.1 hf
            have hall := List.find?_eq_none.1 hfind
              (laneEntry n + 4, decide (16 ≤ fieldAt bs (laneEntry n + 4) 2 ∧ fieldAt bs (laneEntry n + 4) 2 ≤ 256))
              (List.mem_cons_of_mem _ (List.mem_append_left _ (List.mem_append_left _
                (List.mem_flatMap.2 ⟨n, List.mem_range.2 hn, by simp [laneTests]⟩))))
            simp only [Bool.not_eq_true', decide_eq_false_iff_not, not_not] at hall
            exact hall.2
  have profile : ∀ bs, judgeBytes bs = .valid p → p = profileOf bs := by
    intro bs hb
    unfold judgeBytes at hb
    split at hb
    · cases hb
    · split at hb
      · cases hb
      · split at hb
        · cases hb
        · split at hb
          · cases hb
          · exact (Judgement.valid.inj hb).symm
  unfold judge at h
  split at h
  · cases h
  · have hlevels := key _ h
    rw [profile _ h]
    match l with
    | 0 => exact hlevels 0 (by decide)
    | 1 => exact hlevels 1 (by decide)
    | 2 => exact hlevels 2 (by decide)
    | 3 => exact hlevels 3 (by decide)

section
variable {P : State → Prop} (k : OpsKeep P)
include k

/-! ### Rows -/

theorem OpsKeep.rowComposed {s : State} (l : LaneId) (h : P s) : P (rowComposed l s) := by
  unfold Machine.rowComposed
  split
  · next m c hr =>
    split
    · exact h
    · have hb : (s.lane l).buffer.length < s.highWater l := by
        unfold rowInHand at hr
        split at hr
        · next hc => exact hc.2
        · cases hr
      have hs : SameLocks s (composeRow c.ctx c.composed c.row (noteRowGrant l c s)).state :=
        (SameLocks.noteRowGrant l c s).trans (.composeRow _ _ _ _)
      have hhigh : (composeRow c.ctx c.composed c.row (noteRowGrant l c s)).state.highWater l = s.highWater l := by
        rw [State.highWater, hs.profile]; rfl
      have hp : P (placeRow l m c (composeRow c.ctx c.composed c.row (noteRowGrant l c s)).bytes
          (composeRow c.ctx c.composed c.row (noteRowGrant l c s)).state) :=
        k.row m c _ (by rw [hhigh]; exact lt_of_le_of_lt (hs.buffer l) hb) (k.same hs h)
      unfold composeNext
      simp only
      split
      · exact k.storeError l m hp
      · exact k.rowPlaced l m hp
  · exact h

/-! ### Orders -/

theorem OpsKeep.takeOrder {s : State} (h : P s) : P (takeOrder s) := by
  unfold Machine.takeOrder
  split
  · exact k.elsewhere h rfl rfl rfl rfl
  · exact h

theorem OpsKeep.finishOrder {s : State} (h : P s) : P (finishOrder s) :=
  k.takeOrder (k.elsewhere h rfl rfl rfl rfl)

theorem OpsKeep.answer {s : State} (o : Order) (oc : OrderOutcome) (h : P s) : P (answer o oc s) := k.submit _ h

theorem OpsKeep.handleOrder {kind : Byte} {decideIt : Order → State → State} {s : State}
    (hd : ∀ o, P (decideIt o s)) (h : P s) : P (handleOrder kind decideIt s) := by
  unfold Machine.handleOrder
  split
  · split
    · exact k.finishOrder (hd _)
    · exact h
  · exact h

theorem OpsKeep.assembleBytes (bs : List Byte) {s : State} (h : P s) : P (assembleBytes bs s).2 := by
  induction bs generalizing s with
  | nil => exact h
  | cons b bs ih =>
    unfold Machine.assembleBytes
    split
    · exact ih (k.elsewhere h rfl rfl rfl rfl)
    · split
      · exact ih (k.takeOrder (k.elsewhere h rfl rfl rfl rfl))
      · exact k.elsewhere h rfl rfl rfl rfl

theorem OpsKeep.offerOrder {s : State} (a : Addr) (bs : List Byte) (h : P s) : P (offerOrder a bs s) := by
  have ha := k.assembleBytes bs h
  unfold Machine.offerOrder settleOrder
  simp only
  split
  · exact k.elsewhere ha rfl rfl rfl rfl
  · exact k.elsewhere ha rfl rfl rfl rfl

theorem OpsKeep.recordQueued {s : State} (h : P s) : P (recordQueued s) := by
  unfold Machine.recordQueued
  split
  · split
    · exact k.offerOrder _ _ (k.takeOrder (k.elsewhere h rfl rfl rfl rfl))
    · exact h
  · exact h

theorem OpsKeep.orderTimeout {s : State} (h : P s) : P (orderTimeout s) := by
  unfold Machine.orderTimeout
  split
  · split
    · exact k.submit _ (k.elsewhere h rfl rfl rfl rfl)
    · exact h
  · exact h

theorem OpsKeep.acceptPlate {s : State} {o : Order} {l : LaneId} (ht : o.tag ∉ liveTags s)
    (hr : (s.lane l).queue.length < 16) (h : P s) : P (acceptPlate o l s) := by
  unfold Machine.acceptPlate
  refine k.choose l (k.lateTest l _ (k.submit _ (k.accepts (p := newPlate o l) rfl ?_ ht hr h)))
  change 1 ≤ 1 ∧ 1 ≤ clampAllowance o.allowance ∧ clampAllowance o.allowance ≤ 3
  unfold clampAllowance
  omega

theorem OpsKeep.decideQueue {s : State} (o : Order) (h : P s) : P (decideQueue o s) := by
  unfold Machine.decideQueue
  split
  · exact k.answer _ _ h
  · split
    · exact k.answer _ _ h
    · split
      · exact k.answer _ _ h
      · next ht =>
        split
        · exact k.answer _ _ h
        · exact k.acceptPlate (fun hm => ht (findPlate_isSome.2 hm)) (by omega) h

omit k in
/-- What finding a plate by its tag says of it (R117). -/
theorem findPlate_eq_some {s : State} {tag : Tag} {l : LaneId} {p : Plate} (h : s.findPlate tag = some (l, p)) :
    p ∈ (s.lane l).queue ∧ p.tag = tag := by
  obtain ⟨j, -, hj⟩ := List.exists_of_findSome?_eq_some h
  obtain ⟨q, hq, hjq⟩ := Option.map_eq_some_iff.1 hj
  obtain ⟨rfl, rfl⟩ := Prod.mk.inj hjq
  exact ⟨List.mem_of_find?_eq_some hq, by simpa using List.find?_some hq⟩

omit k in
/-- In a safe queue the plate found on the drum is the one that is there (R115). -/
theorem QueueOk.front_eq {l : LaneId} {L : Lane} (h : QueueOk l L.queue) {p : Plate} (hp : p ∈ L.queue)
    (hd : p.state.onDrum = true) : L.front = some p := by
  cases hf : L.front with
  | none =>
    have := Lane.front_eq_none.1 hf p hp
    simp [hd] at this
  | some q =>
    by_contra hne
    have hpq : p.tag ≠ q.tag := fun ht => hne (by rw [h.eq_of_tag hp (Lane.front_mem hf).1 ht])
    have := h.front_filter hf p (List.mem_filter.2 ⟨hp, by simpa using hpq⟩)
    simp [hd] at this

omit k in
/-- A plate noted for a withdraw stays the plate on the drum (R125). -/
theorem front_withdrawPending {s : State} {l : LaneId} {p : Plate} (hq : QueueOk l (s.lane l).queue)
    (hp : (s.lane l).front = some p) :
    ((modPlate l p.tag (fun x => { x with withdrawPending := true }) s).lane l).front =
      some { p with withdrawPending := true } := by
  rw [modPlate, lane_modLane]
  exact find?_map_tag (g := fun x => { x with withdrawPending := true }) hq.tags hp (Lane.front_mem hp).2

theorem OpsKeep.decideWithdraw {s : State} (o : Order) (h : P s) : P (decideWithdraw o s) := by
  unfold Machine.decideWithdraw
  split
  · exact k.answer _ _ h
  · next l p hp =>
    obtain ⟨hm, -⟩ := findPlate_eq_some hp
    have hq := (k.queues h).ok l
    obtain rfl := hq.own p hm
    have hpend : P (modPlate p.lane p.tag (fun x => { x with withdrawPending := true }) s) :=
      k.plate _ _ (fun _ => ⟨⟨rfl, rfl, rfl, rfl, rfl⟩, rfl⟩) h
    have hcancel : p.state.onDrum = true →
        P (Machine.cancelFront p (modPlate p.lane p.tag (fun x => { x with withdrawPending := true }) s)) := fun hd =>
      k.cancelFront (front_withdrawPending hq (hq.front_eq hm hd)) rfl hpend
    unfold withdrawLive
    split
    · exact k.answer _ _ h
    · split
      · exact k.answer _ _ (k.ends _ hm h)
      · refine k.reactions.settleLocks _ _ (k.choose _ (k.answer _ _ (k.ends _ ?_ (k.dropBack _ h))))
        rw [Machine.dropBack, lane_modLane]
        exact hm
      · next hs => exact hcancel (by rw [hs]; rfl)
      · next hs => exact hcancel (by rw [hs]; rfl)
      · exact hpend

/-- A purge leaves what the page's going leaves (R19). -/
theorem OpsKeep.purged {s : State} {f : Nat} {p : Page} (hp : s.page f = some p)
    (hc : p.lockCount = 0 ∨ s.unpackerPage = some f) (tag : Tag) (dropped : List Nat) (h : P s) :
    P (purged f p tag dropped s) := by
  rw [purged_eq]
  exact k.elsewhere (k.purges hp hc h) rfl rfl rfl rfl

/-- A purge that waits no more, once its segment is ended (R14, R19). -/
theorem OpsKeep.purgeEnds {s : State} {f : Nat} {p : Page} (hp : s.page f = some p)
    (hc : p.lockCount = 0 ∨ s.unpackerPage = some f) (tag : Tag) (o : Nat) (h : P s) :
    P (completePurge p.key f tag (markDone o { s with unpacker := .idle, unpackerPage := none })) := by
  rw [completePurge_markDone (k.queues h) hp]
  exact k.elsewhere (k.unclaims (k.purged hp hc tag _ h)) rfl rfl rfl rfl

theorem OpsKeep.decidePurge {s : State} (o : Order) (h : P s) : P (decidePurge o s) := by
  unfold Machine.decidePurge
  split
  · exact k.answer _ _ h
  · next f p hp =>
    have hpage := (present_eq_some.1 hp).2
    split
    · exact k.answer _ _ h
    · have hc : p.lockCount = 0 := by omega
      split
      · exact k.answer _ _ h
      · rw [← present_key hp]
        split
        · unfold purgeStalled
          rw [← present_key hp]
          exact k.reactions.takeWork true (k.purgeEnds hpage (.inl hc) _ _ h)
        · split
          · exact k.same (.modPage _ _ fun _ => rfl) h
          · rw [completePurge_eq (k.queues h) hpage]
            exact k.purged hpage (.inl hc) _ _ h

theorem OpsKeep.purgeComplete {s : State} (h : P s) : P (purgeComplete s) := by
  unfold Machine.purgeComplete
  split
  · next hu =>
    split
    · next hp =>
      split
      · exact k.reactions.takeWork true (k.purgeEnds hp (.inr hu) _ _ h)
      · exact h
    · exact h
  · exact h

omit k in
theorem page_of_freeFrame {s : State} {f : Nat} (h : s.freeFrame = some f) : s.page f = none := by
  obtain ⟨hf, hn, -⟩ := List.findIdx?_eq_some_iff_getElem.1 h
  rw [State.page, List.getD_eq_getElem?_getD, List.getElem?_eq_getElem hf]
  simpa using hn

theorem OpsKeep.decideOpenLocal {s : State} (o : Order) (h : P s) : P (decideOpenLocal o s) := by
  unfold Machine.decideOpenLocal
  split
  · exact k.answer _ _ h
  · next hk =>
    split
    · exact k.answer _ _ h
    · next hf =>
      split
      · exact k.answer _ _ (k.creates (page_of_freeFrame hf) (Option.not_isSome_iff_eq_none.1 hk) rfl h)
      · exact k.answer _ _ h

theorem OpsKeep.submitFor {s : State} (f : Nat) (r : Page → Report) (h : P s) : P (submitFor f r s) := by
  unfold Machine.submitFor
  split
  · exact k.submit _ h
  · exact h

theorem OpsKeep.decideCloseLocal {s : State} (o : Order) (h : P s) : P (decideCloseLocal o s) := by
  unfold Machine.decideCloseLocal
  split
  · exact k.answer _ _ h
  · split
    · exact k.reactions.announce (k.answer _ _ (k.submitFor _ _ (k.same (.modPage _ _ fun _ => rfl) h)))
    · exact k.answer _ _ h

theorem OpsKeep.decideProof {s : State} (o : Order) (h : P s) : P (decideProof o s) := by
  unfold Machine.decideProof
  split
  · exact k.answer _ _ (k.elsewhere h rfl rfl rfl rfl)
  · split
    · exact k.answer _ _ (k.elsewhere h rfl rfl rfl rfl)
    · exact k.answer _ _ h

theorem OpsKeep.decideRun {s : State} (o : Order) (h : P s) : P (decideRun o s) := by
  unfold Machine.decideRun
  split
  · exact k.answer _ _ h
  · split
    · exact k.answer _ _ h
    · exact k.startThenChoose _ (k.answer _ _ (k.submit _ (k.modLane _ (fun _ => rfl) (fun _ => le_rfl) h)))
    · exact k.answer _ _ h

theorem OpsKeep.decideStop {s : State} (o : Order) (h : P s) : P (decideStop o s) := by
  unfold Machine.decideStop
  split
  · exact k.answer _ _ h
  · split
    · exact k.answer _ _ (k.submit _ (k.modLane _ (fun _ => rfl) (fun _ => le_rfl) h))
    · exact k.answer _ _ h
    · exact k.answer _ _ h

theorem OpsKeep.unknownOrder {s : State} (h : P s) : P (unknownOrder s) := by
  unfold Machine.unknownOrder
  split
  · split
    · exact k.finishOrder (k.answer _ _ h)
    · exact h
  · exact h

/-! ### Profile loads -/

theorem OpsKeep.reloadTaken {s : State} (h : P s) : P (reloadTaken s) := by
  unfold Machine.reloadTaken
  split
  · split
    · exact k.elsewhere h rfl rfl rfl rfl
    · exact h
  · exact h

theorem OpsKeep.answerReload {s : State} (oc : OrderOutcome) (reason offset : Nat) (h : P s) :
    P (answerReload oc reason offset s) := by
  unfold Machine.answerReload
  split
  · split
    · exact k.finishOrder (k.submit _ h)
    · exact h
  · exact h

theorem OpsKeep.applyProfile {s : State} (c : LoadCause) {p : Profile} (hp : ∀ l, (p.levels.get l).highWater ≤ 256)
    (h : P s) : P (applyProfile c p s) := by
  have h1 := k.submit (profileLoadedReport c p.generation) (k.levels hp h)
  cases c with
  | commit => exact k.elsewhere h1 rfl rfl rfl rfl
  | warmReset => exact k.elsewhere h1 rfl rfl rfl rfl
  | reload => exact k.tryStart 3 (k.tryStart 2 (k.tryStart 1 (k.tryStart 0 (k.answerReload _ _ _ h1))))

theorem OpsKeep.rejectProfile {s : State} (c : LoadCause) (reason offset : Nat) (h : P s) :
    P (rejectProfile c reason offset s) := by
  have h1 := k.submit (profileRejectedReport c reason offset) h
  cases c with
  | commit => exact h1
  | warmReset => exact h1
  | reload => exact k.answerReload _ _ _ h1

theorem OpsKeep.loadJudged {s : State} (h : P s) : P (loadJudged s) := by
  unfold Machine.loadJudged
  split
  · exact h
  · split
    · exact h
    · unfold applyJudgement
      split
      · next hj => exact k.applyProfile _ (levels_of_valid hj) (k.elsewhere h rfl rfl rfl rfl)
      · exact k.rejectProfile _ _ _ (k.elsewhere h rfl rfl rfl rfl)

/-! ### The Lander -/

theorem OpsKeep.examineGroups (gs : List (List Byte)) {s : State} (h : P s) : P (examineGroups gs s) := by
  induction gs generalizing s with
  | nil => exact k.elsewhere h rfl rfl rfl rfl
  | cons g gs ih =>
    unfold Machine.examineGroups
    split
    · exact k.elsewhere h rfl rfl rfl rfl
    · exact ih (k.elsewhere h rfl rfl rfl rfl)

theorem OpsKeep.acceptHeader (bs : List Byte) {s : State} (h : P s) : P (acceptHeader bs s) := by
  unfold Machine.acceptHeader
  simp only
  split
  · exact k.elsewhere (k.submit _ h) rfl rfl rfl rfl
  · exact k.elsewhere h rfl rfl rfl rfl

theorem OpsKeep.seekAdmission {s : State} (h : P s) : P (seekAdmission s) := by
  unfold Machine.seekAdmission
  split
  · split
    · split
      · exact k.elsewhere h rfl rfl rfl rfl
      · exact h
    · exact h
  · exact h
  · exact h

theorem OpsKeep.takeByte (b : Byte) {s : State} (h : P s) : P (takeByte b s) := by
  unfold Machine.takeByte testHeader
  split
  · split
    · exact k.elsewhere h rfl rfl rfl rfl
    · exact k.examineGroups _ h
  · split
    · exact k.elsewhere h rfl rfl rfl rfl
    · split
      · exact k.seekAdmission (k.acceptHeader _ h)
      · exact k.examineGroups _ (k.elsewhere h rfl rfl rfl rfl)
  · exact h

theorem OpsKeep.takeBytes (bs : List Byte) {s : State} (h : P s) : P (takeBytes bs s).2 := by
  induction bs generalizing s with
  | nil => exact h
  | cons b bs ih =>
    unfold Machine.takeBytes
    split
    · exact h
    · exact ih (k.takeByte b h)
    · exact ih (k.takeByte b h)

theorem OpsKeep.loaderReadsOn {s : State} (h : P s) : P (loaderReadsOn s) :=
  k.elsewhere h (by simp) (by simp) (by simp) (by simp)

theorem OpsKeep.issueRequest {s : State} (h : P s) : P (issueRequest s) := by
  unfold Machine.issueRequest
  split
  · split
    · split
      · exact k.elsewhere (k.loaderReadsOn h) rfl rfl rfl rfl
      · exact h
    · exact h
  · exact h
  · exact h

theorem OpsKeep.offerInflow {s : State} (a : Addr) (bs : List Byte) (h : P s) : P (offerInflow a bs s) := by
  have ht := k.takeBytes bs h
  unfold Machine.offerInflow settleInflow
  simp only
  split
  · exact k.issueRequest (k.elsewhere ht rfl rfl rfl rfl)
  · exact k.issueRequest (k.elsewhere ht rfl rfl rfl rfl)

theorem OpsKeep.continueInflow {s : State} (n : Nat) (h : P s) : P (continueInflow n s) := by
  unfold Machine.continueInflow
  split
  · exact k.issueRequest h
  · exact k.offerInflow _ _ h

theorem OpsKeep.storeRing {s : State} (o : Nat) (bs : List Byte) (h : P s) : P (storeRing o bs s) := by
  rw [storeRing_eq]
  exact k.elsewhere h rfl rfl rfl rfl

theorem OpsKeep.ringWriteDone {s : State} (h : P s) : P (ringWriteDone s) := by
  unfold Machine.ringWriteDone
  split
  · split
    · have hr := fun o bs => k.storeRing (s := s) o bs h
      simp only
      split
      · exact k.continueInflow _ (k.reactions.takeWork false (k.elsewhere (hr _ _) rfl rfl rfl rfl))
      · exact k.continueInflow _ (k.elsewhere (hr _ _) rfl rfl rfl rfl)
    · exact h
  · exact h
  · exact h

theorem OpsKeep.restartHold {s : State} (h : P s) : P (restartHold s) := by
  unfold Machine.restartHold
  split
  · split
    · exact k.elsewhere h rfl rfl rfl rfl
    · exact h
  · exact h

theorem OpsKeep.admission {s : State} (h : P s) : P (admission s) := by
  unfold Machine.admission
  split
  · split
    · split
      · exact k.issueRequest (k.restartHold (k.elsewhere h rfl rfl rfl rfl))
      · exact h
    · exact h
  · exact h
  · exact h

theorem OpsKeep.inflowTimeout {s : State} (h : P s) : P (inflowTimeout s) := by
  have hh : P s.holdFailed := k.elsewhere h rfl rfl rfl rfl
  unfold Machine.inflowTimeout
  split
  · change P (cutSegment s.holdFailed)
    unfold cutSegment
    split
    · refine k.submit _ (k.elsewhere hh ?_ ?_ ?_ ?_) <;> rw [unwindAdmission_eq, strayRingWrite_eq] <;> rfl
    · exact hh
    · exact hh
  · exact h

/-! ### Host requests and the report writer -/

theorem OpsKeep.portGrant {s : State} (h : P s) : P (portGrant s) := k.same (portGrant_moves s).1.sameLocks h

theorem OpsKeep.performWrite {s : State} (c : WriteClass) (a : Nat) (be : Enables) (d : Beat) (h : P s) :
    P (performWrite c a be d s) := by
  unfold Machine.performWrite
  split
  · unfold profileWrite
    simp only
    split
    · exact k.elsewhere h rfl rfl rfl rfl
    · exact k.elsewhere h rfl rfl rfl rfl
  · unfold watchConsumed
    split
    · exact k.elsewhere h rfl rfl rfl rfl
    · exact k.elsewhere h rfl rfl rfl rfl
  · exact k.elsewhere h rfl rfl rfl rfl
  · exact k.elsewhere h rfl rfl rfl rfl

theorem OpsKeep.passWrite {s : State} (c : WriteClass) (a : Nat) (be : Enables) (d : Beat) (h : P s) :
    P (passWrite c a be d s) := by
  unfold Machine.passWrite recordRead
  split
  · split
    · exact k.performWrite _ _ _ _ (k.portGrant (k.loaderReadsOn h))
    · exact k.performWrite _ _ _ _ (k.portGrant h)
  · exact k.elsewhere (k.portGrant h) rfl rfl rfl rfl

theorem OpsKeep.hostWrite {s : State} (a : Nat) (be : Enables) (d : Beat) (h : P s) : P (hostWrite a be d s) := by
  have ht : P (portTaken s) := k.elsewhere h rfl rfl rfl rfl
  unfold Machine.hostWrite
  split
  · exact h
  · split
    · exact k.elsewhere ht rfl rfl rfl rfl
    · unfold takeWrite
      split
      · exact k.offerInflow _ _ ht
      · exact k.offerOrder _ _ ht
      · exact k.submit _ (k.elsewhere ht rfl rfl rfl rfl)
      · exact k.elsewhere ht rfl rfl rfl rfl
      · exact k.passWrite _ _ _ _ h

theorem OpsKeep.proofRead {s : State} (o : Nat) (h : P s) : P (proofRead o s) := by
  have ht : P (portTaken s) := k.elsewhere h rfl rfl rfl rfl
  unfold Machine.proofRead
  split
  · split
    · split
      · refine k.elsewhere (k.same (.raiseFlag? _ _) ?_) rfl rfl rfl rfl
        unfold proofGrant
        split
        · exact k.portGrant h
        · exact ht
      · exact k.elsewhere ht rfl rfl rfl rfl
    · exact k.elsewhere ht rfl rfl rfl rfl
  · exact k.elsewhere ht rfl rfl rfl rfl

theorem OpsKeep.hostRead {s : State} (a : Nat) (h : P s) : P (hostRead a s) := by
  unfold Machine.hostRead
  split
  · exact h
  · split
    · unfold passRead
      split
      · exact k.elsewhere (k.portGrant h) rfl rfl rfl rfl
      · exact k.elsewhere (k.portGrant h) rfl rfl rfl rfl
    · exact k.elsewhere h rfl rfl rfl rfl
    · exact k.proofRead _ h
    · exact k.elsewhere h rfl rfl rfl rfl

theorem OpsKeep.hostAccess {s : State} (r : Access) (h : P s) : P (hostAccess r s) := by
  cases r with
  | read a => exact k.hostRead _ h
  | write a be d => exact k.hostWrite _ _ _ h

theorem OpsKeep.noteDrop {s : State} (h : P s) : P (noteDrop s) := by
  rcases noteDrop_cases s with ⟨-, e⟩ | ⟨-, e⟩ <;> rw [e]
  · exact h
  · exact k.elsewhere h rfl rfl rfl rfl

theorem OpsKeep.reportWrite {s : State} (h : P s) : P (reportWrite s) := by
  have hh : P (handleHead s) := by
    unfold handleHead
    split
    · exact h
    · simp only
      split
      · split
        · exact k.elsewhere h (by simp [writeRecord]) (by simp [writeRecord]) (by simp [writeRecord])
            (by simp [writeRecord])
        · exact h
      · exact k.noteDrop (k.elsewhere h rfl rfl rfl rfl)
  have hw : ∀ {t : State}, P t → P (writeOwed t) := fun ht => by
    unfold writeOwed
    split
    · exact k.elsewhere ht (by simp) (by simp) (by simp) (by simp)
    · exact ht
  unfold Machine.reportWrite
  split
  · exact hw hh
  · exact hw h

/-! ### Resets and ticks -/

theorem OpsKeep.powerOn (s : State) : P (powerOn s) := k.elsewhere k.reset rfl rfl rfl rfl

theorem OpsKeep.warm (s : State) : P (warm s) := k.elsewhere k.reset rfl rfl rfl rfl

theorem OpsKeep.tick {s : State} (h : P s) : P (tick s) :=
  k.elsewhere (k.same (portRuns_moves s).sameLocks h) rfl rfl rfl rfl

end

end Sys2Proof.Machine
end

section
/-! ## What every segment keeps, and so every step -/

namespace Sys2Proof.Machine

section
variable {P : State → Prop} (k : OpsKeep P)
include k

/-! ### Ends, refusals and claims of segments -/

theorem OpsKeep.modPage {s : State} (f : Nat) {g : Page → Page} (hg : ∀ p, (g p).lock = p.lock) (h : P s) :
    P (modPage f g s) := k.same (.modPage f s hg) h

theorem OpsKeep.markDone {s : State} (o : Nat) (h : P s) : P (markDone o s) := by
  rw [markDone_eq]
  exact k.elsewhere h rfl rfl rfl rfl

theorem OpsKeep.endSegment {s : State} (g : Segment) (h : P s) : P (endSegment g s) := by
  unfold Machine.endSegment
  split
  · exact k.elsewhere h rfl rfl rfl rfl
  · exact k.reactions.takeWork _ (k.markDone _ (k.elsewhere (k.unclaims h) rfl rfl rfl rfl))

theorem OpsKeep.refuseSegment {s : State} (n : NoticeKind) (g : Segment) (d : Nat) (h : P s) :
    P (refuseSegment n g d s) := k.endSegment g (k.submit _ h)

theorem OpsKeep.enterStall {s : State} (g : Segment) (c : StallCause) (o : Option OpenFields) (h : P s) :
    P (enterStall g c o s) := k.submit _ (k.elsewhere h rfl rfl rfl rfl)

theorem OpsKeep.recountTell {s : State} (f : Nat) (tiles : List (Nat × Nat)) (before : State) (h : P s) :
    P (recountTell f tiles before s) := k.reactions.announceIf _ (k.same (.recount f tiles before s) h)

theorem OpsKeep.whenRead {s : State} {next : State → State} (g : Segment) (n : Nat)
    (hn : ∀ t, P t → P (next t)) (h : P s) : P (whenRead g n next s) := by
  unfold Machine.whenRead
  split
  · exact hn _ (k.elsewhere h rfl rfl rfl rfl)
  · exact h

theorem OpsKeep.deferSegment {s : State} (g : Segment) (f : Nat) (h : P s) : P (deferSegment g f s) := by
  unfold Machine.deferSegment
  split
  · split
    · exact k.reactions.takeWork false (k.modPage f (fun _ => rfl) (k.elsewhere h rfl rfl rfl rfl))
    · exact k.enterStall _ _ _ h
  · exact h

/-- A segment kind's command keeps what its own rule keeps (R43). -/
theorem OpsKeep.handleKind {s : State} {apply : Segment → Nat → State → State} (kind : Byte) (upTo : SegPart)
    (ha : ∀ g f t, P t → P (apply g f t)) (h : P s) : P (handleKind kind upTo apply s) := by
  unfold Machine.handleKind
  split
  · next g _ =>
    split
    · unfold claimThen
      split
      · exact k.refuseSegment _ _ _ h
      · exact k.deferSegment _ _ h
      · next hg =>
        split
        · exact k.grantClaim g hg h
        · exact ha _ _ _ (k.grantClaim g hg h)
    · exact h
  · split
    · split
      · exact ha _ _ _ h
      · exact h
    · exact h
  · exact h

/-! ### PAGE OPEN -/

theorem OpsKeep.createRequest {s : State} (g : Segment) (o : OpenFields) (stalled : Bool) (h : P s) :
    P (createRequest g o stalled s) := by
  unfold Machine.createRequest
  split
  · exact k.refuseSegment _ _ _ h
  · next hk =>
    split
    · split
      · exact h
      · exact k.enterStall _ _ _ h
    · next f hf =>
      have hl : f < s.pages.length := (List.findIdx?_eq_some_iff_getElem.1 hf).1
      exact k.endSegment g (k.claims (page_setPage _ _ hl) rfl
        (k.creates (page_of_freeFrame hf) (Option.not_isSome_iff_eq_none.1 hk) rfl h))

theorem OpsKeep.openRead {s : State} (g : Segment) (upTo : SegPart) (h : P s) : P (openRead g upTo s) := by
  unfold Machine.openRead
  split
  · exact k.refuseSegment _ _ _ h
  · split
    · exact k.refuseSegment _ _ _ h
    · split
      · exact k.elsewhere h rfl rfl rfl rfl
      · exact k.createRequest _ _ _ h

theorem OpsKeep.handleOpen {s : State} (upTo : SegPart) (h : P s) : P (handleOpen upTo s) := by
  unfold Machine.handleOpen
  split
  · next g _ =>
    split
    · unfold openTaken
      split
      · exact k.refuseSegment _ _ _ h
      · exact k.whenRead g 0 (fun _ => k.openRead g upTo) (k.elsewhere h rfl rfl rfl rfl)
    · exact h
  · next g _ => exact k.whenRead g 0 (fun _ => k.openRead g upTo) h
  · split
    · exact k.createRequest _ _ _ h
    · exact h
  · exact h

theorem OpsKeep.framesStallEnd {s : State} (h : P s) : P (framesStallEnd s) := by
  unfold Machine.framesStallEnd
  split
  · exact k.createRequest _ _ _ h
  · exact h

/-! ### STRIP and photos -/

theorem OpsKeep.changeStrip {s : State} (f tw i : Nat) (v : StripState) (h : P s) : P (changeStrip f tw i v s) :=
  k.recountTell _ _ _ (k.modPage f (fun _ => rfl) h)

theorem OpsKeep.applyStrip {s : State} (g : Segment) (f : Nat) (h : P s) : P (applyStrip g f s) := by
  unfold Machine.applyStrip
  split
  · exact k.endSegment _ h
  · next p _ =>
    refine k.whenRead _ _ (fun t ht => ?_) h
    have hrows : ∀ y rows, P (writePageRows f p.tw y rows t) := fun y rows => by
      rw [writePageRows_eq, writeStretches_eq]
      exact k.elsewhere ht rfl rfl rfl rfl
    split
    · refine k.refuseSegment _ _ _ ?_
      split
      · exact k.changeStrip _ _ _ _ ht
      · exact ht
    · unfold writeStrip
      simp only
      split
      · exact k.refuseSegment _ _ _ (k.changeStrip _ _ _ _ (hrows _ _))
      · exact k.endSegment _ (k.changeStrip _ _ _ _ (hrows _ _))

theorem OpsKeep.setPhotoFlags {s : State} (f : Nat) (v : Bool) (ts : List (Nat × Nat)) (h : P s) :
    P (setPhotoFlags f v ts s) := k.same (.setPhotoFlags f v ts s) h

theorem OpsKeep.reviseIfClosed {s : State} (f : Nat) (h : P s) : P (reviseIfClosed f s) := by
  refine k.modPage f (fun p => ?_) h
  split <;> rfl

theorem OpsKeep.placePhoto {s : State} (f : Nat) (r : PhotoRecord) (fill : Nat) (h : P s) :
    P (placePhoto f r fill s) :=
  k.recountTell _ _ _ (k.reviseIfClosed f (k.setPhotoFlags _ _ _ (k.modPage f (fun _ => rfl) h)))

theorem OpsKeep.applyPhotoHead {s : State} (g : Segment) (f : Nat) (h : P s) : P (applyPhotoHead g f s) := by
  unfold Machine.applyPhotoHead
  split
  · exact k.endSegment _ h
  · refine k.whenRead _ _ (fun t ht => ?_) h
    split
    · exact k.refuseSegment _ _ _ ht
    · split
      · exact k.refuseSegment _ _ _ ht
      · unfold takePhoto
        split
        · split
          · exact k.endSegment _ (k.placePhoto _ _ _ ht)
          · exact k.refuseSegment _ _ _ ht
        · split
          · exact k.refuseSegment _ _ _ ht
          · split
            · exact k.refuseSegment _ _ _ (k.recountTell _ _ _ (k.reviseIfClosed f (k.setPhotoFlags _ _ _ ht)))
            · exact k.endSegment _ (k.placePhoto _ _ _ ht)

theorem OpsKeep.flagMissing {s : State} (f : Nat) (r : PhotoRecord) (a b : Nat) (h : P s) :
    P (flagMissing f r a b s) := by
  unfold Machine.flagMissing
  split
  · exact k.same (.recount _ _ _ _) (k.setPhotoFlags _ _ _ h)
  · exact h

theorem OpsKeep.applyRows {s : State} (g : Segment) (f : Nat) (r : PhotoRecord) (h : P s) : P (applyRows g f r s) := by
  have hrows : ∀ first samples, P (writeSampleRows f r first samples (Machine.flagMissing f r r.nextRow first s)) :=
    fun first samples => k.elsewhere (k.flagMissing f r r.nextRow first h) rfl rfl rfl rfl
  have htold : ∀ b first samples {c : Page → Page}, (∀ p, (c p).lock = p.lock) →
      P (Machine.announceIf b (Machine.modPage f c
        (writeSampleRows f r first samples (Machine.flagMissing f r r.nextRow first s)))) :=
    fun b first samples _ hc => k.reactions.announceIf b (k.modPage f hc (hrows first samples))
  unfold Machine.applyRows
  simp only
  split
  · exact k.refuseSegment _ _ _ (htold _ _ _ fun _ => rfl)
  · exact k.endSegment _ (htold _ _ _ fun _ => rfl)

theorem OpsKeep.applyPhotoPart {s : State} (g : Segment) (f : Nat) (h : P s) : P (applyPhotoPart g f s) := by
  unfold Machine.applyPhotoPart
  split
  · exact k.endSegment _ h
  · split
    · exact k.refuseSegment _ _ _ h
    · refine k.whenRead _ _ (fun t ht => ?_) h
      split
      · exact k.refuseSegment _ _ _ ht
      · exact k.applyRows _ _ _ ht

/-! ### PAGE CLOSE and REMAKE TILE -/

theorem OpsKeep.endPhotos {s : State} (f : Nat) (p : Page) (h : P s) : P (endPhotos f p s) := by
  unfold Machine.endPhotos
  generalize p.photos = rs
  induction rs generalizing s with
  | nil => exact h
  | cons r rs ih =>
    refine ih (s := endPhoto f s r) ?_
    unfold endPhoto
    split
    · exact k.modPage f (fun _ => rfl) (k.flagMissing _ _ _ _ h)
    · exact h

theorem OpsKeep.applyPageClose {s : State} (g : Segment) (f : Nat) (h : P s) : P (applyPageClose g f s) := by
  unfold Machine.applyPageClose
  split
  · exact k.endSegment _ h
  · next p _ =>
    refine k.whenRead _ _ (fun t ht => ?_) h
    have hstrips : P (endStrips f p t) := k.same (.recount _ _ _ _) (k.modPage f (fun _ => rfl) ht)
    split
    · exact k.refuseSegment _ _ _ ht
    · split
      · exact k.endSegment _ (k.reactions.announce (k.submitFor _ _ (k.modPage f (fun _ => rfl)
          (k.endPhotos _ _ hstrips))))
      · exact k.endSegment _ (k.reactions.announceIf _ (k.submitFor _ _ (k.endPhotos _ _ ht)))

theorem OpsKeep.acceptRemake {s : State} (f tx ty n : Nat) (h : P s) : P (acceptRemake f tx ty n s) := by
  refine k.recountTell _ _ _ (k.modPage f (fun _ => rfl) (k.elsewhere h ?_ ?_ ?_ ?_)) <;> rw [freeOld_eq]

theorem OpsKeep.decodeRemake {s : State} (g : Segment) (f n : Nat) (h : P s) : P (decodeRemake g f n s) := by
  have hrows : ∀ y rows, P (writeSlotRows n y rows (if payloadBad s g then useFree s else s)) := fun y rows => by
    rw [writeSlotRows_eq, writeStretches_eq]
    split
    · exact k.elsewhere h rfl rfl rfl rfl
    · exact k.elsewhere h rfl rfl rfl rfl
  unfold Machine.decodeRemake
  simp only
  split
  · exact k.refuseSegment _ _ _ (k.elsewhere (hrows _ _) rfl rfl rfl rfl)
  · split
    · exact k.refuseSegment _ _ _ (k.elsewhere (hrows _ _) rfl rfl rfl rfl)
    · exact k.endSegment _ (k.acceptRemake _ _ _ _ (hrows _ _))

theorem OpsKeep.tryRemake {s lacking : State} (g : Segment) (f : Nat) (hl : P lacking) (h : P s) :
    P (tryRemake g f lacking s) := by
  unfold Machine.tryRemake
  split
  · exact k.whenRead _ _ (fun _ => k.decodeRemake _ _ _) (k.elsewhere h rfl rfl rfl rfl)
  · split
    · exact k.endSegment _ h
    · exact hl

theorem OpsKeep.applyRemake {s : State} (g : Segment) (f : Nat) (h : P s) : P (applyRemake g f s) := by
  unfold Machine.applyRemake
  split
  · exact k.tryRemake g f (k.enterStall _ _ _ h) h
  · exact k.endSegment _ h

theorem OpsKeep.handleRemake {s : State} (upTo : SegPart) (h : P s) : P (handleRemake upTo s) := by
  unfold Machine.handleRemake
  split
  · split
    · exact k.whenRead _ _ (fun _ => k.decodeRemake _ _ _) h
    · exact h
  · exact k.handleKind _ _ (fun g f _ => k.applyRemake g f) h

theorem OpsKeep.patchesStallEnd {s : State} (h : P s) : P (patchesStallEnd s) := by
  unfold Machine.patchesStallEnd
  split
  · split
    · exact k.tryRemake _ _ h h
    · exact h
  · exact h

theorem OpsKeep.deferralStallEnd {s : State} (h : P s) : P (deferralStallEnd s) := by
  unfold Machine.deferralStallEnd
  split
  · split
    · exact k.reactions.takeWork false (k.elsewhere h rfl rfl rfl rfl)
    · exact h
  · exact h

theorem OpsKeep.handlePlain {s : State} (isKind : Byte → Bool) {tell : Segment → State → State}
    (ht : ∀ g, P (tell g s)) (h : P s) : P (handlePlain isKind tell s) := by
  unfold Machine.handlePlain
  split
  · split
    · exact k.endSegment _ (ht _)
    · exact h
  · exact h

/-! ### Every command and every step -/

omit k in
theorem of_next {s t : State} (h : P s) (e : (.next s : Host.Outcome State Fault Refusal) = .next t) : P t :=
  Host.Outcome.next.inj e ▸ h

/-- Every command keeps what its changes keep. -/
theorem OpsKeep.exec {s t : State} (c : Instr) (h : P s) (e : Machine.exec c s = .next t) : P t := by
  have hm : ∀ l, P (Machine.takeMessage l s) := fun l => k.takeMessage l h
  cases c with
  | inflowChuteWrite off be d => exact of_next (k.hostWrite _ be d h) e
  | admission => exact of_next (k.admission h) e
  | ringWriteDone => exact of_next (k.ringWriteDone h) e
  | inflowHoldTimeout => exact of_next (k.inflowTimeout h) e
  | filler => exact of_next (k.handlePlain _ (fun _ => h) h) e
  | unknownKind => exact of_next (k.handlePlain _ (fun _ => k.submit _ h) h) e
  | pageOpen upTo => exact of_next (k.handleOpen upTo h) e
  | framesStallEnd => exact of_next (k.framesStallEnd h) e
  | strip upTo => exact of_next (k.handleKind _ upTo (fun g f _ => k.applyStrip g f) h) e
  | photoHead upTo => exact of_next (k.handleKind _ upTo (fun g f _ => k.applyPhotoHead g f) h) e
  | photoPart upTo => exact of_next (k.handleKind _ upTo (fun g f _ => k.applyPhotoPart g f) h) e
  | pageClose upTo => exact of_next (k.handleKind _ upTo (fun g f _ => k.applyPageClose g f) h) e
  | remakeTile upTo => exact of_next (k.handleRemake upTo h) e
  | patchesStallEnd => exact of_next (k.patchesStallEnd h) e
  | deferralStallEnd => exact of_next (k.deferralStallEnd h) e
  | orderChuteWrite off be d => exact of_next (k.hostWrite _ be d h) e
  | orderRecordQueued => exact of_next (k.recordQueued h) e
  | orderHoldTimeout => exact of_next (k.orderTimeout h) e
  | queuePlate => exact of_next (k.handleOrder (fun o => k.decideQueue o h) h) e
  | withdrawPlate => exact of_next (k.handleOrder (fun o => k.decideWithdraw o h) h) e
  | purgePage => exact of_next (k.handleOrder (fun o => k.decidePurge o h) h) e
  | purgeComplete => exact of_next (k.purgeComplete h) e
  | openLocalPage => exact of_next (k.handleOrder (fun o => k.decideOpenLocal o h) h) e
  | closeLocalPage => exact of_next (k.handleOrder (fun o => k.decideCloseLocal o h) h) e
  | setProof => exact of_next (k.handleOrder (fun o => k.decideProof o h) h) e
  | runLane => exact of_next (k.handleOrder (fun o => k.decideRun o h) h) e
  | stopLane => exact of_next (k.handleOrder (fun o => k.decideStop o h) h) e
  | reloadProfile => exact of_next (k.reloadTaken h) e
  | unknownOrder => exact of_next (k.unknownOrder h) e
  | profileLoadJudged => exact of_next (k.loadJudged h) e
  | profileCommitWrite be d => exact of_next (k.hostWrite _ be d h) e
  | plateLate tag =>
    refine of_next ?_ e
    split
    · exact k.lateTest _ tag h
    · exact h
  | laneRowComposed l => exact of_next (k.rowComposed l h) e
  | ready l => exact of_next (k.readyTaken l (hm l)) e
  | pull l n => exact of_next (k.pullTaken l n (hm l)) e
  | exposed l tag => exact of_next (k.exposedTaken l tag (hm l)) e
  | ejected l tag => exact of_next (k.ejectedTaken l tag (hm l)) e
  | setterFault l cause => exact of_next (k.faultTaken l cause (hm l)) e
  | setterIdle l => exact of_next (hm l) e
  | linkLoss l =>
    refine of_next ?_ e
    split
    · exact k.takeLoss l h
    · exact h
  | laneIdleSend l =>
    refine of_next ?_ e
    split
    · exact k.modLane l (fun _ => rfl) (fun _ => le_rfl) h
    · exact h
  | proofRead off => exact of_next (k.hostRead _ h) e
  | passingAccess r => exact of_next (k.hostAccess r h) e
  | chuteRead c off => exact of_next (k.hostRead _ h) e
  | unmappedAccess r => exact of_next (k.hostAccess r h) e
  | droppedWrite a be d => exact of_next (k.hostWrite _ be d h) e
  | consumedCountWrite be d => exact of_next (k.hostWrite _ be d h) e
  | overflowWordWrite be d => exact of_next (k.hostWrite _ be d h) e
  | reportWrite => exact of_next (k.reportWrite h) e
  | powerOnReset => exact of_next (k.powerOn s) e
  | warmReset => exact of_next (k.warm s) e

/-- Every step keeps what the commands' changes keep: it is a command, or a tick, which moves the memory port alone. -/
theorem OpsKeep.step {s t : State} (h : P s) (e : Machine.step s = .next t) : P t := by
  unfold Machine.step at e
  split at e
  · exact of_next (k.tick h) e
  · next c cs _ =>
    have hp : P (s.withPending cs) := k.elsewhere h rfl rfl rfl rfl
    exact k.exec c hp e

end

/-- Settles O5: the queues alone, and the queues with the locks, are kept by each change that a command makes. -/
theorem stepKeepsQueuesSafe : Obligations.StepKeepsQueuesSafe :=
  ⟨fun _ _ h e => queuesSafe_opsKeep.step h e, fun _ _ h hl e => (lockedSafe_opsKeep.step ⟨h, hl⟩ e).locks⟩

end Sys2Proof.Machine
end

section
/-! ## Plates found by their tag: lateness, and withdraws on the drum -/

namespace Sys2Proof.Machine

/-! ### Finding a plate -/

/-- A plate is found by a tag that no other plate of the list has. -/
theorem find?_tag {q : List Plate} {p : Plate} (hp : p ∈ q) (hu : ∀ x ∈ q, x.tag = p.tag → x = p) :
    q.find? (fun x => x.tag == p.tag) = some p := by
  cases hf : q.find? fun x => x.tag == p.tag with
  | none =>
    have := List.find?_eq_none.1 hf p hp
    simp at this
  | some x =>
    have ht : x.tag = p.tag := by simpa using List.find?_some hf
    rw [hu x (List.mem_of_find?_eq_some hf) ht]

theorem QueuesSafe.plate_eq {s : State} (h : QueuesSafe s) {l : LaneId} {p : Plate} (hp : p ∈ (s.lane l).queue) :
    (s.lane l).plate p.tag = some p := find?_tag hp fun _ hx ht => (h.ok l).eq_of_tag hx hp ht

/-- No two lanes have a plate of one tag (R117). -/
theorem QueuesSafe.lane_eq {s : State} (h : QueuesSafe s) {l j : LaneId} {tag : Tag} (hl : tag ∈ (s.lane l).tags)
    (hj : tag ∈ (s.lane j).tags) : l = j := by
  by_contra hne
  exact ((queuesSafe_iff s).1 h).2 l j hne tag hl hj

theorem mem_tags {L : Lane} {p : Plate} (hp : p ∈ L.queue) : p.tag ∈ L.tags := List.mem_map_of_mem hp

/-- A live plate is found by its tag, with its lane (R117, R125). -/
theorem QueuesSafe.findPlate_eq {s : State} (h : QueuesSafe s) {l : LaneId} {p : Plate} (hp : p ∈ (s.lane l).queue) :
    s.findPlate p.tag = some (l, p) := by
  obtain ⟨⟨j, x⟩, hf⟩ := Option.isSome_iff_exists.1 (findPlate_isSome.2 (mem_liveTags.2 ⟨l, mem_tags hp⟩))
  obtain ⟨hx, ht⟩ := findPlate_eq_some hf
  obtain rfl := h.lane_eq (mem_tags hp) (ht ▸ mem_tags hx)
  rw [hf, (h.ok l).eq_of_tag hx hp ht]

/-! ### Lateness -/

theorem lateTest_late {s : State} {l : LaneId} {p : Plate} (hp : (s.lane l).plate p.tag = some p)
    (hs : p.state = .queued) (hr : p.lateReported = false) (hc : (s.clock - p.latestStart).toNat < 2147483648) :
    lateTest l p.tag s = modPlate l p.tag (fun x => { x with lateReported := true }) (submit (lateReport p) s) := by
  simp only [lateTest, hp]
  exact if_pos ⟨hs, hr, decide_eq_true hc⟩

theorem lateTest_otherwise {s : State} {l : LaneId} {p : Plate} (hp : (s.lane l).plate p.tag = some p)
    (h : p.state ≠ .queued ∨ p.lateReported = true ∨ 2147483648 ≤ (s.clock - p.latestStart).toNat) :
    lateTest l p.tag s = s := by
  simp only [lateTest, hp]
  refine if_neg fun hc => ?_
  obtain ⟨hs, hr, hl⟩ := hc
  rcases h with h | h | h
  · exact h hs
  · simp [hr] at h
  · have := of_decide_eq_true hl
    omega

/-- Settles O41: PLATE_LATE finds the plate by its tag and makes the lateness test of it. -/
theorem latePlateIsReportedOnce : Obligations.LatePlateIsReportedOnce := by
  intro s l p hq hp
  have hx : exec (.plateLate p.tag) s = .next (lateTest l p.tag s) := by
    refine congrArg Host.Outcome.next ?_
    rw [hq.findPlate_eq hp]
  have hplate := hq.plate_eq hp
  rw [hx]
  refine ⟨fun hs hr hc => ?_, fun h => by rw [lateTest_otherwise hplate h]⟩
  obtain rfl := (hq.ok l).own p hp
  rw [lateTest_late hplate hs hr hc]
  rfl

/-! ### A withdraw of a plate on the drum -/

/-- A lane whose front plate is cancelled with a withdraw pending (R125, R138). -/
def Lane.withdrawCancelled (L : Lane) (p : Plate) (now : Tick) : Lane :=
  { L with
    owed := 0, frontCtx := none, buffer := L.buffer.filter fun r => r.mark != .front
    queue := L.queue.map fun x => if x.tag = p.tag then { x with state := .cancelling, withdrawPending := true } else x
    sent := L.sent ++ [.cancel p.tag], lastSent := now }

theorem withdrawCancel_eq (p : Plate) (s : State) :
    cancelFront p (modPlate p.lane p.tag (fun x => { x with withdrawPending := true }) s) =
      modLane p.lane (fun L => L.withdrawCancelled p s.clock) s := by
  simp only [cancelFront, dropFront, modPlate, sendMsg, modLane_modLane, modLane_clock]
  refine modLane_congr ?_
  have hqueue : ∀ q : List Plate,
      (q.map fun x => if x.tag = p.tag then { x with withdrawPending := true } else x).map
          (fun x => if x.tag = p.tag then { x with state := .cancelling } else x) =
        q.map fun x => if x.tag = p.tag then { x with state := .cancelling, withdrawPending := true } else x := by
    intro q
    rw [List.map_map]
    refine List.map_congr_left fun x _ => ?_
    by_cases ht : x.tag = p.tag <;> simp [ht]
  simp only [Lane.withdrawCancelled, hqueue]

/-- WITHDRAW PLATE in hand is decided of the live plate of its tag, and the executor goes on (R125, R153). -/
theorem exec_withdrawPlate {s : State} {o : Order} {l : LaneId} {p : Plate} (hq : QueuesSafe s)
    (ho : s.inHand = some o) (hk : o.kind = 2) (hp : p ∈ (s.lane l).queue) (ht : p.tag = o.tag) :
    exec .withdrawPlate s = .next (finishOrder (withdrawLive o l p s)) := by
  refine congrArg Host.Outcome.next ?_
  rw [handleOrder_of_kind ho hk, decideWithdraw, ← ht, hq.findPlate_eq hp]

theorem finishOrder_lane (s : State) (l : LaneId) : (finishOrder s).lane l = s.lane l :=
  lane_of_lanes (finishOrder_lanes s) l

theorem finishOrder_pages (s : State) : (finishOrder s).pages = s.pages := by
  cases h : s.orderQueue with
  | nil => rw [finishOrder_of_nil h]
  | cons o os => rw [finishOrder_of_cons h]

/-- The order of a withdraw waits with its plate on the drum, which is cancelled unless it is already (R125, R138). -/
theorem withdrawLive_onDrum {s : State} {o : Order} {p : Plate} (hw : p.withdrawPending = false)
    (hd : p.state.onDrum = true) : withdrawLive o p.lane p s =
      if p.state = .cancelling then modPlate p.lane p.tag (fun x => { x with withdrawPending := true }) s
      else modLane p.lane (fun L => L.withdrawCancelled p s.clock) s := by
  rw [← withdrawCancel_eq]
  unfold withdrawLive
  rw [hw, if_neg (by simp)]
  cases hs : p.state with
  | queued | loading => rw [hs] at hd; cases hd
  | exposing | finishing | cancelling => simp

/-- Settles O36: the plate on the drum is noted and, unless it is in CANCELLING, cancelled. -/
theorem withdrawOnDrumCancels : Obligations.WithdrawOnDrumCancels := by
  intro s o l p hq ho hk hp ht hw hd
  obtain rfl := (hq.ok l).own p hp
  have hfront := (hq.ok p.lane).front_eq hp hd
  have hx := exec_withdrawPlate hq ho hk hp ht
  rw [withdrawLive_onDrum hw hd] at hx
  by_cases hs : p.state = .cancelling
  · rw [if_pos hs] at hx
    refine ⟨_, _, hx, ?_, rfl, finishOrder_reports _, fun j hj => ?_, ?_, finishOrder_mem _, fun hn => absurd hs hn,
      fun _ => ?_⟩
    · rw [finishOrder_lane, ← hs]
      exact front_withdrawPending (hq.ok p.lane) hfront
    · rw [finishOrder_lane, modPlate, lane_modLane_ne _ _ hj]
    · rw [State.steady, finishOrder_pages]
      rfl
    · rw [finishOrder_lane, modPlate, lane_modLane]
      exact ⟨rfl, rfl⟩
  · rw [if_neg hs] at hx
    refine ⟨_, _, hx, ?_, rfl, finishOrder_reports _, fun j hj => ?_, ?_, finishOrder_mem _, fun _ => ?_,
      fun hc => absurd hc hs⟩
    · rw [finishOrder_lane, lane_modLane]
      exact find?_map_tag (g := fun x => { x with state := .cancelling, withdrawPending := true }) (hq.ok p.lane).tags
        hfront rfl
    · rw [finishOrder_lane, lane_modLane_ne _ _ hj]
    · rw [State.steady, finishOrder_pages]
      rfl
    · rw [finishOrder_lane, lane_modLane]
      exact ⟨rfl, rfl, rfl, rfl⟩

end Sys2Proof.Machine
end

section
/-! ## Plates that leave the lane: withdrawn, returned, or failed -/

namespace Sys2Proof.Machine

/-! ### Lanes that do not choose -/

theorem choose_idle {l : LaneId} {s : State} (h : (s.lane l).mode ≠ .run ∨ (s.lane l).back ≠ none) :
    choose l s = s := by
  unfold choose
  rw [if_neg]
  rintro ⟨hm, hb⟩
  exact h.elim (fun h => h hm) fun h => h hb

/-- Reactions leave a lane as it is that is not in RUN, or has a back plate (R119). -/
theorem reactionsKeep_lane {l : LaneId} {L : Lane} (h : L.mode ≠ .run ∨ L.back ≠ none) :
    ReactionsKeep fun t => t.lane l = L where
  lane j s hs := by
    by_cases hj : l = j
    · subst hj
      rw [choose_idle (by rw [hs]; exact h)]
      exact hs
    · exact (choose_lane_ne hj s).trans hs
  take e s hs := (lane_of_lanes (takeUp_lanes e s) l).trans hs
  claim s hs := (lane_of_lanes (claimNow_lanes s) l).trans hs
  free _ hs := hs

/-! ### A plate ended -/

/-- What a plate's end does to the lanes: its record goes (R124). -/
theorem endPlate_lanes (p : Plate) (e : PlateEnd) (s : State) :
    (endPlate p e s).lanes = (removePlate p.lane p.tag s).lanes := by
  simp only [endPlate, removePlate, modLane]
  split <;> simp only [releaseLock_lanes, submit_lanes]

theorem endPlate_lane (p : Plate) (e : PlateEnd) (s : State) : (endPlate p e s).lane p.lane =
    { s.lane p.lane with queue := (s.lane p.lane).queue.filter fun x => x.tag != p.tag } := by
  rw [lane_of_lanes (endPlate_lanes p e s), removePlate, lane_modLane]

theorem endPlate_lane_ne {p : Plate} {j : LaneId} (h : j ≠ p.lane) (e : PlateEnd) (s : State) :
    (endPlate p e s).lane j = s.lane j := by
  rw [lane_of_lanes (endPlate_lanes p e s), removePlate, lane_modLane_ne _ _ h]

/-- A plate's end reports its outcome (R124). -/
theorem endPlate_reports (p : Plate) (e : PlateEnd) (s : State) :
    (endPlate p e s).reports = (submit (plateOutcome p e.code e.cause) s).reports := by
  simp only [endPlate, removePlate_reports]
  split
  · exact releaseLock_reports _ _
  · rfl

theorem endPlate_clock (p : Plate) (e : PlateEnd) (s : State) : (endPlate p e s).clock = s.clock := by
  simp only [endPlate, removePlate_clock]
  split
  · exact (releaseLock_clock _ _).trans (submit_clock _ _)
  · exact submit_clock _ _

/-- A plate ended has its tag free: no live plate has it (R117, R124). -/
theorem QueuesSafe.tag_free {s t : State} (h : QueuesSafe s) {p : Plate} (hp : p ∈ (s.lane p.lane).queue)
    (own : (t.lane p.lane).tags = ((s.lane p.lane).queue.filter fun x => x.tag != p.tag).map Plate.tag)
    (others : ∀ j, j ≠ p.lane → (t.lane j).tags = (s.lane j).tags) : p.tag ∉ liveTags t := by
  intro hm
  obtain ⟨j, hj⟩ := mem_liveTags.1 hm
  by_cases hjl : j = p.lane
  · rw [hjl, own] at hj
    obtain ⟨x, hx, ht⟩ := List.mem_map.1 hj
    have := (List.mem_filter.1 hx).2
    simp [ht] at this
  · rw [others j hjl] at hj
    exact hjl (h.lane_eq hj (mem_tags hp))

/-- A plate in flight that ends gives its page's lock back (R12, R124). -/
theorem endPlate_page {p : Plate} {s : State} {f : Nat} {g : Page} (hd : p.state.inFlight = true)
    (hp : s.present p.key = some (f, g)) (e : PlateEnd) :
    (endPlate p e s).page f = some { g with lockCount := g.lockCount - 1 } := by
  obtain ⟨hk, hf⟩ := present_eq_some.1 hp
  have hfind : (submit (plateOutcome p e.code e.cause) s).findPage p.key = some f := by
    rw [findPage_congr (submit_pages _ _), hk]
  simp only [endPlate, hd, if_true]
  change (releaseLock p.key _).page f = _
  simp only [releaseLock, hfind]
  exact page_modPage _ (by rw [State.page, submit_pages]; exact hf)

/-! ### A withdraw of a plate off the drum -/

theorem withdrawLive_busy {s : State} {o : Order} {l : LaneId} {p : Plate} (hw : p.withdrawPending = true) :
    withdrawLive o l p s = answer o .busy s := by
  simp [withdrawLive, hw]

/-- A QUEUED plate withdrawn (R125). -/
theorem withdrawLive_queued {s : State} {o : Order} {p : Plate} (hw : p.withdrawPending = false)
    (hs : p.state = .queued) : withdrawLive o p.lane p s = submit (orderDone o .withdrawn 0 0)
      (removePlate p.lane p.tag (submit (plateOutcome p 4 5) s)) := by
  simp [withdrawLive, hw, hs, answer, endPlate, PlateState.inFlight, PlateEnd.code, PlateEnd.cause]

/-- The state with a LOADING plate withdrawn and its order answered, before what that sets off (R125). -/
def loadWithdrawn (o : Order) (p : Plate) (s : State) : State :=
  answer o .withdrawn (endPlate p .withdrawnByOrder (dropBack p.lane s))

/-- A LOADING plate withdrawn (R125). -/
theorem withdrawLive_loading {s : State} {o : Order} {p : Plate} (hw : p.withdrawPending = false)
    (hs : p.state = .loading) : withdrawLive o p.lane p s =
      settleLocks s (endPlate p .withdrawnByOrder (dropBack p.lane s)) (choose p.lane (loadWithdrawn o p s)) := by
  simp [withdrawLive, hw, hs, withdrawLoading, loadWithdrawn]

theorem loadWithdrawn_lane (o : Order) (p : Plate) (s : State) : (loadWithdrawn o p s).lane p.lane =
    { s.lane p.lane with
      backCtx := none, buffer := (s.lane p.lane).buffer.filter fun r => r.mark != .back
      queue := (s.lane p.lane).queue.filter fun x => x.tag != p.tag } := by
  rw [loadWithdrawn, answer, lane_of_lanes (submit_lanes _ _), endPlate_lane, dropBack, lane_modLane]

theorem loadWithdrawn_lane_ne {p : Plate} {j : LaneId} (h : j ≠ p.lane) (o : Order) (s : State) :
    (loadWithdrawn o p s).lane j = s.lane j := by
  rw [loadWithdrawn, answer, lane_of_lanes (submit_lanes _ _), endPlate_lane_ne h, dropBack, lane_modLane_ne _ _ h]

theorem loadWithdrawn_reports (o : Order) (p : Plate) (s : State) : (loadWithdrawn o p s).reports =
    (submit (orderDone o .withdrawn 0 0) (submit (plateOutcome p 4 5) s)).reports := by
  refine submit_reports_congr _ ?_ ?_
  · exact (endPlate_reports _ _ _).trans (submit_reports_congr _ rfl rfl)
  · exact (endPlate_clock _ _ _).trans (show s.clock = _ from (submit_clock _ _).symm)

theorem loadWithdrawn_mode (o : Order) (p : Plate) (s : State) (j : LaneId) :
    ((loadWithdrawn o p s).lane j).mode = (s.lane j).mode := by
  by_cases hj : j = p.lane
  · rw [hj, loadWithdrawn_lane]
  · rw [loadWithdrawn_lane_ne hj]

/-- A queue without its one LOADING plate has none. -/
theorem QueueOk.back_filter {l : LaneId} {q : List Plate} (h : QueueOk l q) {p : Plate} (hp : p ∈ q)
    (hs : p.state = .loading) : ∀ x ∈ q.filter (fun x => x.tag != p.tag), x.state ≠ .loading := by
  intro x hx hxs
  obtain ⟨hm, ht⟩ := List.mem_filter.1 hx
  obtain ⟨y, hy⟩ := List.length_eq_one_iff.1 (le_antisymm h.oneBack
    (List.length_pos_of_mem (List.mem_filter.2 ⟨hp, by simp [hs]⟩)))
  have h1 : x ∈ q.filter fun p => p.state == .loading := List.mem_filter.2 ⟨hm, by simp [hxs]⟩
  have h2 : p ∈ q.filter fun p => p.state == .loading := List.mem_filter.2 ⟨hp, by simp [hs]⟩
  rw [hy] at h1 h2
  rw [List.mem_singleton.1 h1, List.mem_singleton.1 h2] at ht
  simp at ht

/-- What holds of the state with a LOADING plate withdrawn holds, where reactions keep it, after what that sets off. -/
theorem ReactionsKeep.withdrawn {P : State → Prop} (k : ReactionsKeep P) {o : Order} {p : Plate} {s : State}
    (a b : State) (h : P (loadWithdrawn o p s)) :
    P (Machine.settleLocks a b (Machine.choose p.lane (loadWithdrawn o p s))) :=
  k.settleLocks a b (k.lane p.lane _ h)

/-- What a withdraw of a LOADING plate leaves (R12, R119, R125). -/
theorem withdrawn_loading {s : State} (hq : QueuesSafe s) (o : Order) {p : Plate} (hp : p ∈ (s.lane p.lane).queue)
    (hs : p.state = .loading) (a b : State) :
    let said := submit (orderDone o .withdrawn 0 0) (submit (plateOutcome p 4 5) s)
    let t := settleLocks a b (choose p.lane (loadWithdrawn o p s))
    p.tag ∉ liveTags t ∧ said.reports <+: t.reports ∧ (∀ r ∈ (t.lane p.lane).buffer, r.mark = .front) ∧
      (t.lane p.lane).tags = ((s.lane p.lane).queue.filter fun x => x.tag != p.tag).map Plate.tag ∧
      ((s.lane p.lane).mode ≠ .run → (t.lane p.lane).back = none ∧ (t.lane p.lane).backCtx = none ∧
        (t.lane p.lane).queue = (s.lane p.lane).queue.filter fun x => x.tag != p.tag) ∧
      (NoLaneRuns s → t.reports = said.reports ∧ ∀ f g, s.present p.key = some (f, g) →
        ∃ h, t.page f = some h ∧ h.lockCount = g.lockCount - 1 ∧ h.content = g.content) := by
  intro said t
  let w := loadWithdrawn o p s
  have hr : Reacts w t := (choose_reacts p.lane w).trans (settleLocks_reacts a b _)
  have htags : ∀ j, (t.lane j).tags = (w.lane j).tags := fun j => (reactionsKeep_tags j _).withdrawn a b rfl
  have hown : (t.lane p.lane).tags = ((s.lane p.lane).queue.filter fun x => x.tag != p.tag).map Plate.tag := by
    rw [htags, loadWithdrawn_lane]
    rfl
  refine ⟨hq.tag_free hp hown fun j hj => by rw [htags, loadWithdrawn_lane_ne hj], ?_, ?_, hown, fun hm => ?_,
    fun hn => ?_⟩
  · rw [← loadWithdrawn_reports]
    exact hr.reports
  · have hcontrol := congrArg Lane.buffer (control_of_steady hr.steady p.lane)
    have hbuffer : (t.lane p.lane).buffer = (w.lane p.lane).buffer := hcontrol
    rw [hbuffer, loadWithdrawn_lane]
    exact filter_not_back _
  · have hlane : t.lane p.lane = w.lane p.lane :=
      (reactionsKeep_lane (.inl (by rw [loadWithdrawn_mode]; exact hm))).withdrawn a b rfl
    rw [hlane, loadWithdrawn_lane]
    exact ⟨Lane.back_eq_none.2 ((hq.ok p.lane).back_filter hp hs), rfl, rfl⟩
  · have hwn : NoLaneRuns w := fun j => by rw [loadWithdrawn_mode]; exact hn j
    refine ⟨?_, fun f g hg => ?_⟩
    · exact ((reactionsKeep_quiet (P := fun u => u.reports = said.reports) (fun e u h => (takeUp_reports e u).trans h)
        (fun u h => (claimNow_reports u).trans h) fun _ h => h).withdrawn a b ⟨hwn, loadWithdrawn_reports o p s⟩).2
    · have hpage : w.page f = some { g with lockCount := g.lockCount - 1 } := by
        rw [State.page]
        simp only [w, loadWithdrawn, answer, submit_pages]
        exact endPlate_page (s := dropBack p.lane s) (by rw [hs]; rfl) hg _
      obtain ⟨-, q, hq', hc⟩ := (reactionsKeep_lockCount f (g.lockCount - 1)).withdrawn a b ⟨hwn, _, hpage, rfl⟩
      obtain ⟨q', hqt, hcontent⟩ := page_of_steady hr.steady hpage
      obtain rfl := Option.some.inj (hq'.symm.trans hqt)
      exact ⟨q, hq', hc, hcontent⟩

/-- Settles O35: BUSY for a withdraw that waits already, and the plate QUEUED or LOADING gone at once. -/
theorem withdrawnPlateLeavesQueue : Obligations.WithdrawnPlateLeavesQueue := by
  intro s o l p hq ho hk hp ht
  obtain rfl := (hq.ok l).own p hp
  have hx := exec_withdrawPlate hq ho hk hp ht
  refine ⟨fun hw => by rw [hx, withdrawLive_busy hw, answer], fun hw hs => ?_⟩
  rcases hs with hs | hs
  · rw [withdrawLive_queued hw hs] at hx
    refine ⟨_, hx, ?_, ?_, fun _ => by rw [ht], fun h => by rw [hs] at h; cases h⟩
    · rw [← ht]
      have hlane : ∀ j, (finishOrder (submit (orderDone o .withdrawn 0 0)
          (removePlate p.lane p.tag (submit (plateOutcome p 4 5) s)))).lane j = (removePlate p.lane p.tag s).lane j :=
        fun j => by
          rw [finishOrder_lane, lane_of_lanes (submit_lanes _ _)]
          exact lane_of_lanes (by simp only [removePlate, modLane, submit_lanes]) j
      refine hq.tag_free hp ?_ fun j hj => ?_
      · rw [hlane, removePlate, lane_modLane]
        rfl
      · rw [hlane, removePlate, lane_modLane_ne _ _ hj]
    · rw [finishOrder_reports]
      have hsaid : (submit (orderDone o .withdrawn 0 0) (submit (plateOutcome p 4 5) s)).reports =
          (submit (orderDone o .withdrawn 0 0) (removePlate p.lane p.tag (submit (plateOutcome p 4 5) s))).reports :=
        submit_reports_congr _ rfl rfl
      rw [hsaid]
  · rw [withdrawLive_loading hw hs] at hx
    obtain ⟨hfree, hsaid, hbuffer, htags, hidle, hquiet⟩ := withdrawn_loading hq o hp hs s
      (endPlate p .withdrawnByOrder (dropBack p.lane s))
    refine ⟨_, hx, ?_, ?_, fun h => absurd (hs.symm.trans h) (by simp), fun _ => ⟨?_, ?_, ?_, ?_⟩⟩
    · rw [← ht, liveTags]
      simp only [finishOrder_lane]
      exact hfree
    · rw [finishOrder_reports]
      exact hsaid
    · rw [finishOrder_lane]
      exact hbuffer
    · rw [finishOrder_lane, ← ht]
      exact htags
    · rw [finishOrder_lane, ← ht]
      exact hidle
    · rw [finishOrder_reports]
      simp only [State.page, finishOrder_pages]
      exact hquiet

/-! ### The resolution of an ejected plate -/

/-- The front plate returned to QUEUED with its next attempt (R118, R122). -/
def Plate.returnedNext (p : Plate) : Plate :=
  { p with state := .queued, attempt := p.attempt + 1, spoil := none, returned := true }

theorem resolveFront_withdrawn {l : LaneId} {s : State} {p : Plate} (hp : (s.lane l).front = some p)
    (hw : p.withdrawPending = true) : resolveFront l s =
      submit (withdrawDone p.tag .withdrawn) (endPlate p .withdrawnByOrder (dropFront l s)) := by
  simp [resolveFront, hp, hw]

theorem resolveFront_returned {l : LaneId} {s : State} {p : Plate} (hp : (s.lane l).front = some p)
    (hw : p.withdrawPending = false) (ha : p.attempt < p.allowance) :
    resolveFront l s = returnPlate p (p.attempt + 1) (dropFront l s) := by
  simp [resolveFront, hp, hw, ha]

theorem resolveFront_failed {l : LaneId} {s : State} {p : Plate} (hp : (s.lane l).front = some p)
    (hw : p.withdrawPending = false) (ha : p.attempt = p.allowance) :
    resolveFront l s = endPlate p (.failed p.spoil) (dropFront l s) := by
  simp [resolveFront, hp, hw, ha]

/-- The lane to which its front plate returns (R118, R122). -/
theorem returnPlate_lane (p : Plate) (s : State) :
    ∃ late, (returnPlate p (p.attempt + 1) s).lane p.lane = { s.lane p.lane with
      queue := { p.returnedNext with lateReported := late } ::
        (s.lane p.lane).queue.filter fun x => x.tag != p.tag } := by
  have hlanes : (if p.state.inFlight then releaseLock p.key s else s).lanes = s.lanes := by
    split
    · exact releaseLock_lanes _ _
    · rfl
  let v := modLane p.lane (fun L => { L with queue := p.returnedNext :: L.queue.filter fun x => x.tag != p.tag })
    (if p.state.inFlight then releaseLock p.key s else s)
  have hlane : v.lane p.lane = { s.lane p.lane with
      queue := p.returnedNext :: (s.lane p.lane).queue.filter fun x => x.tag != p.tag } := by
    rw [lane_modLane, lane_of_lanes hlanes]
  obtain ⟨late, h⟩ := lateTest_lane (l := p.lane) (x := p.returnedNext) (congrArg Lane.queue hlane)
    fun y hy => show y.tag ≠ p.tag by simpa using (List.mem_filter.1 hy).2
  exact ⟨late, h.trans (by rw [hlane])⟩

theorem returnPlate_mode (p : Plate) (n : Nat) (s : State) (j : LaneId) :
    ((returnPlate p n s).lane j).mode = (s.lane j).mode := by
  have hlanes : (if p.state.inFlight then releaseLock p.key s else s).lanes = s.lanes := by
    split
    · exact releaseLock_lanes _ _
    · rfl
  refine (congrArg Lane.mode (control_of_steady (lateTest_reacts p.lane p.tag _).steady j)).trans ?_
  by_cases hj : j = p.lane
  · rw [hj, lane_modLane, lane_of_lanes hlanes]
    rfl
  · rw [lane_modLane_ne _ _ hj, lane_of_lanes hlanes]
    rfl

theorem tags_startThenChoose (l j : LaneId) (s : State) : ((startThenChoose l s).lane j).tags = (s.lane j).tags := by
  unfold startThenChoose
  split
  · rename_i p c _
    exact (reactionsKeep_tags j _).lane l _ (tags_sendStart l j p c s)
  · exact (reactionsKeep_tags j _).lane l s rfl

theorem startThenChoose_reports (l : LaneId) (s : State) : s.reports <+: (startThenChoose l s).reports := by
  unfold startThenChoose
  split
  · rename_i p c _
    exact (choose_reacts l (sendStart l p c s)).reports
  · exact (choose_reacts l s).reports

/-- What the resolution of a front plate sets off keeps each queue's tags (R17, R134). -/
theorem tags_afterResolve (l j : LaneId) (before s : State) :
    ((afterResolve l before s).lane j).tags = (s.lane j).tags := by
  refine (reactionsKeep_tags j _).settleLocks before s ?_
  unfold leaveFront
  split
  · exact tags_startThenChoose l j s
  · exact tags_tryStart l j s

theorem afterResolve_reports (l : LaneId) (before s : State) : s.reports <+: (afterResolve l before s).reports := by
  refine List.IsPrefix.trans ?_ (settleLocks_reacts before s _).reports
  unfold leaveFront
  split
  · exact startThenChoose_reports l s
  · exact tryStart_reports l s

/-- Out of RUN, or with drum-ready clear, a plate's return leaves the lane to choose alone, with no START (R119,
R134). -/
theorem leaveFront_returned {l : LaneId} {before s : State} {p : Plate} (hp : (before.lane l).front = some p)
    (hw : p.withdrawPending = false) (ha : p.attempt < p.allowance)
    (h : (s.lane l).mode ≠ .run ∨ (s.lane l).drumReady = false) : leaveFront l before s = choose l s := by
  have hret : returnsFront (before.lane l) = true := by simp [returnsFront, hp, hw, ha]
  have hstart : startReady s l = none := by
    cases hs : startReady s l with
    | none => rfl
    | some x =>
      unfold startReady at hs
      split at hs
      · split at hs
        · next hc =>
          rcases h with h | h
          · exact absurd hc.1 h
          · simp [h] at hc
        · cases hs
      · cases hs
  rw [leaveFront, if_pos hret, startThenChoose, hstart]

/-- The plate on the drum is not the back plate, which is found without it. -/
theorem QueueOk.back_without_front {l : LaneId} {L : Lane} (h : QueueOk l L.queue) {p : Plate} (hp : L.front = some p) :
    (L.queue.filter fun x => x.tag != p.tag).find? (fun x => x.state == .loading) = L.back := by
  obtain ⟨hm, hs⟩ := Lane.front_mem hp
  rw [List.find?_filter]
  refine List.find?_congr fun x hx => ?_
  by_cases ht : x.tag = p.tag
  · have hx' : (x.state == .loading) = false := by
      rw [h.eq_of_tag hx hm ht]
      cases hps : p.state <;> simp [hps, PlateState.onDrum] at hs ⊢
    simp [hx']
  · simp [ht, Bool.beq_eq_decide_eq]

/-- What a plate's return leaves of its lane where no lane runs (R118, R122). -/
theorem afterResolve_returned_quiet {s v : State} {p : Plate} (hp : (s.lane p.lane).front = some p)
    (hw : p.withdrawPending = false) (ha : p.attempt < p.allowance) (hn : NoLaneRuns v) :
    ∃ late, (afterResolve p.lane s (returnPlate p (p.attempt + 1) v)).lane p.lane = { v.lane p.lane with
      queue := { p.returnedNext with lateReported := late } ::
        (v.lane p.lane).queue.filter fun x => x.tag != p.tag } := by
  have hrn : NoLaneRuns (returnPlate p (p.attempt + 1) v) := fun j => by rw [returnPlate_mode]; exact hn j
  obtain ⟨late, hlane⟩ := returnPlate_lane p v
  refine ⟨late, ?_⟩
  rw [afterResolve, leaveFront_returned hp hw ha (.inl (hrn p.lane)), choose_of_not_run (hrn p.lane),
    lane_of_lanes (settleLocks_lanes_quiet hrn _ _), hlane]

/-- The plate that returns stays QUEUED, or the lane chooses it at once (R118, R119, R122). -/
theorem afterResolve_returned {s v : State} {p : Plate} (hq : QueueOk p.lane (s.lane p.lane).queue)
    (hp : (s.lane p.lane).front = some p) (hv : (v.lane p.lane).queue = (s.lane p.lane).queue)
    (hm : (v.lane p.lane).mode = (s.lane p.lane).mode) (hw : p.withdrawPending = false) (ha : p.attempt < p.allowance)
    (hd : (v.lane p.lane).drumReady = false) :
    ∃ q ∈ ((afterResolve p.lane s (returnPlate p (p.attempt + 1) v)).lane p.lane).queue,
      q.tag = p.tag ∧ q.attempt = p.attempt + 1 ∧ q.spoil = none ∧
        (q.state = .queued ∨ (s.lane p.lane).mode = .run ∧ (s.lane p.lane).back = none ∧ q.state = .loading) := by
  let r := returnPlate p (p.attempt + 1) v
  obtain ⟨late, hlane⟩ := returnPlate_lane p v
  have hqueue : (r.lane p.lane).queue =
      { p.returnedNext with lateReported := late } :: (s.lane p.lane).queue.filter fun x => x.tag != p.tag := by
    rw [hlane, hv]
  have hdrum : (r.lane p.lane).drumReady = false := by rw [hlane]; exact hd
  have hmode : (r.lane p.lane).mode = (s.lane p.lane).mode := (returnPlate_mode _ _ _ _).trans hm
  have hback : (r.lane p.lane).back = (s.lane p.lane).back := by
    rw [Lane.back, hqueue, List.find?_cons_of_neg (by simp [Plate.returnedNext])]
    exact hq.back_without_front hp
  rw [afterResolve, leaveFront_returned hp hw ha (.inr hdrum)]
  by_cases hidle : (r.lane p.lane).mode ≠ .run ∨ (r.lane p.lane).back ≠ none
  · have hkept : (settleLocks s r (choose p.lane r)).lane p.lane = r.lane p.lane :=
      (reactionsKeep_lane hidle).settleLocks s r ((reactionsKeep_lane hidle).lane p.lane r rfl)
    refine ⟨{ p.returnedNext with lateReported := late }, ?_, rfl, rfl, rfl, .inl rfl⟩
    rw [hkept, hqueue]
    exact List.mem_cons_self
  · have hnodup : ((r.lane p.lane).queue.map Plate.tag).Nodup := by
      rw [hqueue]
      refine List.nodup_cons.2 ⟨fun h => ?_, (List.filter_sublist.map _).nodup hq.tags⟩
      obtain ⟨x, hx, ht⟩ := List.mem_map.1 h
      have := (List.mem_filter.1 hx).2
      simp [ht, Plate.returnedNext] at this
    obtain ⟨-, hchosen⟩ := (reactionsKeep_chosen (m := (s.lane p.lane).mode) hnodup).settleLocks s r
      ((reactionsKeep_chosen hnodup).lane p.lane r ⟨hmode, QueueChosen.refl _ _⟩)
    rw [hqueue] at hchosen
    obtain ⟨y, ys, hy, -, hys⟩ := List.forall₂_cons_left_iff.1 hchosen
    refine ⟨y, by rw [hys]; exact List.mem_cons_self, hy.tag, hy.attempt, hy.spoil, ?_⟩
    push Not at hidle
    exact (hy.queued rfl).imp_right fun h => ⟨h.1, hback ▸ hidle.2, h.2⟩

/-- EJECTED for the front plate, in CANCELLING (R140). -/
theorem exec_ejected {s : State} {l : LaneId} {p : Plate} (hm : (s.lane l).mode ≠ .fault)
    (hp : (s.lane l).front = some p) (hs : p.state = .cancelling) :
    let m := modLane l (fun L => { L with lastMessage := some s.clock }) s
    exec (.ejected l p.tag) s = .next (afterResolve l m (resolveFront l m)) := by
  intro m
  have hpm : (m.lane l).front = some p := by rw [lane_modLane]; exact hp
  refine congrArg Host.Outcome.next ?_
  rw [takeMessage_eq hm]
  change ejectedTaken l p.tag m = _
  unfold ejectedTaken
  rw [hpm]
  exact if_pos ⟨rfl, hs⟩

/-- A front plate ended has its tag free after what that sets off (R124). -/
theorem tag_free_afterResolve {s m : State} (hq : QueuesSafe s) {p : Plate} (hp : p ∈ (s.lane p.lane).queue)
    (hm : ∀ j, (m.lane j).queue = (s.lane j).queue) {r : State} (e : PlateEnd)
    (hr : r.lanes = (endPlate p e (dropFront p.lane m)).lanes) (before : State) :
    p.tag ∉ liveTags (afterResolve p.lane before r) := by
  refine hq.tag_free hp ?_ fun j hj => ?_
  · rw [tags_afterResolve, lane_of_lanes hr, endPlate_lane, dropFront, lane_modLane, ← hm]
    rfl
  · rw [tags_afterResolve, lane_of_lanes hr, endPlate_lane_ne hj, dropFront, lane_modLane_ne _ _ hj, Lane.tags, hm,
      Lane.tags]

/-- Settles O48: the front plate's resolution, by its withdraw and its attempts, and what that sets off. -/
theorem ejectedPlateIsResolved : Obligations.EjectedPlateIsResolved := by
  intro s l p hq hm hp hs
  obtain rfl := (hq.ok l).own p (Lane.front_mem hp).1
  let m := modLane p.lane (fun L => { L with lastMessage := some s.clock }) s
  have hpm : (m.lane p.lane).front = some p := by rw [lane_modLane]; exact hp
  have hmq : ∀ j, (m.lane j).queue = (s.lane j).queue := fun j => by
    by_cases hj : j = p.lane
    · rw [hj, lane_modLane]
    · rw [lane_modLane_ne _ _ hj]
  have hmlane : m.lane p.lane = { s.lane p.lane with lastMessage := some s.clock } := lane_modLane _ _ _
  have hdlane : (dropFront p.lane m).lane p.lane = { s.lane p.lane with
      lastMessage := some s.clock, owed := 0, frontCtx := none
      buffer := (s.lane p.lane).buffer.filter fun r => r.mark != .front } := by
    rw [dropFront, lane_modLane, hmlane]
  have hdmode : ∀ j, ((dropFront p.lane m).lane j).mode = (s.lane j).mode := fun j => by
    by_cases hj : j = p.lane
    · rw [hj, hdlane]
    · rw [dropFront, lane_modLane_ne _ _ hj, lane_modLane_ne _ _ hj]
  have hmem := (Lane.front_mem hp).1
  let r := resolveFront p.lane m
  have hreports := afterResolve_reports p.lane m r
  refine ⟨_, exec_ejected hm hp hs, fun hw => ?_, fun hw ha hn => ?_, fun hw ha hd => ?_, fun hw ha => ?_⟩
  · have hr : r = submit (withdrawDone p.tag .withdrawn) (endPlate p .withdrawnByOrder (dropFront p.lane m)) :=
      resolveFront_withdrawn hpm hw
    refine ⟨tag_free_afterResolve hq hmem hmq .withdrawnByOrder (by rw [resolveFront_withdrawn hpm hw, submit_lanes]) m,
      List.IsPrefix.trans ?_ hreports⟩
    have hsaid : r.reports = (submit (withdrawDone p.tag .withdrawn) (submit (plateOutcome p 4 5) s)).reports := by
      rw [hr]
      refine submit_reports_congr _ ?_ ?_
      · exact (endPlate_reports _ _ _).trans (submit_reports_congr _ rfl rfl)
      · exact (endPlate_clock _ _ _).trans (show s.clock = _ from (submit_clock _ _).symm)
    rw [hsaid]
  · have hdn : NoLaneRuns (dropFront p.lane m) := fun j => by rw [hdmode]; exact hn j
    obtain ⟨late, hlane⟩ := afterResolve_returned_quiet hpm hw ha hdn
    rw [resolveFront_returned hpm hw ha, hlane, hdlane]
    exact ⟨_, rfl, rfl, rfl, filter_not_front _⟩
  · rw [resolveFront_returned hpm hw ha]
    obtain ⟨q, hqm, htag, hattempt, hspoil, hstate⟩ := afterResolve_returned (s := m) (hmq p.lane ▸ hq.ok p.lane) hpm
      (by rw [hdlane, hmlane]) (by rw [hdlane, hmlane]) hw ha (by rw [hdlane]; exact hd)
    rw [hmlane] at hstate
    exact ⟨q, hqm, htag, hattempt, hspoil, hstate⟩
  · have hr : r = endPlate p (.failed p.spoil) (dropFront p.lane m) := resolveFront_failed hpm hw ha
    refine ⟨tag_free_afterResolve hq hmem hmq _ (by rw [resolveFront_failed hpm hw ha]) m, fun c hc => ?_⟩
    refine List.IsPrefix.trans ?_ hreports
    have hsaid : r.reports = (submit (plateOutcome p 3 c.code) s).reports := by
      rw [hr, hc]
      exact (endPlate_reports _ _ _).trans (submit_reports_congr _ rfl rfl)
    rw [hsaid]

end Sys2Proof.Machine
end

section
/-! ## A plate accepted -/

namespace Sys2Proof.Machine

/-! ### Its place in the queue -/

/-- A rush plate's place is behind the last plate that is rush or returned, or the front (R118). -/
theorem rushPlace_append {before after : List Plate} (ha : ∀ x ∈ after, x.rush = false ∧ x.returned = false)
    (hb : ∀ x, before.getLast? = some x → x.rush = true ∨ x.returned = true) :
    rushPlace (before ++ after) = before.length := by
  have hstop : before.reverse.takeWhile (fun x => !x.rush && !x.returned) = [] := by
    cases h : before.reverse with
    | nil => rfl
    | cons x xs =>
      have hx := hb x (by rw [List.getLast?_eq_head?_reverse, h]; rfl)
      exact List.takeWhile_cons_of_neg (by rcases hx with hx | hx <;> simp [hx])
  have hpass : ∀ x ∈ after.reverse, (!x.rush && !x.returned) = true := fun x hx => by
    obtain ⟨hrush, hreturned⟩ := ha x (List.mem_reverse.1 hx)
    simp [hrush, hreturned]
  rw [rushPlace, List.reverse_append, List.takeWhile_append_of_pos hpass, hstop]
  simp

theorem placePlate_rush {p : Plate} (hp : p.rush = true) {before after : List Plate}
    (ha : ∀ x ∈ after, x.rush = false ∧ x.returned = false)
    (hb : ∀ x, before.getLast? = some x → x.rush = true ∨ x.returned = true) :
    placePlate p (before ++ after) = before ++ p :: after := by
  rw [placePlate, if_pos hp, rushPlace_append ha hb, List.take_left, List.drop_left]

theorem placePlate_not_rush {p : Plate} (hp : p.rush = false) (q : List Plate) : placePlate p q = q ++ [p] := by
  rw [placePlate, if_neg (by simp [hp])]

theorem mem_placePlate {p x : Plate} {q : List Plate} : x ∈ placePlate p q ↔ x = p ∨ x ∈ q :=
  (placePlate_perm p q).mem_iff.trans List.mem_cons

/-! ### Its record -/

/-- A record is that of a plate accepted as `n`, which its lane may have chosen since (R116, R119). -/
structure StandsFor (n p : Plate) : Prop where
  fields : { p with state := n.state, held := n.held, version := n.version, generation := n.generation } = n
  state : p.state = .queued ∨ p.state = .loading

/-- A plate accepted as `n` stands in the lane's queue. -/
def Lane.Holds (L : Lane) (n : Plate) : Prop := ∃ p ∈ L.queue, StandsFor n p

theorem holds_modLane {l k : LaneId} {n : Plate} {g : Lane → Lane} {s : State} (hg : ∀ L, L.Holds n → (g L).Holds n)
    (h : (s.lane k).Holds n) : ((modLane l g s).lane k).Holds n := by
  by_cases hk : k = l
  · subst hk
    rw [lane_modLane]
    exact hg _ h
  · rwa [lane_modLane_ne _ _ hk]

theorem holds_modPlate {l k : LaneId} {n : Plate} {tag : Tag} {g : Plate → Plate} {s : State}
    (hg : ∀ p, StandsFor n p → StandsFor n (g p)) (h : (s.lane k).Holds n) : ((modPlate l tag g s).lane k).Holds n := by
  refine holds_modLane (fun L ⟨p, hp, hn⟩ => ⟨_, List.mem_map_of_mem hp, ?_⟩) h
  split
  · exact hg p hn
  · exact hn

/-- Reactions leave an accepted plate's record in its queue, QUEUED or LOADING (R119). -/
theorem reactionsKeep_holds (k : LaneId) (n : Plate) : ReactionsKeep fun t => (t.lane k).Holds n := by
  refine reactionsKeep_lanes (P := fun q => (q.get k).Holds n) ?_ ?_ ?_ ?_
  · exact fun l v s h => holds_modLane (l := l) (s := s) (fun _ h => h) h
  · exact fun l c s h => holds_modLane (l := l) (s := s) (fun _ h => h) h
  · exact fun l tag r s h => holds_modPlate (l := l) (s := s) (fun p hp => ⟨hp.fields, hp.state⟩) h
  · exact fun l tag v g s h => holds_modPlate (l := l) (s := s) (fun p hp => ⟨hp.fields, .inr rfl⟩) h

/-! ### QUEUE PLATE -/

/-- The state with a plate placed and its order answered (R116). -/
def placed (o : Order) (l : LaneId) (s : State) : State :=
  submit (orderDone o .accepted (clampAllowance o.allowance) 0)
    (modLane l (fun L => { L with queue := placePlate (newPlate o l) L.queue }) s)

/-- QUEUE PLATE in hand that is accepted (R116). -/
theorem exec_queuePlate {s : State} {o : Order} {l : LaneId} (ho : s.inHand = some o) (hk : o.kind = 1)
    (hl : o.lane.toNat = l.val) (hpage : (s.findPage o.key).isSome) (ht : o.tag ∉ liveTags s)
    (hlen : (s.lane l).queue.length < 16) :
    exec .queuePlate s = .next (finishOrder (choose l (lateTest l o.tag (placed o l s)))) := by
  refine congrArg Host.Outcome.next ?_
  rw [handleOrder_of_kind ho hk]
  simp only [decideQueue, laneOf_eq_some hl]
  rw [if_neg (by simp [Option.isSome_iff_ne_none.1 hpage]), if_neg (by simp [findPlate_eq_none.2 ht]),
    if_neg (by omega)]
  rfl

theorem placed_lane (o : Order) (l : LaneId) (s : State) : (placed o l s).lane l =
    { s.lane l with queue := placePlate (newPlate o l) (s.lane l).queue } := by
  rw [placed, lane_of_lanes (submit_lanes _ _), lane_modLane]

theorem placed_lane_ne {l k : LaneId} (hk : k ≠ l) (o : Order) (s : State) : (placed o l s).lane k = s.lane k := by
  rw [placed, lane_of_lanes (submit_lanes _ _), lane_modLane_ne _ _ hk]

theorem placed_reacts (o : Order) (l : LaneId) (s : State) : Reacts s (placed o l s) :=
  (modLane_reacts l (fun L => { L with queue := placePlate (newPlate o l) L.queue }) s fun _ => rfl).trans
    (submit_reacts _ _)

theorem placed_clock (o : Order) (l : LaneId) (s : State) : (placed o l s).clock = s.clock := submit_clock _ _

theorem lateTest_lane_ne {l k : LaneId} (hk : k ≠ l) (tag : Tag) (s : State) :
    (lateTest l tag s).lane k = s.lane k := by
  rcases lateTest_cases l tag s with h | ⟨p, h⟩ <;> rw [h]
  rw [modPlate, lane_modLane_ne _ _ hk, lane_of_lanes (submit_lanes _ _)]

theorem tags_lateTest (l k : LaneId) (tag : Tag) (s : State) : ((lateTest l tag s).lane k).tags = (s.lane k).tags := by
  rcases lateTest_cases l tag s with h | ⟨p, h⟩ <;> rw [h]
  exact (tags_modPlate l k tag _ _ (by intro; rfl)).trans (congrArg Lane.tags (lane_of_lanes (submit_lanes _ _) k))

/-- The accepted plate is the one found by its tag, which no live plate had (R117). -/
theorem placed_plate {s : State} {o : Order} (l : LaneId) (ht : o.tag ∉ liveTags s) :
    ((placed o l s).lane l).plate o.tag = some (newPlate o l) := by
  rw [placed_lane]
  refine find?_tag (p := newPlate o l) (mem_placePlate.2 (.inl rfl)) fun x hx hxt => ?_
  refine (mem_placePlate.1 hx).resolve_right fun hq => ht (mem_liveTags.2 ⟨l, ?_⟩)
  exact (show x.tag = o.tag from hxt) ▸ mem_tags hq

theorem standsFor_self {n : Plate} (h : n.state = .queued) : StandsFor n n := ⟨rfl, .inl h⟩

/-- An accepted plate is found late at once, or stands as it was placed (R121). -/
theorem lateTest_placed {s : State} {o : Order} {l : LaneId} (hl : o.lane.toNat = l.val) (ht : o.tag ∉ liveTags s) :
    let w := lateTest l o.tag (placed o l s)
    ∃ late, (w.lane l).Holds { newPlate o l with lateReported := late } ∧
      (2147483648 ≤ (s.clock - o.latestStart).toNat → late = false) ∧
      ((s.clock - o.latestStart).toNat < 2147483648 → late = true ∧ w.reports = (submit { blankReport .late with
        tag := o.tag, key := o.key, lane := o.lane, detailA := o.latestStart, detailB := 1 }
          (placed o l s)).reports) := by
  intro w
  have hplate := placed_plate l ht
  have hmem : newPlate o l ∈ ((placed o l s).lane l).queue := by
    rw [placed_lane]
    exact mem_placePlate.2 (.inl rfl)
  have hclock := placed_clock o l s
  by_cases h : (s.clock - o.latestStart).toNat < 2147483648
  · have hw : w = modPlate l o.tag (fun x => { x with lateReported := true })
        (submit (lateReport (newPlate o l)) (placed o l s)) :=
      lateTest_late (p := newPlate o l) hplate rfl rfl (by rw [hclock]; exact h)
    have hlane : o.lane = BitVec.ofNat 8 l.val := by rw [← hl]; simp
    refine ⟨true, ?_, fun hn => absurd h (by omega), fun _ => ⟨rfl, ?_⟩⟩
    · rw [hw, modPlate, lane_modLane, lane_of_lanes (submit_lanes _ _)]
      refine ⟨_, List.mem_map_of_mem hmem, ?_⟩
      rw [if_pos (show (newPlate o l).tag = o.tag from rfl)]
      exact standsFor_self rfl
    · rw [hw, hlane]
      rfl
  · have hw : w = placed o l s :=
      lateTest_otherwise (p := newPlate o l) hplate (.inr (.inr (by rw [hclock]; exact Nat.le_of_not_lt h)))
    refine ⟨false, ?_, fun _ => rfl, fun hn => absurd hn h⟩
    rw [hw]
    exact ⟨_, hmem, standsFor_self rfl⟩

/-- Settles O32: the plate placed, its order answered, its lateness test, and its lane's choice. -/
theorem acceptedPlateIsQueued : Obligations.AcceptedPlateIsQueued := by
  intro s o l ho hk hl hpage ht hlen said tags
  let v := placed o l s
  let w := lateTest l o.tag v
  let t := finishOrder (choose l w)
  have hx : exec .queuePlate s = .next t := exec_queuePlate ho hk hl hpage ht hlen
  have hreacts : Reacts s (choose l w) :=
    ((placed_reacts o l s).trans (lateTest_reacts l o.tag v)).trans (choose_reacts l w)
  have hsaid : v.reports = said.reports := submit_reports_congr _ rfl rfl
  have hclock : v.clock = said.clock := (placed_clock o l s).trans (submit_clock _ _).symm
  have hwt : w.reports <+: t.reports := (finishOrder_reports _).symm ▸ (choose_reacts l w).reports
  have htags : tags (t.lane l).queue = tags (placePlate (newPlate o l) (s.lane l).queue) := by
    have h : ((choose l w).lane l).tags = (v.lane l).tags :=
      (reactionsKeep_tags l _).lane l w (tags_lateTest l l o.tag v)
    rw [finishOrder_lane]
    exact h.trans (congrArg Lane.tags (placed_lane o l s))
  obtain ⟨late, hholds, hearly, hlate⟩ := lateTest_placed (s := s) hl ht
  obtain ⟨p, hp, hfields, hstate⟩ : (t.lane l).Holds { newPlate o l with lateReported := late } := by
    rw [finishOrder_lane]
    exact (reactionsKeep_holds l _).lane l w hholds
  have hrush : o.rush = true → ∀ before after, (s.lane l).queue = before ++ after →
      (∀ x ∈ after, x.rush = false ∧ x.returned = false) →
      (∀ x, before.getLast? = some x → x.rush = true ∨ x.returned = true) →
      tags (t.lane l).queue = tags before ++ o.tag :: tags after := fun hr before after hq ha hb => by
    rw [htags, hq, placePlate_rush hr ha hb]
    exact List.map_append
  have hback : o.rush = false → tags (t.lane l).queue = tags (s.lane l).queue ++ [o.tag] := fun hr => by
    rw [htags, placePlate_not_rush hr]
    exact List.map_append
  have hothers : OtherLanesKept l s t := fun k hk => by
    rw [finishOrder_lane, choose_lane_ne hk, lateTest_lane_ne hk, placed_lane_ne hk]
  have hsteady : t.steady = (finishOrder s).steady := by
    rw [steady_finishOrder, hreacts.steady, ← steady_finishOrder]
  have hmem : Memory.wf s.mem = true → BytesKeptBut 0 0 s t := fun _ x _ => by
    rw [finishOrder_mem, hreacts.mem]
  have hreported : p.lateReported = late := congrArg Plate.lateReported hfields
  refine ⟨t, p, hx, hp, congrArg Plate.tag hfields, congrArg Plate.key hfields, congrArg Plate.lane hfields,
    congrArg Plate.allowance hfields, congrArg Plate.attempt hfields, congrArg Plate.rush hfields,
    congrArg Plate.release hfields, congrArg Plate.latestStart hfields, congrArg Plate.withdrawPending hfields,
    congrArg Plate.spoil hfields, hstate, ?_, fun h => hreported.trans (hearly h),
    fun h => ⟨hreported.trans (hlate h).1, ?_⟩, hback, hrush, hothers, hsteady, hmem⟩
  · rw [← hsaid]
    exact (lateTest_reacts l o.tag v).reports.trans hwt
  · have hreports := (hlate h).2.trans (submit_reports_congr _ hsaid hclock)
    exact hreports ▸ hwt

end Sys2Proof.Machine
end

section
/-! ## RUN LANE, STOP LANE, and READY -/

namespace Sys2Proof.Machine

/-! ### The START test -/

/-- The START condition, clause by clause (R134). -/
theorem startReady_eq_some {s : State} {l : LaneId} {p : Plate} {c : Latched} : startReady s l = some (p, c) ↔
    (s.lane l).back = some p ∧ (s.lane l).backCtx = some c ∧ (s.lane l).mode = .run ∧ (s.lane l).front = none ∧
      (s.lane l).drumReady = true ∧ min (s.preload l) (c.ctx.th * 256) ≤ (rowsOf .back (s.lane l).buffer).length := by
  unfold startReady
  split
  · next q d hb hc =>
    rw [hb, hc]
    split
    · next h =>
      simp only [Option.some.injEq, Prod.mk.injEq]
      exact ⟨fun ⟨hp, hd⟩ => ⟨hp, hd, hd ▸ h⟩, fun ⟨hp, hd, _⟩ => ⟨hp, hd⟩⟩
    · next h =>
      simp only [Option.some.injEq]
      exact ⟨fun e => (nomatch e), fun ⟨_, hd, hc⟩ => (h (hd ▸ hc)).elim⟩
  · next h => exact ⟨fun e => (nomatch e), fun ⟨hb, hc, _⟩ => (h p c hb hc).elim⟩

/-- What keeps a lane from a START (R134). -/
theorem startReady_eq_none {s : State} {l : LaneId} (h : (s.lane l).mode ≠ .run ∨ (s.lane l).back = none ∨
    (s.lane l).front ≠ none ∨ (s.lane l).drumReady = false ∨ ∃ c, (s.lane l).backCtx = some c ∧
      (rowsOf .back (s.lane l).buffer).length < min (s.preload l) (c.ctx.th * 256)) : startReady s l = none := by
  cases hs : startReady s l with
  | none => rfl
  | some x =>
    obtain ⟨hb, hc, hm, hf, hd, hrows⟩ := startReady_eq_some.1 hs
    rcases h with h | h | h | h | ⟨c, h, hshort⟩
    · exact absurd hm h
    · simp [h] at hb
    · exact absurd hf h
    · simp [h] at hd
    · obtain rfl := Option.some.inj (hc.symm.trans h)
      omega

theorem preload_congr {s t : State} (h : t.profile = s.profile) (l : LaneId) : t.preload l = s.preload l := by
  rw [State.preload, h, State.preload]

/-- A lane that has sent START for its back plate (R134). -/
def Lane.started (L : Lane) (p : Plate) (c : Latched) (now : Tick) : Lane :=
  { L with
    sent := L.sent ++ [.start p.tag (c.ctx.th * 256) (c.ctx.tw * 32)], lastSent := now
    queue := L.queue.map fun x => if x.tag = p.tag then { x with state := .exposing, returned := false } else x
    drumReady := false, owed := 0, frontCtx := some c, backCtx := none
    buffer := L.buffer.map fun r => { r with mark := .front } }

theorem sendStart_eq (l : LaneId) (p : Plate) (c : Latched) (s : State) :
    sendStart l p c s = modLane l (fun L => L.started p c s.clock) s := by
  simp only [sendStart, modPlate, sendMsg, modLane_modLane]
  rfl

theorem tryStart_of_ready {s : State} {l : LaneId} {p : Plate} {c : Latched} (h : startReady s l = some (p, c)) :
    tryStart l s = choose l (modLane l (fun L => L.started p c s.clock) s) := by
  simp only [tryStart, h, sendStart_eq]

theorem tryStart_of_none {s : State} {l : LaneId} (h : startReady s l = none) : tryStart l s = s := by
  simp only [tryStart, h]

theorem startThenChoose_of_ready {s : State} {l : LaneId} {p : Plate} {c : Latched}
    (h : startReady s l = some (p, c)) :
    startThenChoose l s = choose l (modLane l (fun L => L.started p c s.clock) s) := by
  simp only [startThenChoose, h, sendStart_eq]

theorem startThenChoose_of_none {s : State} {l : LaneId} (h : startReady s l = none) :
    startThenChoose l s = choose l s := by
  simp only [startThenChoose, h]

/-- A lane in RUN with an empty queue forgets its last held notice when it chooses (R120). -/
theorem choose_of_empty {s : State} {l : LaneId} (hm : (s.lane l).mode = .run) (hq : (s.lane l).queue = []) :
    choose l s = modLane l (fun L => { L with lastHeld := none }) s := by
  have hqueued : (s.lane l).queued = [] := by rw [Lane.queued, hq]; rfl
  rw [choose_of_ready hm (by rw [Lane.back, hq]; rfl), hqueued, chooseFrom, choiceEmpty, hqueued]

/-! ### RUN LANE and STOP LANE -/

/-- RUN LANE taken and answered, before the START test and the lane's choice (R145). -/
def runSaid (o : Order) (l : LaneId) (s : State) : State :=
  submit (orderDone o .done 0 0) (submit (modeByOrder l .run) (modLane l (fun L => { L with mode := .run }) s))

theorem runSaid_lane (o : Order) (l : LaneId) (s : State) :
    (runSaid o l s).lane l = { s.lane l with mode := .run } := by
  rw [runSaid, lane_of_lanes (submit_lanes _ _), lane_of_lanes (submit_lanes _ _), lane_modLane]

theorem runSaid_clock (o : Order) (l : LaneId) (s : State) : (runSaid o l s).clock = s.clock :=
  (submit_clock _ _).trans (submit_clock _ _)

theorem runSaid_preload (o : Order) (l : LaneId) (s : State) : (runSaid o l s).preload l = s.preload l :=
  preload_congr ((submit_profile _ _).trans (submit_profile _ _)) l

theorem exec_stopLane {s : State} {o : Order} {l : LaneId} (ho : s.inHand = some o) (hk : o.kind = 8)
    (hl : o.lane.toNat = l.val) (hm : (s.lane l).mode = .run) : exec .stopLane s =
      .next (finishOrder (submit (orderDone o .done 0 0) (submit (modeByOrder l .stop)
        (modLane l (fun L => { L with mode := .stop, lastHeld := none }) s)))) := by
  refine congrArg Host.Outcome.next ?_
  rw [handleOrder_of_kind ho hk, decideStop]
  simp only [laneOf_eq_some hl, hm]
  rfl

theorem exec_runLane {s : State} {o : Order} {l : LaneId} (ho : s.inHand = some o) (hk : o.kind = 7)
    (hl : o.lane.toNat = l.val) (hm : (s.lane l).mode = .stop) :
    exec .runLane s = .next (finishOrder (startThenChoose l (runSaid o l s))) := by
  refine congrArg Host.Outcome.next ?_
  rw [handleOrder_of_kind ho hk, decideRun]
  simp only [laneOf_eq_some hl, hm]
  rfl

/-- Settles O38: the notice and the answer, and for RUN the START test with the lane's choice. -/
theorem laneOrdersChangeMode : Obligations.LaneOrdersChangeMode := by
  intro s o l ho hl
  refine ⟨fun hk hm => exec_stopLane ho hk hl hm, fun hk hm => ?_⟩
  have hx := exec_runLane ho hk hl hm
  have hlane := runSaid_lane o l s
  refine ⟨fun hwait hb => ?_, fun hb => ?_, fun hq => ?_, fun p c hf hd hb hc hrows => ?_⟩
  · have hnone : startReady (runSaid o l s) l = none := by
      refine startReady_eq_none ?_
      rw [hlane, runSaid_preload]
      exact .inr (.inr hwait)
    rw [hx, startThenChoose_of_none hnone, choose_idle (.inr (by rw [hlane]; exact hb))]
    rfl
  · have hnone : startReady (runSaid o l s) l = none :=
      startReady_eq_none (.inr (.inl (by rw [hlane]; exact hb)))
    rw [hx, startThenChoose_of_none hnone]
    rfl
  · have hnone : startReady (runSaid o l s) l = none :=
      startReady_eq_none (.inr (.inl (by rw [hlane, Lane.back, hq]; rfl)))
    rw [hx, startThenChoose_of_none hnone, choose_of_empty (by rw [hlane]) (by rw [hlane]; exact hq)]
    rfl
  · have hsome : startReady (runSaid o l s) l = some (p, c) := by
      rw [startReady_eq_some, hlane, runSaid_preload]
      exact ⟨hb, hc, rfl, hf, hd, hrows⟩
    rw [hx, startThenChoose_of_ready hsome, runSaid_clock]
    rfl

/-! ### READY -/

/-- The state with a message of the lane's setter heard, outside FAULT (R129). -/
def heard (l : LaneId) (s : State) : State := modLane l (fun L => { L with lastMessage := some s.clock }) s

theorem heard_lane (l : LaneId) (s : State) :
    (heard l s).lane l = { s.lane l with lastMessage := some s.clock } := lane_modLane _ _ _

theorem heard_lane_ne {l k : LaneId} (hk : k ≠ l) (s : State) : (heard l s).lane k = s.lane k := lane_modLane_ne _ _ hk

theorem QueuesSafe.heard {s : State} (h : QueuesSafe s) (l : LaneId) : QueuesSafe (heard l s) :=
  h.of_modLane_queue l _ rfl

/-- READY that fits sets drum-ready, and the START test follows (R135). -/
theorem readyTaken_fits {s : State} {l : LaneId} (hf : (s.lane l).front = none) (hd : (s.lane l).drumReady = false) :
    readyTaken l s = tryStart l (modLane l (fun L => { L with drumReady := true }) s) := if_pos ⟨hf, hd⟩

theorem exec_ready {s : State} {l : LaneId} (hm : (s.lane l).mode ≠ .fault) (hf : (s.lane l).front = none)
    (hd : (s.lane l).drumReady = false) : exec (.ready l) s = .next (tryStart l
      (modLane l (fun L => { L with lastMessage := some s.clock, drumReady := true }) s)) := by
  refine congrArg Host.Outcome.next ?_
  rw [takeMessage_eq hm, readyTaken_fits (by rw [lane_modLane]; exact hf) (by rw [lane_modLane]; exact hd),
    modLane_modLane]

theorem QueuesSafe.started {s : State} (h : QueuesSafe s) {l : LaneId} (hf : (s.lane l).front = none) (p : Plate)
    (c : Latched) : QueuesSafe (modLane l (fun L => L.started p c s.clock) s) := by
  rw [← sendStart_eq]
  exact h.of_sendStart hf p c

/-- The plate that START is sent for is the front plate (R115, R134). -/
theorem started_front {s : State} (hq : QueuesSafe s) {l : LaneId} {p : Plate} {c : Latched}
    (hr : startReady s l = some (p, c)) :
    ((modLane l (fun L => L.started p c s.clock) s).lane l).front =
      some { p with state := .exposing, returned := false } := by
  obtain ⟨hb, -, -, hf, -⟩ := startReady_eq_some.1 hr
  refine ((hq.started hf p c).ok l).front_eq ?_ rfl
  rw [lane_modLane]
  exact List.mem_map.2 ⟨p, (Lane.back_mem hb).1, if_pos rfl⟩

/-- Settles O45: drum-ready is set, and the START test of the back plate then passes or does not. -/
theorem readyStartsBufferedPlate : Obligations.ReadyStartsBufferedPlate := by
  intro s l hf hd hm
  let u := modLane l (fun L => { L with lastMessage := some s.clock, drumReady := true }) s
  have hulane : u.lane l = { s.lane l with lastMessage := some s.clock, drumReady := true } := lane_modLane _ _ _
  have hx : exec (.ready l) s = .next (tryStart l u) := exec_ready hm hf hd
  refine ⟨fun hwait => ?_, fun p c hq hrun hb hc hrows => ?_⟩
  · have hnone : startReady u l = none := by
      refine startReady_eq_none ?_
      rw [hulane]
      rcases hwait with h | h | h
      · exact .inl (by rw [h]; simp)
      · exact .inr (.inl h)
      · exact .inr (.inr (.inr (.inr h)))
    rw [hx, tryStart_of_none hnone]
  · have hsome : startReady u l = some (p, c) := by
      rw [startReady_eq_some, hulane]
      exact ⟨hb, hc, hrun, hf, rfl, hrows⟩
    have huq : QueuesSafe u := hq.of_modLane_queue l _ rfl
    let v := modLane l (fun L => L.started p c u.clock) u
    have hvq : QueuesSafe v := huq.started (by rw [hulane]; exact hf) p c
    have hvlane : v.lane l = (u.lane l).started p c s.clock := lane_modLane _ _ _
    have hcontrol := control_of_steady (choose_reacts l v).steady l
    rw [hvlane, hulane] at hcontrol
    refine ⟨_, hx.trans (congrArg _ (tryStart_of_ready hsome)), ?_, congrArg Lane.sent hcontrol,
      congrArg Lane.drumReady hcontrol, congrArg Lane.owed hcontrol, congrArg Lane.frontCtx hcontrol,
      congrArg Lane.buffer hcontrol, fun k hk => ?_⟩
    · exact (choose_chosen (hvq.ok l).tags).front.trans (started_front huq hsome)
    · rw [choose_lane_ne hk, lane_modLane_ne _ _ hk, lane_modLane_ne _ _ hk]

end Sys2Proof.Machine
end

section
/-! ## PULL -/

namespace Sys2Proof.Machine

/-! ### Rows sent -/

/-- How many front rows the buffer of a lane begins with. -/
def Lane.frontRun (L : Lane) : Nat := (L.buffer.takeWhile fun r => r.mark == .front).length

/-- A lane that has sent its first `k` buffered rows (R136). -/
def Lane.fed (L : Lane) (k : Nat) (now : Tick) : Lane :=
  { L with
    owed := L.owed - k, buffer := L.buffer.drop k
    sent := L.sent ++ (L.buffer.take k).map fun r => SetterMsg.row r.bytes
    lastSent := if 0 < k then now else L.lastSent }

theorem Lane.fed_zero (L : Lane) (now : Tick) : L.fed 0 now = L := by simp [Lane.fed]

theorem Lane.fed_fed {L : Lane} {r : BufferedRow} {rest : List BufferedRow} (hb : L.buffer = r :: rest) (k : Nat)
    (now : Tick) : (L.fed 1 now).fed k now = L.fed (k + 1) now := by
  simp [Lane.fed, hb, Nat.sub_sub, Nat.add_comm]

theorem sendRow_eq {l : LaneId} {r : BufferedRow} {rest : List BufferedRow} {s : State}
    (hb : (s.lane l).buffer = r :: rest) : sendRow l r rest s = modLane l (fun L => L.fed 1 s.clock) s := by
  simp only [sendRow, sendMsg, modLane_modLane]
  exact modLane_congr (by simp [Lane.fed, hb])

/-- While a front row of those at the head of the buffer is still to be sent, the last row is not (R138). -/
theorem lastRowSent_fed {L : Lane} {k : Nat} (hk : k < L.frontRun) (now : Tick) :
    lastRowSent (L.fed k now) = false := by
  have hpre : L.buffer.takeWhile (fun r => r.mark == .front) <+: L.buffer := List.takeWhile_prefix _
  have hlen : k < L.buffer.length := lt_of_lt_of_le hk hpre.length_le
  have hmark : (L.buffer[k].mark == .front) = true := by
    have := List.mem_takeWhile_imp (List.getElem_mem hk)
    rwa [hpre.getElem hk] at this
  have hmem : L.buffer[k] ∈ rowsOf .front (L.fed k now).buffer :=
    List.mem_filter.2 ⟨List.mem_drop_iff_getElem.2 ⟨0, by simpa using hlen, by simp⟩, hmark⟩
  have hne : (rowsOf .front (L.fed k now).buffer).isEmpty = false := by
    rw [← Bool.not_eq_true, List.isEmpty_iff]
    exact List.ne_nil_of_mem hmem
  unfold lastRowSent
  split
  · rw [hne, Bool.and_false]
  · rfl

/-- All owed rows at the head of the buffer are sent, and FINISH follows where the plate's last row is among them (R136,
R138). -/
theorem feed_eq {l : LaneId} {p : Plate} (hs : p.state = .exposing) (n : Nat) {s : State}
    (hp : (s.lane l).front = some p) (ho : (s.lane l).owed = n) :
    let m := min n (s.lane l).frontRun
    let t := modLane l (fun L => L.fed m s.clock) s
    feed l n s = if 0 < m ∧ lastRowSent (t.lane l) = true then finishFront l p t else t := by
  induction n generalizing s with
  | zero =>
    have h0 : modLane l (fun L => L.fed 0 s.clock) s = s := modLane_self (Lane.fed_zero _ _)
    simp [feed, h0]
  | succ n ih =>
    intro m t
    have hnone : (s.lane l).frontRun = 0 → t = s := fun h => by
      simp only [t, m, h, Nat.min_zero]
      exact modLane_self (Lane.fed_zero _ _)
    cases hb : (s.lane l).buffer with
    | nil =>
      have hrun : (s.lane l).frontRun = 0 := by simp [Lane.frontRun, hb]
      simp [feed, hb, m, hrun, hnone hrun]
    | cons r rest =>
      by_cases hr : r.mark = .front
      · let u := modLane l (fun L => L.fed 1 s.clock) s
        have hulane : u.lane l = (s.lane l).fed 1 s.clock := lane_modLane _ _ _
        have hrun : (s.lane l).frontRun = (u.lane l).frontRun + 1 := by
          simp [Lane.frontRun, hulane, Lane.fed, hb, hr]
        have hm : m = min n (u.lane l).frontRun + 1 := by omega
        have ht : modLane l (fun L => L.fed (min n (u.lane l).frontRun) u.clock) u = t := by
          simp only [t, hm]
          rw [modLane_modLane]
          exact modLane_congr (Lane.fed_fed hb _ _)
        have hstep : feed l (n + 1) s =
            if lastRowSent (u.lane l) = true then finishFront l p u else feed l n u := by
          rw [feed]
          simp only [hp, hb]
          rw [if_pos ⟨hs, by omega, hr⟩, sendRow_eq hb]
        have hih := ih (s := u) (by rw [hulane]; exact hp) (by rw [hulane, Lane.fed, ho]; rfl)
        simp only [ht] at hih
        rw [hstep]
        by_cases hl : lastRowSent (u.lane l) = true
        · have hrun0 : (u.lane l).frontRun = 0 := by
            by_contra hpos
            rw [hulane, lastRowSent_fed (by omega)] at hl
            cases hl
          have htu : t = u := by simp only [t, hm, hrun0, Nat.min_zero, Nat.zero_add]; rfl
          rw [if_pos hl, if_pos ⟨by omega, by rw [htu]; exact hl⟩, htu]
        · rw [if_neg hl, hih]
          by_cases h0 : min n (u.lane l).frontRun = 0
          · have htu : t = u := by simp only [t, hm, h0, Nat.zero_add]; rfl
            rw [if_neg (by omega), if_neg (by rw [htu]; exact fun h => hl h.2)]
          · have h1 : 0 < min n (u.lane l).frontRun := by omega
            have h2 : 0 < m := by omega
            simp only [h1, h2, true_and]
      · have hrun : (s.lane l).frontRun = 0 := by simp [Lane.frontRun, hb, hr]
        rw [feed]
        simp only [hp, hb]
        rw [if_neg (fun h => hr h.2.2), if_neg (by omega), hnone hrun]

/-! ### PULL taken -/

theorem pullTaken_exposing {s : State} {l : LaneId} {n : BitVec 16} {p : Plate} (hp : (s.lane l).front = some p)
    (h1 : 1 ≤ n.toNat) (h64 : n.toNat ≤ 64) (hs : p.state = .exposing) : pullTaken l n s =
      if 0 < (s.lane l).owed then cancelFront p (spoil p .underrun s)
      else feedAll l (modLane l (fun L => { L with owed := n.toNat }) s) := by
  simp only [pullTaken, hp, underrun]
  rw [if_neg (by omega), if_pos hs]

theorem pullTaken_cancelling {s : State} {l : LaneId} {n : BitVec 16} {p : Plate} (hp : (s.lane l).front = some p)
    (h1 : 1 ≤ n.toNat) (h64 : n.toNat ≤ 64) (hs : p.state = .cancelling) : pullTaken l n s = s := by
  simp only [pullTaken, hp]
  rw [if_neg (by omega), if_neg (by simp [hs]), if_pos hs]

/-- A PULL with no row owed, for a front plate in EXPOSING: the rows are sent, and FINISH after the last (R136, R138). -/
theorem exec_pull_feeds {s : State} {l : LaneId} {n : BitVec 16} {p : Plate} (hm : (s.lane l).mode ≠ .fault)
    (hp : (s.lane l).front = some p) (h1 : 1 ≤ n.toNat) (h64 : n.toNat ≤ 64) (hs : p.state = .exposing)
    (ho : (s.lane l).owed = 0) :
    let m := min n.toNat (s.lane l).frontRun
    let t := modLane l
      (fun L => Lane.fed { L with lastMessage := some s.clock, owed := n.toNat } m s.clock) s
    exec (.pull l n) s = .next (if 0 < m ∧ lastRowSent (t.lane l) = true then finishFront l p t else t) := by
  intro m t
  have hhl := heard_lane l s
  let u := modLane l (fun L => { L with owed := n.toNat }) (heard l s)
  have hul : u.lane l = { s.lane l with lastMessage := some s.clock, owed := n.toNat } := by
    rw [lane_modLane, hhl]
  refine congrArg Host.Outcome.next ?_
  rw [takeMessage_eq hm]
  change pullTaken l n (heard l s) = _
  rw [pullTaken_exposing (by rw [hhl]; exact hp) h1 h64 hs, if_neg (by rw [hhl, ho]; omega)]
  change feed l (u.lane l).owed u = _
  have hfeed := feed_eq hs (u.lane l).owed (s := u) (by rw [hul]; exact hp) rfl
  have hmu : min (u.lane l).owed (u.lane l).frontRun = m := by rw [hul]; rfl
  have htu : modLane l (fun L => L.fed m u.clock) u = t := by
    simp only [u, heard, modLane_modLane]
    rfl
  simp only [hmu, htu] at hfeed
  exact hfeed

theorem finishFront_eq (l : LaneId) (p : Plate) (s : State) : finishFront l p s = modLane l (fun L => { L with
    owed := 0, sent := L.sent ++ [.finish p.tag], lastSent := s.clock
    queue := L.queue.map fun x => if x.tag = p.tag then { x with state := .finishing } else x }) s := by
  simp only [finishFront, modPlate, sendMsg, modLane_modLane]

/-- Settles O46: the rows fed with or without FINISH after them, the underrun, and the PULL absorbed. -/
theorem pullFeedsFrontPlate : Obligations.PullFeedsFrontPlate := by
  intro s l n p hq hm hp h1 h64 buf m rows
  have hhl := heard_lane l s
  have hhp : ((heard l s).lane l).front = some p := by rw [hhl]; exact hp
  refine ⟨fun c hs ho hc => ?_, fun hs ho => ?_, fun hs => ?_⟩
  · let t := modLane l (fun L => Lane.fed { L with lastMessage := some s.clock, owed := n.toNat } m s.clock) s
    have hx : exec (.pull l n) s =
        .next (if 0 < m ∧ lastRowSent (t.lane l) = true then finishFront l p t else t) :=
      exec_pull_feeds hm hp h1 h64 hs ho
    have hlast : lastRowSent (t.lane l) = true ↔ c.ctx.th * 256 ≤ c.composed ∧ rowsOf .front (buf.drop m) = [] := by
      have : lastRowSent (t.lane l) =
          (decide (c.ctx.th * 256 ≤ c.composed) && (rowsOf .front (buf.drop m)).isEmpty) := by
        simp only [t, lane_modLane, lastRowSent, Lane.fed, hc]
        rfl
      rw [this, Bool.and_eq_true, decide_eq_true_iff, List.isEmpty_iff]
    rw [hx]
    refine ⟨fun h => ?_, fun hall h0 hempty => ?_⟩
    · rw [if_neg]
      · rfl
      · rintro ⟨h0, hl⟩
        obtain ⟨hall, hempty⟩ := hlast.1 hl
        rcases h with h | h | h
        · omega
        · omega
        · exact h hempty
    · rw [if_pos ⟨h0, hlast.2 ⟨hall, hempty⟩⟩, finishFront_eq]
      simp only [t, modLane_modLane]
      rfl
  · obtain rfl := (hq.ok l).own p (Lane.front_mem hp).1
    have hx : exec (.pull p.lane n) s = .next (modLane p.lane (fun L => L.spoilCancelled p .underrun s.clock)
        (submit (plateOutcome p 2 1) (heard p.lane s))) := by
      refine congrArg Host.Outcome.next ?_
      rw [takeMessage_eq hm]
      change pullTaken p.lane n (heard p.lane s) = _
      rw [pullTaken_exposing hhp h1 h64 hs, if_pos (by rw [hhl]; exact ho), spoilCancel_eq]
      rfl
    have hlane : (submit (plateOutcome p 2 1) (heard p.lane s)).lane p.lane =
        { s.lane p.lane with lastMessage := some s.clock } := (lane_of_lanes (submit_lanes _ _) _).trans hhl
    refine ⟨_, hx, ?_, ?_, ?_, ?_, ?_, ?_, submit_reports_congr _ rfl rfl, fun k hk => ?_⟩
    · rw [lane_modLane, hlane]
      exact find?_map_tag (g := fun x => { x with state := .cancelling, spoil := some .underrun })
        (hq.ok p.lane).tags hp rfl
    · rw [lane_modLane, hlane]; rfl
    · rw [lane_modLane]; rfl
    · rw [lane_modLane]; rfl
    · rw [lane_modLane, hlane]; rfl
    · rw [lane_modLane, hlane]; rfl
    · rw [lane_modLane_ne _ _ hk, lane_of_lanes (submit_lanes _ _), heard_lane_ne hk]
  · refine congrArg Host.Outcome.next ?_
    rw [takeMessage_eq hm]
    exact pullTaken_cancelling hhp h1 h64 hs

end Sys2Proof.Machine
end

section
/-! ## What messages keep of the links, and messages that do not fit -/

namespace Sys2Proof.Machine

/-! ### The links -/

/-- What becomes of a message taken leaves the lanes' modes and link timers, and adds reports (R129, R132). -/
structure LinksKept (s t : State) : Prop where
  mode : ∀ k, (t.lane k).mode = (s.lane k).mode
  lastMessage : ∀ k, (t.lane k).lastMessage = (s.lane k).lastMessage
  clock : t.clock = s.clock
  reports : s.reports <+: t.reports

theorem LinksKept.refl (s : State) : LinksKept s s := ⟨fun _ => rfl, fun _ => rfl, rfl, List.prefix_rfl⟩

theorem LinksKept.trans {s t u : State} (h : LinksKept s t) (k : LinksKept t u) : LinksKept s u where
  mode j := (k.mode j).trans (h.mode j)
  lastMessage j := (k.lastMessage j).trans (h.lastMessage j)
  clock := k.clock.trans h.clock
  reports := h.reports.trans k.reports

theorem LinksKept.noLaneRuns {s t : State} (h : LinksKept s t) (hn : NoLaneRuns s) : NoLaneRuns t := fun k => by
  rw [h.mode]
  exact hn k

theorem Reacts.linksKept {s t : State} (h : Reacts s t) : LinksKept s t where
  mode k := (congrArg Lane.mode (control_of_steady h.steady k) :)
  lastMessage k := (congrArg Lane.lastMessage (control_of_steady h.steady k) :)
  clock := (congrArg State.clock h.steady :)
  reports := h.reports

theorem linksKept_modLane (l : LaneId) {g : Lane → Lane} (s : State) (hm : ∀ L, (g L).mode = L.mode)
    (ht : ∀ L, (g L).lastMessage = L.lastMessage) : LinksKept s (modLane l g s) where
  mode k := by
    by_cases hk : k = l
    · rw [hk, lane_modLane, hm]
    · rw [lane_modLane_ne _ _ hk]
  lastMessage k := by
    by_cases hk : k = l
    · rw [hk, lane_modLane, ht]
    · rw [lane_modLane_ne _ _ hk]
  clock := rfl
  reports := List.prefix_rfl

theorem linksKept_unlock (b : Bool) (k : Key) (s : State) : LinksKept s (if b then releaseLock k s else s) := by
  cases b
  · exact .refl s
  · exact (releaseLock_reacts k s).linksKept

theorem linksKept_submit (r : Report) (s : State) : LinksKept s (submit r s) := (submit_reacts r s).linksKept

/-! ### Plates that start, leave, or end -/

theorem linksKept_sendStart (l : LaneId) (p : Plate) (c : Latched) (s : State) : LinksKept s (sendStart l p c s) := by
  rw [sendStart_eq]
  exact linksKept_modLane l s (fun _ => rfl) fun _ => rfl

theorem linksKept_tryStart (l : LaneId) (s : State) : LinksKept s (tryStart l s) := by
  unfold tryStart
  split
  · exact (linksKept_sendStart l _ _ s).trans (choose_reacts l _).linksKept
  · exact .refl s

theorem linksKept_startThenChoose (l : LaneId) (s : State) : LinksKept s (startThenChoose l s) := by
  unfold startThenChoose
  split
  · exact (linksKept_sendStart l _ _ s).trans (choose_reacts l _).linksKept
  · exact (choose_reacts l s).linksKept

theorem linksKept_leaveFront (l : LaneId) (before s : State) : LinksKept s (leaveFront l before s) := by
  unfold leaveFront
  split
  · exact linksKept_startThenChoose l s
  · exact linksKept_tryStart l s

theorem linksKept_dropFront (l : LaneId) (s : State) : LinksKept s (dropFront l s) :=
  linksKept_modLane l s (fun _ => rfl) fun _ => rfl

theorem linksKept_dropBack (l : LaneId) (s : State) : LinksKept s (dropBack l s) :=
  linksKept_modLane l s (fun _ => rfl) fun _ => rfl

theorem linksKept_spoil (p : Plate) (c : SpoilCause) (s : State) : LinksKept s (spoil p c s) :=
  ((linksKept_submit _ s).trans (modPlate_reacts _ _ _ _).linksKept).trans
    (linksKept_modLane p.lane _ (fun _ => rfl) fun _ => rfl)

theorem linksKept_cancelFront (p : Plate) (s : State) : LinksKept s (cancelFront p s) :=
  ((linksKept_modLane p.lane (g := fun L => { L with sent := L.sent ++ [.cancel p.tag], lastSent := s.clock }) s
    (fun _ => rfl) fun _ => rfl).trans (modPlate_reacts _ _ _ _).linksKept).trans (linksKept_dropFront _ _)

theorem linksKept_endPlate (p : Plate) (e : PlateEnd) (s : State) : LinksKept s (endPlate p e s) := by
  unfold endPlate
  exact ((linksKept_submit _ s).trans (linksKept_unlock _ _ _)).trans (removePlate_reacts _ _ _).linksKept

theorem linksKept_returnPlate (p : Plate) (n : Nat) (s : State) : LinksKept s (returnPlate p n s) := by
  refine LinksKept.trans ?_ (lateTest_reacts _ _ _).linksKept
  exact (linksKept_unlock _ _ s).trans (linksKept_modLane p.lane _ (fun _ => rfl) fun _ => rfl)

theorem linksKept_giveBack (l : LaneId) (s : State) : LinksKept s (giveBack l s) := by
  unfold giveBack
  split
  · exact (linksKept_dropBack l s).trans (linksKept_returnPlate _ _ _)
  · exact .refl s

theorem linksKept_resolveFront (l : LaneId) (s : State) : LinksKept s (resolveFront l s) := by
  unfold resolveFront
  split
  · exact .refl s
  · refine (linksKept_dropFront l s).trans ?_
    simp only
    split
    · exact (linksKept_endPlate _ _ _).trans (linksKept_submit _ _)
    · split
      · exact linksKept_returnPlate _ _ _
      · exact linksKept_endPlate _ _ _

theorem linksKept_exposeFront (l : LaneId) (p : Plate) (s : State) : LinksKept s (exposeFront l p s) := by
  refine ((linksKept_dropFront l s).trans (linksKept_endPlate p .exposed _)).trans ?_
  unfold exposeFront
  simp only
  split
  · exact linksKept_submit _ _
  · exact .refl _

theorem linksKept_faultFront (l : LaneId) (s : State) : LinksKept s (faultFront l s) := by
  unfold faultFront
  split
  · split
    · exact linksKept_resolveFront l s
    · exact (linksKept_spoil _ _ s).trans (linksKept_resolveFront l _)
  · exact .refl s

theorem linksKept_feed (l : LaneId) (n : Nat) (s : State) : LinksKept s (feed l n s) := by
  induction n generalizing s with
  | zero => exact .refl s
  | succ n ih =>
    unfold feed
    split
    · next p r rest _ hb =>
      split
      · have hsent : LinksKept s (sendRow l r rest s) := by
          rw [sendRow_eq hb]
          exact linksKept_modLane l s (fun _ => rfl) fun _ => rfl
        simp only
        split
        · rw [finishFront_eq]
          exact hsent.trans (linksKept_modLane l _ (fun _ => rfl) fun _ => rfl)
        · exact hsent.trans (ih _)
      · exact .refl s
    · exact .refl s

/-! ### Messages taken -/

theorem linksKept_readyTaken (l : LaneId) (s : State) : LinksKept s (readyTaken l s) := by
  unfold readyTaken
  split
  · refine LinksKept.trans ?_ (linksKept_tryStart l _)
    exact linksKept_modLane l s (fun _ => rfl) fun _ => rfl
  · exact linksKept_submit _ s

theorem linksKept_pullTaken (l : LaneId) (n : BitVec 16) (s : State) : LinksKept s (pullTaken l n s) := by
  unfold pullTaken
  split
  · next p hp =>
    split
    · exact linksKept_submit _ s
    · split
      · split
        · simp only [underrun, hp]
          exact (linksKept_spoil p _ s).trans (linksKept_cancelFront p _)
        · refine LinksKept.trans ?_ (linksKept_feed l _ _)
          exact linksKept_modLane l s (fun _ => rfl) fun _ => rfl
      · split
        · exact .refl s
        · exact linksKept_submit _ s
  · exact linksKept_submit _ s

theorem linksKept_exposedTaken (l : LaneId) (tag : Tag) (s : State) : LinksKept s (exposedTaken l tag s) := by
  unfold exposedTaken
  split
  · split
    · exact ((linksKept_exposeFront l _ s).trans (linksKept_tryStart l _)).trans (settleLocks_reacts _ _ _).linksKept
    · exact linksKept_submit _ s
  · exact linksKept_submit _ s

theorem linksKept_ejectedTaken (l : LaneId) (tag : Tag) (s : State) : LinksKept s (ejectedTaken l tag s) := by
  unfold ejectedTaken
  split
  · split
    · exact ((linksKept_resolveFront l s).trans (linksKept_leaveFront l _ _)).trans
        (settleLocks_reacts _ _ _).linksKept
    · exact linksKept_submit _ s
  · exact linksKept_submit _ s

/-- The front plate's resolution at a FAULT, with what it sets off on the lane (R141). -/
def faultResolved (l : LaneId) (s : State) : State :=
  if (s.lane l).front.isSome then leaveFront l s (faultFront l s) else faultFront l s

/-- A lane stopped by a FAULT (R141). -/
def Lane.faulted (L : Lane) : Lane := { L with drumReady := false, mode := .stop, lastHeld := none }

/-- The state that a FAULT leaves but for the announcement of a lock released (R141). -/
def faultSaid (l : LaneId) (c : FaultCause) (s : State) : State :=
  submit (modeByMedia l .stop c) (modLane l Lane.faulted (faultResolved l s))

theorem faultTaken_eq (l : LaneId) (c : FaultCause) (s : State) :
    faultTaken l c s = settleLocks s (faultFront l s) (faultSaid l c s) := rfl

theorem linksKept_faultResolved (l : LaneId) (s : State) : LinksKept s (faultResolved l s) := by
  unfold faultResolved
  split
  · exact (linksKept_faultFront l s).trans (linksKept_leaveFront l _ _)
  · exact linksKept_faultFront l s

theorem faultSaid_lane (l : LaneId) (c : FaultCause) (s : State) :
    (faultSaid l c s).lane l = ((faultResolved l s).lane l).faulted := by
  rw [faultSaid, lane_of_lanes (submit_lanes _ _), lane_modLane]

/-- A lane in STOP makes no choice when a FAULT's lock is announced (R17, R119). -/
theorem faultTaken_lane (l : LaneId) (c : FaultCause) (s : State) :
    (faultTaken l c s).lane l = ((faultResolved l s).lane l).faulted := by
  rw [faultTaken_eq]
  exact (reactionsKeep_lane (.inl (by simp [Lane.faulted]))).settleLocks _ _ (faultSaid_lane l c s)

/-- A FAULT stops the lane, whose link timer stays as the message left it (R129, R141). -/
theorem faultTaken_link (l : LaneId) (c : FaultCause) (s : State) : ((faultTaken l c s).lane l).mode = .stop ∧
    ((faultTaken l c s).lane l).lastMessage = (s.lane l).lastMessage ∧ s.reports <+: (faultTaken l c s).reports := by
  have hkept := linksKept_faultResolved l s
  rw [faultTaken_lane]
  refine ⟨rfl, hkept.lastMessage l, hkept.reports.trans ?_⟩
  exact (submit_reacts (modeByMedia l .stop c) (modLane l Lane.faulted (faultResolved l s))).reports.trans
    (settleLocks_reacts s (faultFront l s) _).reports

/-! ### A message heard in mode FAULT -/

/-- The state with a message heard in mode FAULT: the lane is in STOP, and LINK UP is reported (R144). -/
def linkUp (l : LaneId) (s : State) : State :=
  submit (linkUpNotice l) (modLane l (fun L => { L with lastMessage := some s.clock, mode := .stop }) s)

theorem takeMessage_of_fault {l : LaneId} {s : State} (h : (s.lane l).mode = .fault) : takeMessage l s = linkUp l s := by
  simp only [takeMessage, h, if_true, modLane_modLane]
  rfl

theorem linkUp_lane (l : LaneId) (s : State) :
    (linkUp l s).lane l = { s.lane l with lastMessage := some s.clock, mode := .stop } := by
  rw [linkUp, lane_of_lanes (submit_lanes _ _), lane_modLane]

/-- A message restarts the link timer and takes the lane out of FAULT, before anything else (R129, R144). -/
theorem takeMessage_link (l : LaneId) (s : State) : ((takeMessage l s).lane l).lastMessage = some s.clock ∧
    ((s.lane l).mode = .fault → ((takeMessage l s).lane l).mode = .stop) ∧
    ((s.lane l).mode ≠ .fault → ((takeMessage l s).lane l).mode = (s.lane l).mode) := by
  by_cases h : (s.lane l).mode = .fault
  · rw [takeMessage_of_fault h, linkUp_lane]
    exact ⟨rfl, fun _ => rfl, fun hn => absurd h hn⟩
  · rw [takeMessage_eq h, lane_modLane]
    exact ⟨rfl, fun hf => absurd hf h, fun _ => rfl⟩

/-- What every message does to the link and the mode (R129, R132, R144): `stops` says that it is a FAULT. -/
structure HeardBy (l : LaneId) (stops : Prop) (s t : State) : Prop where
  lastMessage : (t.lane l).lastMessage = some s.clock
  mode : (t.lane l).mode ≠ .fault
  linkUp : (s.lane l).mode = .fault → (t.lane l).mode = .stop ∧ (linkUp l s).reports <+: t.reports
  kept : (s.lane l).mode ≠ .fault → ¬ stops → (t.lane l).mode = (s.lane l).mode

/-- A message other than FAULT, taken once the link has heard it. -/
theorem LinksKept.heardBy {l : LaneId} {s t : State} (h : LinksKept (takeMessage l s) t) (stops : Prop) :
    HeardBy l stops s t := by
  obtain ⟨hlast, hfault, hother⟩ := takeMessage_link l s
  refine ⟨(h.lastMessage l).trans hlast, ?_, fun hf => ⟨(h.mode l).trans (hfault hf), ?_⟩,
    fun hn _ => (h.mode l).trans (hother hn)⟩
  · rw [h.mode]
    by_cases hf : (s.lane l).mode = .fault
    · rw [hfault hf]; simp
    · rw [hother hf]; exact hf
  · rw [← takeMessage_of_fault hf]
    exact h.reports

theorem faultTaken_heardBy (l : LaneId) (c : FaultCause) (s : State) :
    HeardBy l True s (faultTaken l c (takeMessage l s)) := by
  obtain ⟨hmode, hlast, hreports⟩ := faultTaken_link l c (takeMessage l s)
  refine ⟨hlast.trans (takeMessage_link l s).1, by rw [hmode]; simp, fun hf => ⟨hmode, ?_⟩, fun _ h => absurd trivial h⟩
  rw [← takeMessage_of_fault hf]
  exact hreports

/-! ### Messages that do not fit -/

theorem readyTaken_stray {s : State} {l : LaneId} (h : (s.lane l).front ≠ none ∨ (s.lane l).drumReady = true) :
    readyTaken l s = submit (strayNotice l 1 0 (s.lane l).front) s := by
  refine if_neg fun hc => ?_
  rcases h with h | h
  · exact h hc.1
  · simp [hc.2] at h

theorem pullTaken_stray {s : State} {l : LaneId} {n : BitVec 16}
    (h : n.toNat = 0 ∨ 64 < n.toNat ∨ ∀ p, (s.lane l).front = some p → p.state = .finishing) :
    pullTaken l n s = submit (strayNotice l 2 n.toNat (s.lane l).front) s := by
  unfold pullTaken
  split
  · next p hp =>
    by_cases hn : n.toNat = 0 ∨ 64 < n.toNat
    · rw [if_pos hn]; rfl
    · have hs : p.state = .finishing := by
        rcases h with h | h | h
        · exact absurd (.inl h) hn
        · exact absurd (.inr h) hn
        · exact h p hp
      rw [if_neg hn, if_neg (by simp [hs]), if_neg (by simp [hs])]
      rfl
  · rfl

theorem exposedTaken_stray {s : State} {l : LaneId} {tag : Tag}
    (h : ∀ p, (s.lane l).front = some p → p.tag ≠ tag ∨ p.state = .exposing) :
    exposedTaken l tag s = submit (strayNotice l 3 tag.toNat (s.lane l).front) s := by
  unfold exposedTaken
  split
  · next p hp =>
    refine if_neg fun hc => ?_
    rcases h p hp with h | h
    · exact h hc.1
    · simp [h] at hc
  · rfl

theorem ejectedTaken_stray {s : State} {l : LaneId} {tag : Tag}
    (h : ∀ p, (s.lane l).front = some p → p.tag ≠ tag ∨ p.state = .exposing ∨ p.state = .finishing) :
    ejectedTaken l tag s = submit (strayNotice l 4 tag.toNat (s.lane l).front) s := by
  unfold ejectedTaken
  split
  · next p hp =>
    refine if_neg fun hc => ?_
    rcases h p hp with h | h | h
    · exact h hc.1
    · simp [h] at hc
    · simp [h] at hc
  · rfl

/-- Settles O50: every message's effect on the link, the messages in mode FAULT, and the stray ones. -/
theorem messagesRestartLinkTimer : Obligations.MessagesRestartLinkTimer := by
  intro s l heard' front up
  have hup : (s.lane l).mode = .fault → takeMessage l s = up := takeMessage_of_fault
  refine ⟨fun c n tag m hm => ?_, fun hf => ⟨congrArg _ (hup hf), fun hnone => ?_⟩, fun hn => ?_⟩
  · have key : ∀ (stops : Prop) (t : State), exec m s = .next t → HeardBy l stops s t → (stops → m = .setterFault l c) →
        ∃ t, exec m s = .next t ∧ (t.lane l).lastMessage = some s.clock ∧ (t.lane l).mode ≠ .fault ∧
          ((s.lane l).mode = .fault → (t.lane l).mode = .stop ∧ up.reports <+: t.reports) ∧
          ((s.lane l).mode ≠ .fault → m ≠ .setterFault l c → (t.lane l).mode = (s.lane l).mode) :=
      fun stops t hx h hs => ⟨t, hx, h.lastMessage, h.mode, h.linkUp, fun hn hne => h.kept hn fun hst => hne (hs hst)⟩
    simp only [List.mem_cons, List.not_mem_nil, or_false] at hm
    rcases hm with rfl | rfl | rfl | rfl | rfl | rfl
    · exact key False _ rfl ((linksKept_readyTaken l _).heardBy _) False.elim
    · exact key False _ rfl ((linksKept_pullTaken l n _).heardBy _) False.elim
    · exact key False _ rfl ((linksKept_exposedTaken l tag _).heardBy _) False.elim
    · exact key False _ rfl ((linksKept_ejectedTaken l tag _).heardBy _) False.elim
    · exact key True _ rfl (faultTaken_heardBy l c s) fun _ => rfl
    · exact key False _ rfl ((LinksKept.refl _).heardBy _) False.elim
  · have hulane : up.lane l = { s.lane l with lastMessage := some s.clock, mode := .stop } := linkUp_lane l s
    have hufront : (up.lane l).front = none := by rw [hulane]; exact hnone
    have habsent : ∀ {P : Plate → Prop} p, (up.lane l).front = some p → P p := fun p hp => by
      rw [hufront] at hp
      cases hp
    refine ⟨fun hd => congrArg Host.Outcome.next ?_, fun n => congrArg Host.Outcome.next ?_, fun tag =>
      ⟨congrArg Host.Outcome.next ?_, congrArg Host.Outcome.next ?_⟩⟩
    · rw [hup hf, readyTaken_fits hufront (by rw [hulane]; exact hd)]
      exact tryStart_of_not_ready (.inl (by rw [lane_modLane, hulane]; simp))
    · rw [hup hf, pullTaken_stray (.inr (.inr habsent)), hufront]
    · rw [hup hf, exposedTaken_stray habsent, hufront]
    · rw [hup hf, ejectedTaken_stray habsent, hufront]
  · have hheard : takeMessage l s = heard' := takeMessage_eq hn
    have hfront : (heard'.lane l).front = front := by rw [show heard'.lane l = _ from heard_lane l s]; rfl
    have hdrum : (heard'.lane l).drumReady = (s.lane l).drumReady := by rw [show heard'.lane l = _ from heard_lane l s]
    refine ⟨congrArg Host.Outcome.next hheard, fun h => congrArg Host.Outcome.next ?_, fun n h => congrArg Host.Outcome.next ?_,
      fun tag h => congrArg Host.Outcome.next ?_, fun tag h => congrArg Host.Outcome.next ?_⟩
    · rw [hheard, readyTaken_stray (by rw [hfront, hdrum]; exact h), hfront]
    · rw [hheard, pullTaken_stray (by rw [hfront]; exact h), hfront]
    · rw [hheard, exposedTaken_stray (by rw [hfront]; exact h), hfront]
    · rw [hheard, ejectedTaken_stray (by rw [hfront]; exact h), hfront]

end Sys2Proof.Machine
end

section
/-! ## The resolution of a front plate, and FAULT -/

namespace Sys2Proof.Machine

/-! ### Reports counted and in their places -/

theorem submit_reports_length (r : Report) (s : State) :
    (submit r s).reports.length ≤ s.reports.length + 1 := by
  rw [submit_reports]
  split
  · simp
  · omega

/-- A report that finds room is on the list, stamped (R159, R170). -/
theorem mem_submit_reports {r : Report} {s : State} (h : s.reports.length < 64) :
    { r with stamp := s.clock } ∈ (submit r s).reports := by
  rw [submit_reports, if_pos h]
  exact List.mem_append_right _ (List.mem_singleton.2 rfl)

theorem submit_modLane (r : Report) (l : LaneId) (g : Lane → Lane) (s : State) :
    submit r (modLane l g s) = modLane l g (submit r s) := by
  calc submit r (modLane l g s)
      = (modLane l g s).withReports (submit r s) := submit_withReports r (t := modLane l g s) (u := s) rfl
    _ = modLane l g (s.withReports (submit r s)) := rfl
    _ = modLane l g (submit r s) := by rw [← submit_eq]

/-- A choice gives one HELD notice at most (R120). -/
theorem chooseFrom_reports_length (l : LaneId) (ps : List Plate) (s : State) :
    (chooseFrom l ps s).reports.length ≤ s.reports.length + 1 := by
  induction ps generalizing s with
  | nil =>
    unfold chooseFrom choiceEmpty
    split
    · exact Nat.le_succ _
    · split
      · exact Nat.le_succ _
      · split
        · exact Nat.le_succ _
        · exact submit_reports_length _ s
  | cons p ps ih =>
    unfold chooseFrom
    split
    · unfold beginLoading
      split
      · exact (congrArg List.length (modPage_reports _ _ s)).trans_le (Nat.le_succ _)
      · exact Nat.le_succ _
    · refine (ih _).trans_eq ?_
      unfold setHeld
      split <;> rfl

theorem choose_reports_length (l : LaneId) (s : State) : (choose l s).reports.length ≤ s.reports.length + 1 := by
  unfold choose
  split
  · exact chooseFrom_reports_length l _ s
  · exact Nat.le_succ _

/-- Where no lane runs, falling lock counts bring no report about. -/
theorem settleLocks_reports_quiet {s : State} (hn : NoLaneRuns s) (a b : State) :
    (settleLocks a b s).reports = s.reports :=
  ((reactionsKeep_quiet (P := fun t => t.reports = s.reports) (fun e t h => (takeUp_reports e t).trans h)
    (fun t h => (claimNow_reports t).trans h) fun _ h => h).settleLocks a b ⟨hn, rfl⟩).2

/-- With no lock released nothing is announced (R17). -/
theorem settleLocks_unreleased (a s : State) : settleLocks a a s = s := by
  have hsame : List.zip a.pages a.pages = a.pages.map fun r => (r, r) := by
    simpa using List.zip_map' (f := id) (g := id) (l := a.pages)
  have hfell : lockFell a a = false := by
    rw [lockFell, hsame, List.any_map, List.any_eq_false]
    exact fun r _ => by simp
  have hgone : lockGone a a = false := by
    rw [lockGone, hsame, List.any_map, List.any_eq_false]
    exact fun r _ => by simpa using Nat.ne_of_gt
  simp [settleLocks, hfell, hgone, announceIf]

/-! ### A plate's return -/

/-- A plate as it returns to QUEUED at the head of its queue (R118). -/
def Plate.returnedAt (p : Plate) (n : Nat) : Plate :=
  { p with state := .queued, attempt := n, spoil := none, returned := true }

/-- A plate returned, before the test of its lateness (R118, R122). -/
def returnedUntested (p : Plate) (n : Nat) (s : State) : State :=
  modLane p.lane (fun L => { L with queue := p.returnedAt n :: L.queue.filter fun x => x.tag != p.tag })
    (if p.state.inFlight then releaseLock p.key s else s)

theorem returnPlate_eq (p : Plate) (n : Nat) (s : State) :
    returnPlate p n s = lateTest p.lane p.tag (returnedUntested p n s) := rfl

theorem returnPlate_lane_ne {p : Plate} {k : LaneId} (hk : k ≠ p.lane) (n : Nat) (s : State) :
    (returnPlate p n s).lane k = s.lane k := by
  rw [returnPlate_eq, lateTest_lane_ne hk, returnedUntested, lane_modLane_ne _ _ hk]
  split
  · exact lane_of_lanes (releaseLock_lanes _ _) k
  · rfl

theorem returnedUntested_reports (p : Plate) (n : Nat) (s : State) :
    (returnedUntested p n s).reports = s.reports ∧ (returnedUntested p n s).clock = s.clock := by
  unfold returnedUntested
  split
  · exact ⟨releaseLock_reports _ _, releaseLock_clock _ _⟩
  · exact ⟨rfl, rfl⟩

/-- The LATE report of a plate that returns, where it is found late for the first time (R121). -/
theorem returnPlate_reports (p : Plate) (n : Nat) (s : State) : (returnPlate p n s).reports =
    (if p.lateReported = false ∧ (s.clock - p.latestStart).toNat < 2147483648 then
      submit (lateReport { p with attempt := n }) s else s).reports := by
  obtain ⟨hreports, hclock⟩ := returnedUntested_reports p n s
  have hplate : ((returnedUntested p n s).lane p.lane).plate p.tag = some (p.returnedAt n) := by
    rw [returnedUntested, lane_modLane]
    exact List.find?_cons_of_pos (by simp [Plate.returnedAt])
  rw [returnPlate_eq]
  split
  · next h =>
    have hlate := lateTest_late (p := p.returnedAt n) hplate rfl h.1 (by rw [hclock]; exact h.2)
    exact (congrArg State.reports hlate).trans (submit_reports_congr _ hreports hclock)
  · next h =>
    have hnot : p.lateReported = true ∨ 2147483648 ≤ (s.clock - p.latestStart).toNat := by
      rcases Bool.eq_false_or_eq_true p.lateReported with hr | hr
      · exact .inl hr
      · exact .inr (by by_contra hc; exact h ⟨hr, by omega⟩)
    have hlate := lateTest_otherwise (p := p.returnedAt n) hplate (.inr (by rw [hclock]; exact hnot))
    exact (congrArg State.reports hlate).trans hreports

/-! ### The resolution -/

/-- A lane whose front plate is resolved: `fronts` is the plate where it has returned (R122). -/
def Lane.resolved (L : Lane) (p : Plate) (fronts : List Plate) : Lane :=
  { L with
    owed := 0, frontCtx := none, buffer := L.buffer.filter fun r => r.mark != .front
    queue := fronts ++ L.queue.filter fun x => x.tag != p.tag }

/-- `r` is `v` with its front plate `p` resolved, the cause of its spoil being `cause`, after the reports of `told`
(R122, R126). -/
structure Resolved (p : Plate) (cause : Option SpoilCause) (told v r : State) : Prop where
  /-- Below its allowance the plate returns for its next attempt. -/
  returned : p.withdrawPending = false → p.attempt < p.allowance →
    ∃ late, r.lane p.lane = (v.lane p.lane).resolved p [{ p.returnedNext with lateReported := late }]
  /-- Withdrawn, or at its allowance, it leaves the lane. -/
  ended : p.withdrawPending = true ∨ p.attempt = p.allowance → r.lane p.lane = (v.lane p.lane).resolved p []
  others : ∀ k, k ≠ p.lane → r.lane k = v.lane k
  tells : told.reports <+: r.reports
  tellsReturn : p.withdrawPending = false → p.attempt < p.allowance → r.reports =
    (if p.lateReported = false ∧ (told.clock - p.latestStart).toNat < 2147483648 then
      submit (lateReport { p with attempt := p.attempt + 1 }) told else told).reports
  tellsWithdraw : p.withdrawPending = true →
    r.reports = (submit (withdrawDone p.tag .withdrawn) (submit (plateOutcome p 4 5) told)).reports
  tellsFailure : p.withdrawPending = false → p.attempt = p.allowance → ∀ k, cause = some k →
    r.reports = (submit (plateOutcome p 3 k.code) told).reports

/-- Only the reports told before and the clock matter of `told`. -/
theorem Resolved.congr {p : Plate} {cause : Option SpoilCause} {a b v r : State} (h : Resolved p cause a v r)
    (hr : b.reports = a.reports) (hc : b.clock = a.clock) : Resolved p cause b v r where
  returned := h.returned
  ended := h.ended
  others := h.others
  tells := hr ▸ h.tells
  tellsReturn hw ha := by
    rw [h.tellsReturn hw ha, hc]
    split
    · exact (submit_reports_congr _ hr hc).symm
    · exact hr.symm
  tellsWithdraw hw := (h.tellsWithdraw hw).trans (submit_reports_congr _ (submit_reports_congr _ hr hc)
    ((submit_clock _ _).trans (hc.trans (submit_clock _ _).symm))).symm
  tellsFailure hw ha k hk := (h.tellsFailure hw ha k hk).trans (submit_reports_congr _ hr hc).symm

theorem endPlate_resolved_lane (p : Plate) (e : PlateEnd) (v : State) :
    (endPlate p e (dropFront p.lane v)).lane p.lane = (v.lane p.lane).resolved p [] := by
  rw [endPlate_lane, dropFront, lane_modLane]
  rfl

/-- The front plate resolved as it is (R122, R126). -/
theorem resolveFront_resolved {v : State} {p : Plate} (hp : (v.lane p.lane).front = some p) :
    Resolved p p.spoil v v (resolveFront p.lane v) where
  returned hw ha := by
    obtain ⟨late, h⟩ := returnPlate_lane p (dropFront p.lane v)
    refine ⟨late, ?_⟩
    rw [resolveFront_returned hp hw ha, h, dropFront, lane_modLane]
    rfl
  ended h := by
    by_cases hw : p.withdrawPending = true
    · rw [resolveFront_withdrawn hp hw, lane_of_lanes (submit_lanes _ _), endPlate_resolved_lane]
    · rw [resolveFront_failed hp (by simpa using hw) (h.resolve_left hw), endPlate_resolved_lane]
  others k hk := by
    have hd : (dropFront p.lane v).lane k = v.lane k := lane_modLane_ne _ _ hk
    unfold resolveFront
    rw [hp]
    simp only
    split
    · rw [lane_of_lanes (submit_lanes _ _), endPlate_lane_ne hk, hd]
    · split
      · rw [returnPlate_lane_ne hk, hd]
      · rw [endPlate_lane_ne hk, hd]
  tells := (linksKept_resolveFront p.lane v).reports
  tellsReturn hw ha := by
    rw [resolveFront_returned hp hw ha, returnPlate_reports]
    rw [show (dropFront p.lane v).clock = v.clock from rfl]
    split
    · exact submit_reports_congr _ rfl rfl
    · rfl
  tellsWithdraw hw := by
    rw [resolveFront_withdrawn hp hw]
    exact submit_reports_congr _ ((endPlate_reports _ _ _).trans (submit_reports_congr _ rfl rfl))
      ((endPlate_clock _ _ _).trans (show v.clock = _ from (submit_clock _ _).symm))
  tellsFailure hw ha k hk := by
    rw [resolveFront_failed hp hw ha, hk]
    exact (endPlate_reports _ _ _).trans (submit_reports_congr _ rfl rfl)

/-- The plates of other tags are left by a change of the plates of one. -/
theorem filter_map_tag (q : List Plate) (tag : Tag) (g : Plate → Plate) (hg : ∀ x, (g x).tag = x.tag) :
    (q.map fun x => if x.tag = tag then g x else x).filter (fun x => x.tag != tag) =
      q.filter fun x => x.tag != tag := by
  simpa using filter_tag_map_map (a := id) (g := g) (tag := tag) (fun _ => rfl) hg q

theorem spoil_lane (p : Plate) (c : SpoilCause) (v : State) : (spoil p c v).lane p.lane = { v.lane p.lane with
    frontCtx := none
    queue := (v.lane p.lane).queue.map fun x => if x.tag = p.tag then { x with spoil := some c } else x } := by
  rw [spoil, lane_modLane, modPlate, lane_modLane, lane_of_lanes (submit_lanes _ _)]

theorem spoil_lane_ne {p : Plate} {k : LaneId} (hk : k ≠ p.lane) (c : SpoilCause) (v : State) :
    (spoil p c v).lane k = v.lane k := by
  rw [spoil, lane_modLane_ne _ _ hk, modPlate, lane_modLane_ne _ _ hk, lane_of_lanes (submit_lanes _ _)]

/-- The front plate spoiled, and then resolved (R122, R126). -/
theorem resolveFront_spoiled {v : State} (hq : QueuesSafe v) {p : Plate} (hp : (v.lane p.lane).front = some p)
    (c : SpoilCause) :
    Resolved p (some c) (submit (plateOutcome p 2 c.code) v) v (resolveFront p.lane (spoil p c v)) := by
  have h : Resolved { p with spoil := some c } (some c) (spoil p c v) (spoil p c v)
      (resolveFront p.lane (spoil p c v)) := resolveFront_resolved (p := { p with spoil := some c }) (front_spoil hq hp c)
  have hlane : ∀ fronts, ((spoil p c v).lane p.lane).resolved { p with spoil := some c } fronts =
      (v.lane p.lane).resolved p fronts := fun fronts => by
    rw [spoil_lane]
    simp only [Lane.resolved, filter_map_tag _ p.tag (fun x => { x with spoil := some c }) fun _ => rfl]
  have hsame : Resolved { p with spoil := some c } (some c) (submit (plateOutcome p 2 c.code) v) (spoil p c v)
      (resolveFront p.lane (spoil p c v)) := h.congr rfl rfl
  exact {
    returned hw ha := (hsame.returned hw ha).imp fun _ e => e.trans (hlane _)
    ended hw := (hsame.ended hw).trans (hlane _)
    others k hk := (hsame.others k hk).trans (spoil_lane_ne hk c v)
    tells := hsame.tells
    tellsReturn := hsame.tellsReturn
    tellsWithdraw := hsame.tellsWithdraw
    tellsFailure := hsame.tellsFailure }

/-- A resolved front plate leaves no plate on the drum. -/
theorem Resolved.front_none {p : Plate} {cause : Option SpoilCause} {told v r : State} (h : Resolved p cause told v r)
    (hq : QueueOk p.lane (v.lane p.lane).queue) (hp : (v.lane p.lane).front = some p) :
    (r.lane p.lane).front = none := by
  have hrest := hq.front_filter hp
  have hattempt := (hq.attempts p (Lane.front_mem hp).1).2.1
  rw [Lane.front_eq_none]
  by_cases hend : p.withdrawPending = true ∨ p.attempt = p.allowance
  · rw [h.ended hend]
    exact hrest
  · push Not at hend
    obtain ⟨late, hr⟩ := h.returned (by simpa using hend.1) (lt_of_le_of_ne hattempt hend.2)
    rw [hr]
    exact List.forall_mem_cons.2 ⟨rfl, hrest⟩

/-- Whatever the resolution, the front plate's rows and context are gone, and the rest of the lane's control is as it was
(R108, R133). -/
theorem Resolved.lane_eq {p : Plate} {cause : Option SpoilCause} {told v r : State} (h : Resolved p cause told v r)
    (hq : QueueOk p.lane (v.lane p.lane).queue) (hp : p ∈ (v.lane p.lane).queue) :
    ∃ fronts, r.lane p.lane = (v.lane p.lane).resolved p fronts := by
  have hattempt := (hq.attempts p hp).2.1
  by_cases hend : p.withdrawPending = true ∨ p.attempt = p.allowance
  · exact ⟨[], h.ended hend⟩
  · push Not at hend
    obtain ⟨late, hr⟩ := h.returned (by simpa using hend.1) (lt_of_le_of_ne hattempt hend.2)
    exact ⟨_, hr⟩

/-! ### The choice of a returned plate -/

/-- The plate at the head of a queue stays QUEUED in its lane's choice, or is chosen by it (R119). -/
theorem choose_head {r : State} {l : LaneId} {x : Plate} {q : List Plate} (hn : (r.lane l).tags.Nodup)
    (hr : (r.lane l).queue = x :: q) (hx : x.state = .queued) :
    ∃ y ∈ ((choose l r).lane l).queue, y.tag = x.tag ∧
      (y.state = .queued ∨ (r.lane l).mode = .run ∧ (r.lane l).back = none ∧ y.state = .loading) ∧
      y.attempt = x.attempt ∧ y.spoil = x.spoil := by
  by_cases hidle : (r.lane l).mode ≠ .run ∨ (r.lane l).back ≠ none
  · rw [choose_idle hidle, hr]
    exact ⟨x, List.mem_cons_self, rfl, .inl hx, rfl, rfl⟩
  · push Not at hidle
    have hchosen := choose_chosen hn
    rw [hr] at hchosen
    obtain ⟨y, ys, hy, -, hys⟩ := List.forall₂_cons_left_iff.1 hchosen
    exact ⟨y, by rw [hys]; exact List.mem_cons_self, hy.tag,
      (hy.queued hx).imp_right fun h => ⟨h.1, hidle.2, h.2⟩, hy.attempt, hy.spoil⟩

/-! ### FAULT -/

theorem faultFront_none {l : LaneId} {s : State} (h : (s.lane l).front = none) : faultFront l s = s := by
  simp only [faultFront, h]

/-- A FAULT with no front plate (R141). -/
theorem faultTaken_without_front {l : LaneId} {s : State} (h : (s.lane l).front = none) (c : FaultCause) :
    faultTaken l c s = submit (modeByMedia l .stop c) (modLane l Lane.faulted s) := by
  have hresolved : faultResolved l s = s := by simp [faultResolved, h, faultFront_none h]
  rw [faultTaken_eq, faultSaid, hresolved, faultFront_none h, settleLocks_unreleased]

/-- The front plate at a FAULT is spoiled with cause MEDIA, unless it is in CANCELLING, and resolved (R122, R141). -/
theorem faultFront_resolved {v : State} (hq : QueuesSafe v) {p : Plate} (hp : (v.lane p.lane).front = some p) :
    Resolved p (if p.state = .cancelling then p.spoil else some .media)
      (if p.state = .cancelling then v else submit (plateOutcome p 2 2) v) v (faultFront p.lane v) := by
  by_cases hs : p.state = .cancelling
  · have e : faultFront p.lane v = resolveFront p.lane v := by simp only [faultFront, hp, hs, if_true]
    rw [e, if_pos hs, if_pos hs]
    exact resolveFront_resolved hp
  · have e : faultFront p.lane v = resolveFront p.lane (spoil p .media v) := by
      simp only [faultFront, hp, hs, if_false]
    rw [e, if_neg hs, if_neg hs]
    exact resolveFront_spoiled hq hp .media

/-- With drum-ready clear no START follows a FAULT: the lane chooses alone, where its plate has returned (R119, R134,
R141). -/
theorem faultResolved_eq {v : State} {p : Plate} (hp : (v.lane p.lane).front = some p)
    (hd : ((faultFront p.lane v).lane p.lane).drumReady = false) : faultResolved p.lane v =
      if returnsFront (v.lane p.lane) = true then choose p.lane (faultFront p.lane v) else faultFront p.lane v := by
  rw [faultResolved, if_pos (by rw [hp]; rfl), leaveFront]
  split
  · exact startThenChoose_of_none (startReady_eq_none (.inr (.inr (.inr (.inl hd)))))
  · exact tryStart_of_not_ready (.inr hd)

theorem returnsFront_eq {L : Lane} {p : Plate} (hp : L.front = some p) :
    returnsFront L = true ↔ p.withdrawPending = false ∧ p.attempt < p.allowance := by
  simp [returnsFront, hp]

theorem QueuesSafe.of_faultFront {s : State} (h : QueuesSafe s) (l : LaneId) : QueuesSafe (faultFront l s) := by
  unfold faultFront
  split
  · split
    · exact h.of_resolveFront l
    · exact (h.of_spoil _ _).of_resolveFront l
  · exact h

theorem faultSaid_reports (l : LaneId) (c : FaultCause) (s : State) :
    (faultSaid l c s).reports = (submit (modeByMedia l .stop c) (faultResolved l s)).reports :=
  submit_reports_congr _ rfl rfl

/-- A FAULT and what it sets off keep the tags that the front plate's resolution leaves. -/
theorem tags_faultTaken (l : LaneId) (c : FaultCause) (s : State) (j : LaneId) :
    ((faultTaken l c s).lane j).tags = ((faultResolved l s).lane j).tags := by
  rw [faultTaken_eq]
  refine (reactionsKeep_tags j _).settleLocks _ _ ?_
  rw [faultSaid, lane_of_lanes (submit_lanes _ _)]
  exact tags_modLane l j Lane.faulted _ fun _ => rfl

/-- A FAULT's notice is the last report where no lane runs. -/
theorem faultTaken_reports_quiet {s : State} (hn : NoLaneRuns s) (l : LaneId) (c : FaultCause) :
    (faultTaken l c s).reports = (faultSaid l c s).reports := by
  rw [faultTaken_eq]
  refine settleLocks_reports_quiet (fun k => ?_) _ _
  by_cases hk : k = l
  · rw [hk, faultSaid_lane]
    simp [Lane.faulted]
  · rw [faultSaid, lane_of_lanes (submit_lanes _ _), lane_modLane_ne _ _ hk]
    exact (linksKept_faultResolved l s).noLaneRuns hn k

theorem heard_mode (l k : LaneId) (s : State) : ((heard l s).lane k).mode = (s.lane k).mode := by
  by_cases hk : k = l
  · rw [hk, heard_lane]
  · rw [heard_lane_ne hk]

theorem exec_setterFault {l : LaneId} {s : State} (hm : (s.lane l).mode ≠ .fault) (c : FaultCause) :
    exec (.setterFault l c) s = .next (faultTaken l c (heard l s)) :=
  congrArg (fun t => Host.Outcome.next (faultTaken l c t)) (takeMessage_eq hm)

/-! ### A FAULT with a front plate -/

section
variable {v : State} {p : Plate} (hq : QueuesSafe v) (hp : (v.lane p.lane).front = some p)
  (hd : (v.lane p.lane).drumReady = false)
include hq hp

theorem faultFront_lane : ∃ fronts, (faultFront p.lane v).lane p.lane = (v.lane p.lane).resolved p fronts :=
  (faultFront_resolved hq hp).lane_eq (hq.ok p.lane) (Lane.front_mem hp).1

include hd

/-- After a FAULT the lane chooses where its front plate has returned, and does nothing else (R119, R141). -/
theorem faultResolved_cases : (faultResolved p.lane v = choose p.lane (faultFront p.lane v) ∧
      p.withdrawPending = false ∧ p.attempt < p.allowance) ∨
    (faultResolved p.lane v = faultFront p.lane v ∧ ¬ (p.withdrawPending = false ∧ p.attempt < p.allowance)) := by
  obtain ⟨fronts, hlane⟩ := faultFront_lane hq hp
  rw [faultResolved_eq hp (by rw [hlane]; exact hd)]
  split
  · next h => exact .inl ⟨rfl, (returnsFront_eq hp).1 h⟩
  · next h => exact .inr ⟨rfl, fun hr => h ((returnsFront_eq hp).2 hr)⟩

theorem faultResolved_of_return (hw : p.withdrawPending = false) (ha : p.attempt < p.allowance) :
    faultResolved p.lane v = choose p.lane (faultFront p.lane v) := by
  rcases faultResolved_cases hq hp hd with ⟨h, -⟩ | ⟨-, h⟩
  · exact h
  · exact absurd ⟨hw, ha⟩ h

theorem faultResolved_of_end (he : p.withdrawPending = true ∨ p.attempt = p.allowance) :
    faultResolved p.lane v = faultFront p.lane v := by
  rcases faultResolved_cases hq hp hd with ⟨-, hw, ha⟩ | ⟨h, -⟩
  · rcases he with h | h
    · simp [hw] at h
    · omega
  · exact h

theorem faultResolved_reacts : Reacts (faultFront p.lane v) (faultResolved p.lane v) := by
  rcases faultResolved_cases hq hp hd with ⟨h, -⟩ | ⟨h, -⟩
  · exact h ▸ choose_reacts _ _
  · exact h ▸ .refl _

theorem faultResolved_control : ∃ fronts, ((faultResolved p.lane v).lane p.lane).control =
    ((v.lane p.lane).resolved p fronts).control := by
  obtain ⟨fronts, hlane⟩ := faultFront_lane hq hp
  exact ⟨fronts, (control_of_steady (faultResolved_reacts hq hp hd).steady p.lane).trans (congrArg Lane.control hlane)⟩

theorem faultResolved_front : ((faultResolved p.lane v).lane p.lane).front = none := by
  have hnone := (faultFront_resolved hq hp).front_none (hq.ok p.lane) hp
  rcases faultResolved_cases hq hp hd with ⟨h, -⟩ | ⟨h, -⟩
  · rw [h]
    exact (reactionsKeep_front p.lane).lane p.lane _ hnone
  · rw [h]
    exact hnone

/-- The tag of a plate that a FAULT ends is free again (R116, R126). -/
theorem faultTaken_frees (c : FaultCause) (he : p.withdrawPending = true ∨ p.attempt = p.allowance) :
    p.tag ∉ liveTags (faultTaken p.lane c v) := by
  have hres := faultFront_resolved hq hp
  have hstays := faultResolved_of_end hq hp hd he
  refine hq.tag_free (Lane.front_mem hp).1 ?_ fun j hj => ?_
  · rw [tags_faultTaken, hstays, hres.ended he]
    rfl
  · rw [tags_faultTaken, hstays, hres.others j hj]

/-- The plate that a FAULT returns waits for its next attempt, or the lane has chosen it (R119, R122). -/
theorem faultResolved_returned (hw : p.withdrawPending = false) (ha : p.attempt < p.allowance) :
    ∃ y ∈ ((faultResolved p.lane v).lane p.lane).queue, y.tag = p.tag ∧
      (y.state = .queued ∨ (v.lane p.lane).mode = .run ∧ (v.lane p.lane).back = none ∧ y.state = .loading) ∧
      y.attempt = p.attempt + 1 ∧ y.spoil = none := by
  obtain ⟨late, hreturned⟩ := (faultFront_resolved hq hp).returned hw ha
  have hqueue : ((faultFront p.lane v).lane p.lane).queue = { p.returnedNext with lateReported := late } ::
      (v.lane p.lane).queue.filter fun x => x.tag != p.tag := by
    rw [hreturned]
    rfl
  have hback : ((faultFront p.lane v).lane p.lane).back = (v.lane p.lane).back := by
    rw [Lane.back, hqueue, List.find?_cons_of_neg (by simp [Plate.returnedNext])]
    exact (hq.ok p.lane).back_without_front hp
  obtain ⟨y, hy, htag, hstate, hattempt, hspoil⟩ :=
    choose_head ((hq.of_faultFront p.lane).ok p.lane).tags hqueue rfl
  rw [(linksKept_faultFront p.lane v).mode, hback] at hstate
  rw [faultResolved_of_return hq hp hd hw ha]
  exact ⟨y, hy, htag, hstate, hattempt, hspoil⟩

end

/-- The state whose reports tell of the attempt that a FAULT spoils (R141). -/
def faultTold (p : Plate) (s : State) : State := if p.state = .cancelling then s else submit (plateOutcome p 2 2) s

theorem faultTold_clock (p : Plate) (s : State) : (faultTold p s).clock = s.clock := by
  unfold faultTold
  split
  · rfl
  · exact submit_clock _ _

theorem faultTold_reports_length (p : Plate) (s : State) :
    (faultTold p s).reports.length ≤ s.reports.length + 1 := by
  unfold faultTold
  split
  · exact Nat.le_succ _
  · exact submit_reports_length _ _

theorem faultTold_reports_congr (p : Plate) {s t : State} (hr : s.reports = t.reports) (hc : s.clock = t.clock) :
    (faultTold p s).reports = (faultTold p t).reports := by
  unfold faultTold
  split
  · exact hr
  · exact submit_reports_congr _ hr hc

/-- The link's timer tells of nothing: the reports of a FAULT are those told before its message was heard. -/
theorem faultFront_heard {s : State} (hq : QueuesSafe s) {p : Plate} (hp : (s.lane p.lane).front = some p) :
    Resolved p (if p.state = .cancelling then p.spoil else some .media) (faultTold p s) (heard p.lane s)
      (faultFront p.lane (heard p.lane s)) :=
  (faultFront_resolved (hq.heard p.lane) (by rw [heard_lane]; exact hp)).congr
    (faultTold_reports_congr p (t := heard p.lane s) rfl rfl) (by
      rw [faultTold_clock]
      exact (faultTold_clock p (heard p.lane s)).symm)

/-- Settles O49: the lane stopped, and its front plate spoiled and resolved before that. -/
theorem setterFaultStopsLane : Obligations.SetterFaultStopsLane := by
  intro s l c
  refine ⟨fun hf => congrArg Host.Outcome.next ?_, ?_⟩
  · by_cases hm : (s.lane l).mode = .fault
    · rw [takeMessage_of_fault hm, faultTaken_without_front (by rw [linkUp_lane]; exact hf), linkUp, if_pos hm]
      simp only [submit_modLane, modLane_modLane]
      rfl
    · rw [takeMessage_eq hm, faultTaken_without_front (by rw [lane_modLane]; exact hf), modLane_modLane, if_neg hm]
      rfl
  · intro p hq hm hp hd _ mode spoiled cause
    obtain rfl := (hq.ok l).own p (Lane.front_mem hp).1
    let v := heard p.lane s
    let r := faultFront p.lane v
    let w := faultResolved p.lane v
    let t := faultTaken p.lane c v
    have hvlane : v.lane p.lane = { s.lane p.lane with lastMessage := some s.clock } := heard_lane _ s
    have hvq : QueuesSafe v := hq.heard p.lane
    have hvp : (v.lane p.lane).front = some p := by rw [hvlane]; exact hp
    have hvd : (v.lane p.lane).drumReady = false := by rw [hvlane]; exact hd
    have hres : Resolved p cause spoiled v r := faultFront_heard hq hp
    have hclock : spoiled.clock = s.clock := faultTold_clock p s
    have hwclock : w.clock = s.clock := (linksKept_faultResolved p.lane v).clock
    have htlane : t.lane p.lane = (w.lane p.lane).faulted := faultTaken_lane p.lane c v
    obtain ⟨fronts, hcontrol⟩ := faultResolved_control hvq hvp hvd
    have hsaid : (submit mode w).reports <+: t.reports := by
      rw [← faultSaid_reports]
      exact (settleLocks_reacts v r _).reports
    have hstays : p.withdrawPending = true ∨ p.attempt = p.allowance → w = r := faultResolved_of_end hvq hvp hvd
    have hsays : ∀ {u : State}, w.reports = u.reports → u.clock = s.clock →
        (submit mode w).reports = (submit mode u).reports := fun hr hc =>
      submit_reports_congr mode hr (hwclock.trans hc.symm)
    refine ⟨t, exec_setterFault hm c, by rw [htlane]; rfl, by rw [htlane]; rfl, ?_, ?_, ?_, ?_, ?_,
      fun hpending => ⟨faultTaken_frees hvq hvp hvd c (.inl hpending), ?_⟩,
      fun hpending ha => ⟨faultTaken_frees hvq hvp hvd c (.inr ha), fun k hk => ?_⟩, fun hpending ha => ?_⟩
    · rw [htlane]; exact (congrArg Lane.owed hcontrol :)
    · rw [htlane]; exact faultResolved_front hvq hvp hvd
    · rw [htlane]; exact (congrArg Lane.frontCtx hcontrol :)
    · rw [htlane]
      refine (congrArg Lane.sent hcontrol : _).trans ?_
      rw [hvlane]
      rfl
    · exact hres.tells.trans ((faultResolved_reacts hvq hvp hvd).reports.trans ((submit_reacts _ _).reports.trans hsaid))
    · rw [← hsays ((congrArg State.reports (hstays (.inl hpending))).trans (hres.tellsWithdraw hpending))
        (by rw [submit_clock, submit_clock, hclock])]
      exact hsaid
    · rw [← hsays ((congrArg State.reports (hstays (.inr ha))).trans (hres.tellsFailure hpending ha k hk))
        (by rw [submit_clock, hclock])]
      exact hsaid
    · have hchoose : w = choose p.lane r := faultResolved_of_return hvq hvp hvd hpending ha
      have hreports := hres.tellsReturn hpending ha
      rw [hclock] at hreports
      refine ⟨fun hroom => ?_, fun hn => ?_, ?_⟩
      · have hslen : spoiled.reports.length ≤ s.reports.length + 1 := faultTold_reports_length p s
        have hrlen : r.reports.length ≤ spoiled.reports.length + 1 := by
          rw [hreports]
          split
          · exact submit_reports_length _ _
          · exact Nat.le_succ _
        have hwlen : w.reports.length ≤ r.reports.length + 1 := hchoose ▸ choose_reports_length p.lane r
        have hmode := mem_submit_reports (r := mode) (s := w) (by omega)
        rw [hwclock] at hmode
        exact hsaid.subset hmode
      · have hvn : NoLaneRuns v := fun k => by rw [heard_mode]; exact hn k
        have hwr : w = r := hchoose.trans (choose_of_not_run ((linksKept_faultFront p.lane v).noLaneRuns hvn _))
        rw [show t.reports = _ from faultTaken_reports_quiet hvn p.lane c, faultSaid_reports]
        refine hsays ((congrArg State.reports hwr).trans hreports) ?_
        split
        · rw [submit_clock, hclock]
        · exact hclock
      · have hy := faultResolved_returned hvq hvp hvd hpending ha
        rw [hvlane] at hy
        rw [htlane]
        exact hy

end Sys2Proof.Machine
end

section
/-! ## The link timers -/

namespace Sys2Proof.Machine

/-! ### Plates by their places -/

/-- Without its back plate a queue holds all but the LOADING plates. -/
theorem QueueOk.filter_back {l : LaneId} {L : Lane} (h : QueueOk l L.queue) {p : Plate} (hp : L.back = some p) :
    L.queue.filter (fun x => x.tag != p.tag) = L.queue.filter fun x => x.state != .loading := by
  obtain ⟨hm, hs⟩ := Lane.back_mem hp
  refine List.filter_congr fun x hx => ?_
  by_cases ht : x.tag = p.tag
  · rw [h.eq_of_tag hx hm ht]
    simp [hs]
  · have := h.back_filter hm hs x (List.mem_filter.2 ⟨hx, by simpa using ht⟩)
    exact (bne_iff_ne.2 ht).trans (bne_iff_ne.2 this).symm

/-- Without its front plate a queue holds all but the plates on the drum. -/
theorem QueueOk.filter_front {l : LaneId} {L : Lane} (h : QueueOk l L.queue) {p : Plate} (hp : L.front = some p) :
    L.queue.filter (fun x => x.tag != p.tag) = L.queue.filter fun x => !x.state.onDrum := by
  obtain ⟨hm, hd⟩ := Lane.front_mem hp
  refine List.filter_congr fun x hx => ?_
  by_cases ht : x.tag = p.tag
  · rw [h.eq_of_tag hx hm ht]
    simp [hd]
  · have := h.front_filter hp x (List.mem_filter.2 ⟨hx, by simpa using ht⟩)
    simp [ht, this]

/-- A plate neither on the drum nor LOADING is QUEUED (R115). -/
theorem queued_of_places (q : List Plate) :
    (q.filter fun x => x.state != .loading).filter (fun x => !x.state.onDrum) = q.filter fun x => x.state == .queued := by
  rw [List.filter_filter]
  refine List.filter_congr fun x _ => ?_
  cases x.state <;> rfl

/-! ### The back plate given back -/

/-- `t` is `s` with its lane's back plate given back: `backs` is the plate, if there was one (R123). -/
structure GaveBack (l : LaneId) (s t : State) (backs : List Plate) : Prop where
  queue : (t.lane l).queue = backs ++ (s.lane l).queue.filter fun x => x.state != .loading
  absent : (s.lane l).back = none → backs = []
  returned : ∀ p, (s.lane l).back = some p → ∃ late, backs = [{ p.givenBack with lateReported := late }]
  backCtx : (s.lane l).back.isSome = true → (t.lane l).backCtx = none
  sent : (t.lane l).sent = (s.lane l).sent

theorem giveBack_gaveBack {s : State} (hq : QueuesSafe s) (l : LaneId) : ∃ backs, GaveBack l s (giveBack l s) backs := by
  cases hb : (s.lane l).back with
  | none =>
    have hall : (s.lane l).queue.filter (fun x => x.state != .loading) = (s.lane l).queue :=
      List.filter_eq_self.2 fun x hx => by simpa using Lane.back_eq_none.1 hb x hx
    have hsame : giveBack l s = s := by simp only [giveBack, hb]
    refine ⟨[], ?_, fun _ => rfl, fun p hp => ?_, fun h => ?_, by rw [hsame]⟩
    · rw [hsame, hall, List.nil_append]
    · rw [hb] at hp; cases hp
    · rw [hb] at h; cases h
  | some p =>
    obtain ⟨late, hlane⟩ := giveBack_lane hb ((hq.ok l).own p (Lane.back_mem hb).1)
    rw [(hq.ok l).filter_back hb] at hlane
    refine ⟨[{ p.givenBack with lateReported := late }], by rw [hlane]; rfl, fun h => ?_, fun x hx => ?_,
      fun _ => by rw [hlane]; rfl, by rw [hlane]; rfl⟩
    · rw [hb] at h; cases h
    · obtain rfl := Option.some.inj (hb.symm.trans hx)
      exact ⟨late, rfl⟩

theorem GaveBack.queued {l : LaneId} {s t : State} {backs : List Plate} (h : GaveBack l s t backs) :
    ∀ x ∈ backs, x.state = .queued := by
  cases hb : (s.lane l).back with
  | none => simp [h.absent hb]
  | some p =>
    obtain ⟨late, hlate⟩ := h.returned p hb
    rw [hlate]
    exact fun x hx => by rw [List.mem_singleton.1 hx]; rfl

/-- The plates off the drum, once the back plate is given back, are those QUEUED before and the back plate. -/
theorem GaveBack.offDrum {l : LaneId} {s t : State} {backs : List Plate} (h : GaveBack l s t backs) :
    (t.lane l).queue.filter (fun x => !x.state.onDrum) =
      backs ++ (s.lane l).queue.filter fun x => x.state == .queued := by
  have hbacks : backs.filter (fun x => !x.state.onDrum) = backs :=
    List.filter_eq_self.2 fun x hx => by rw [h.queued x hx]; rfl
  rw [h.queue, List.filter_append, hbacks, queued_of_places]

/-- Giving the back plate back leaves the plate on the drum (R123). -/
theorem GaveBack.front {l : LaneId} {s t : State} {backs : List Plate} (h : GaveBack l s t backs) :
    (t.lane l).front = (s.lane l).front := by
  have hbacks : backs.find? (fun x => x.state.onDrum) = none :=
    List.find?_eq_none.2 fun x hx => by rw [h.queued x hx]; simp [PlateState.onDrum]
  rw [Lane.front, h.queue, List.find?_append, hbacks, Option.none_or, List.find?_filter]
  refine List.find?_congr fun x _ => ?_
  cases x.state <;> rfl

/-- A back plate that is not found late is given back with no report (R121, R123). -/
theorem giveBack_reports {s : State} {l : LaneId} (h : ∀ q, (s.lane l).back = some q →
    q.lateReported = true ∨ 2147483648 ≤ (s.clock - q.latestStart).toNat) :
    (giveBack l s).reports = s.reports := by
  unfold giveBack
  split
  · next p hp =>
    rw [returnPlate_reports, if_neg]
    · rfl
    · rintro ⟨hreported, hlate⟩
      have hclock : (dropBack l s).clock = s.clock := rfl
      rw [hclock] at hlate
      rcases h p hp with h | h
      · simp [h] at hreported
      · omega
  · rfl

/-! ### The front plate resolved -/

theorem linksKept_lossFront (l : LaneId) (s : State) : LinksKept s (lossFront l s) := by
  unfold lossFront
  split
  · split
    · exact linksKept_resolveFront l s
    · exact (linksKept_spoil _ _ s).trans (linksKept_resolveFront l _)
  · exact .refl s

/-- The front plate at a link loss is spoiled with cause LINK, unless its attempt is spoiled already, and resolved (R122,
R143). -/
theorem lossFront_resolved {v : State} (hq : QueuesSafe v) {p : Plate} (hp : (v.lane p.lane).front = some p) :
    Resolved p (some (p.spoil.getD .link)) (if p.spoil = none then submit (plateOutcome p 2 3) v else v) v
      (lossFront p.lane v) := by
  cases hs : p.spoil with
  | none =>
    have e : lossFront p.lane v = resolveFront p.lane (spoil p .link v) := by simp [lossFront, hp, hs]
    rw [e]
    exact resolveFront_spoiled hq hp .link
  | some k =>
    have e : lossFront p.lane v = resolveFront p.lane v := by simp [lossFront, hp, hs]
    have h := resolveFront_resolved hp
    rw [hs] at h
    rw [e, if_neg (by simp)]
    exact h

/-- `t` is `s` with its lane's front plate resolved: `fronts` is the plate, if it has returned (R122, R143). -/
structure FrontLost (l : LaneId) (s t : State) (fronts : List Plate) : Prop where
  queue : (t.lane l).queue = fronts ++ (s.lane l).queue.filter fun x => !x.state.onDrum
  absent : (s.lane l).front = none → fronts = []
  returned : ∀ p, (s.lane l).front = some p → p.withdrawPending = false → p.attempt < p.allowance →
    ∃ late, fronts = [{ p.returnedNext with lateReported := late }]
  ended : ∀ p, (s.lane l).front = some p → p.withdrawPending = true ∨ p.attempt = p.allowance → fronts = []
  frontCtx : (s.lane l).front.isSome = true → (t.lane l).frontCtx = none
  backCtx : (t.lane l).backCtx = (s.lane l).backCtx
  sent : (t.lane l).sent = (s.lane l).sent

theorem lossFront_frontLost {s : State} (hq : QueuesSafe s) (l : LaneId) :
    ∃ fronts, FrontLost l s (lossFront l s) fronts := by
  cases hf : (s.lane l).front with
  | none =>
    have hall : (s.lane l).queue.filter (fun x => !x.state.onDrum) = (s.lane l).queue :=
      List.filter_eq_self.2 fun x hx => by simpa using Lane.front_eq_none.1 hf x hx
    have hsame : lossFront l s = s := by simp only [lossFront, hf]
    have hno : ∀ {P : Prop} p, (s.lane l).front = some p → P := fun p hp => by rw [hf] at hp; cases hp
    exact ⟨[], by rw [hsame, hall, List.nil_append], fun _ => rfl, fun p hp => hno p hp, fun p hp => hno p hp,
      fun h => by (rw [hf] at h; cases h), by rw [hsame], by rw [hsame]⟩
  | some p =>
    obtain rfl := (hq.ok l).own p (Lane.front_mem hf).1
    have hres := lossFront_resolved hq hf
    have huniq : ∀ {x : Plate}, (s.lane p.lane).front = some x → x = p := fun hx =>
      (Option.some.inj (hf.symm.trans hx)).symm
    have hsome : (s.lane p.lane).front ≠ none := by rw [hf]; simp
    have hattempt := ((hq.ok p.lane).attempts p (Lane.front_mem hf).1).2.1
    by_cases hend : p.withdrawPending = true ∨ p.attempt = p.allowance
    · have hlane := hres.ended hend
      refine ⟨[], ?_, fun h => absurd h hsome, fun x hx hw ha => ?_, fun _ _ _ => rfl, fun _ => by rw [hlane]; rfl,
        by rw [hlane]; rfl, by rw [hlane]; rfl⟩
      · rw [hlane, ← (hq.ok p.lane).filter_front hf]
        rfl
      · obtain rfl := huniq hx
        rcases hend with h | h
        · simp [hw] at h
        · omega
    · have hnot := hend
      push Not at hend
      obtain ⟨late, hlane⟩ := hres.returned (by simpa using hend.1) (lt_of_le_of_ne hattempt hend.2)
      refine ⟨[{ p.returnedNext with lateReported := late }], ?_, fun h => absurd h hsome, fun x hx _ _ => ?_,
        fun x hx h => ?_, fun _ => by rw [hlane]; rfl, by rw [hlane]; rfl, by rw [hlane]; rfl⟩
      · rw [hlane, ← (hq.ok p.lane).filter_front hf]
        rfl
      · obtain rfl := huniq hx
        exact ⟨late, rfl⟩
      · obtain rfl := huniq hx
        exact absurd h hnot

theorem FrontLost.queued {l : LaneId} {s t : State} {fronts : List Plate} (h : FrontLost l s t fronts)
    (hq : QueueOk l (s.lane l).queue) : ∀ x ∈ fronts, x.state = .queued := by
  cases hf : (s.lane l).front with
  | none => simp [h.absent hf]
  | some p =>
    have hattempt := (hq.attempts p (Lane.front_mem hf).1).2.1
    by_cases hend : p.withdrawPending = true ∨ p.attempt = p.allowance
    · simp [h.ended p hf hend]
    · push Not at hend
      obtain ⟨late, hlate⟩ := h.returned p hf (by simpa using hend.1) (lt_of_le_of_ne hattempt hend.2)
      rw [hlate]
      exact fun x hx => by rw [List.mem_singleton.1 hx]; rfl

/-! ### The link loss as a whole -/

/-- The lane in FAULT, with LINK LOST reported: steps 1 and 2 of R143 before its plates are given back. -/
def lossSaid (l : LaneId) (s : State) : State :=
  submit (linkLostNotice l) (modLane l (fun L => { L with mode := .fault, lastMessage := none, lastHeld := none }) s)

theorem lossSaid_lane (l : LaneId) (s : State) : (lossSaid l s).lane l =
    { s.lane l with mode := .fault, lastMessage := none, lastHeld := none } := by
  rw [lossSaid, lane_of_lanes (submit_lanes _ _), lane_modLane]

theorem lossSaid_reports (l : LaneId) (s : State) :
    (lossSaid l s).reports = (submit (linkLostNotice l) s).reports := submit_reports_congr _ rfl rfl

theorem lossSaid_clock (l : LaneId) (s : State) : (lossSaid l s).clock = s.clock := submit_clock _ _

theorem QueuesSafe.lossSaid {s : State} (h : QueuesSafe s) (l : LaneId) : QueuesSafe (lossSaid l s) :=
  (h.of_modLane_queue l _ rfl).of_submit _

/-- A lane cleared by a link loss (R143). -/
def Lane.cleared (L : Lane) : Lane := { L with buffer := [], drumReady := false, owed := 0 }

/-- A link loss's effect on the lane's two plates (R143). -/
def lossResolved (l : LaneId) (s : State) : State := lossFront l (giveBack l (lossSaid l s))

theorem linksKept_lossResolved (l : LaneId) (s : State) : LinksKept (lossSaid l s) (lossResolved l s) :=
  (linksKept_giveBack l _).trans (linksKept_lossFront l _)

theorem takeLoss_eq (l : LaneId) (s : State) :
    takeLoss l s = settleLocks s (lossResolved l s) (modLane l Lane.cleared (lossResolved l s)) := rfl

theorem takeLoss_reports (l : LaneId) (s : State) : (lossResolved l s).reports <+: (takeLoss l s).reports :=
  (settleLocks_reacts s (lossResolved l s) (modLane l Lane.cleared (lossResolved l s))).reports

theorem lossResolved_link (l : LaneId) (s : State) :
    ((lossResolved l s).lane l).mode = .fault ∧ ((lossResolved l s).lane l).lastMessage = none := by
  have h := linksKept_lossResolved l s
  exact ⟨(h.mode l).trans (by rw [lossSaid_lane]), (h.lastMessage l).trans (by rw [lossSaid_lane])⟩

/-- A lane in FAULT makes no choice when its plates' locks are announced (R17, R119, R143). -/
theorem takeLoss_lane (l : LaneId) (s : State) : (takeLoss l s).lane l = ((lossResolved l s).lane l).cleared := by
  rw [takeLoss_eq]
  refine (reactionsKeep_lane (.inl ?_)).settleLocks _ _ (lane_modLane _ _ _)
  rw [Lane.cleared, (lossResolved_link l s).1]
  simp

theorem linkLost_iff {s : State} {l : LaneId} : linkLost s l = true ↔
    (s.lane l).mode ≠ .fault ∧ ∃ m, (s.lane l).lastMessage = some m ∧ 1000 ≤ (s.clock - m).toNat := by
  unfold linkLost
  cases (s.lane l).lastMessage <;> simp

theorem exec_linkLoss {s : State} {l : LaneId} (h : linkLost s l = true) : exec (.linkLoss l) s = .next (takeLoss l s) :=
  congrArg Host.Outcome.next (if_pos h)

/-- The front plate at a link loss, where the back plate's return reports nothing (R121, R143). -/
theorem lossResolved_front {s : State} (hq : QueuesSafe s) {p : Plate} (hp : (s.lane p.lane).front = some p)
    (hback : ∀ q, (s.lane p.lane).back = some q →
      q.lateReported = true ∨ 2147483648 ≤ (s.clock - q.latestStart).toNat) :
    let lost := submit (linkLostNotice p.lane) s
    Resolved p (some (p.spoil.getD .link)) (if p.spoil = none then submit (plateOutcome p 2 3) lost else lost)
      (giveBack p.lane (lossSaid p.lane s)) (lossResolved p.lane s) := by
  intro lost
  let g := giveBack p.lane (lossSaid p.lane s)
  have hul := lossSaid_lane p.lane s
  obtain ⟨_, hgave⟩ := giveBack_gaveBack (hq.lossSaid p.lane) p.lane
  have hgp : (g.lane p.lane).front = some p := by
    rw [hgave.front, hul]
    exact hp
  have hreports : g.reports = lost.reports := by
    refine (giveBack_reports fun q hqb => ?_).trans (lossSaid_reports _ s)
    rw [hul] at hqb
    rw [lossSaid_clock]
    exact hback q hqb
  have hclock : g.clock = lost.clock :=
    ((linksKept_giveBack _ _).clock.trans (lossSaid_clock _ s)).trans (submit_clock _ _).symm
  have hres := lossFront_resolved ((hq.lossSaid p.lane).of_giveBack p.lane) hgp
  by_cases hs : p.spoil = none
  · rw [if_pos hs] at hres ⊢
    exact hres.congr (submit_reports_congr _ hreports.symm hclock.symm)
      ((submit_clock _ _).trans (hclock.symm.trans (submit_clock _ _).symm))
  · rw [if_neg hs] at hres ⊢
    exact hres.congr hreports.symm hclock.symm

/-- Settles O51: a link loss with its lane's two plates, and the sending of IDLE. -/
theorem linkTimersAreKept : Obligations.LinkTimersAreKept := by
  intro s l
  refine ⟨?_, fun h => congrArg Host.Outcome.next (if_neg fun hl => ?_),
    fun h => congrArg Host.Outcome.next (if_pos (decide_eq_true h)),
    fun h => congrArg Host.Outcome.next (if_neg (by simpa [idleDue] using h))⟩
  · intro m hq hm hlast hlost lost
    let u := lossSaid l s
    let g := giveBack l u
    let r := lossResolved l s
    let t := takeLoss l s
    have hulane : u.lane l = { s.lane l with mode := .fault, lastMessage := none, lastHeld := none } := lossSaid_lane l s
    have huback : (u.lane l).back = (s.lane l).back := by rw [hulane]; rfl
    have hufront : (u.lane l).front = (s.lane l).front := by rw [hulane]; rfl
    have hgq : QueuesSafe g := (hq.lossSaid l).of_giveBack l
    obtain ⟨backs, hgave⟩ := giveBack_gaveBack (hq.lossSaid l) l
    obtain ⟨fronts, hfl⟩ := lossFront_frontLost hgq l
    change GaveBack l u g backs at hgave
    change FrontLost l g r fronts at hfl
    have hgfront : (g.lane l).front = (s.lane l).front := hgave.front.trans hufront
    have htlane : t.lane l = (r.lane l).cleared := takeLoss_lane l s
    have hrt : r.reports <+: t.reports := takeLoss_reports l s
    have hqueue : (t.lane l).queue = fronts ++ backs ++ (s.lane l).queue.filter fun x => x.state == .queued := by
      rw [htlane]
      change (r.lane l).queue = _
      rw [hfl.queue, hgave.offDrum, hulane, List.append_assoc]
    refine ⟨t, fronts, backs, exec_linkLoss (linkLost_iff.2 ⟨hm, m, hlast, hlost⟩), ?_, ?_, ?_, ?_, ?_, fun hf => ?_,
      fun hb => ?_, ?_, ?_, ?_, hqueue, fun hb => hgave.absent (huback.trans hb), fun hf => hfl.absent (hgfront.trans hf),
      fun p hp => ?_, fun p hp => ?_⟩
    · rw [htlane]; exact (lossResolved_link l s).1
    · rw [htlane]; exact (lossResolved_link l s).2
    · rw [htlane]; rfl
    · rw [htlane]; rfl
    · rw [htlane]; rfl
    · rw [htlane]
      exact hfl.frontCtx (hgfront ▸ hf)
    · rw [htlane]
      exact hfl.backCtx.trans (hgave.backCtx (huback ▸ hb))
    · rw [htlane]
      refine (hfl.sent.trans hgave.sent : _).trans ?_
      rw [hulane]
    · intro p hp
      rw [hqueue, List.mem_append, List.mem_append] at hp
      rcases hp with (hp | hp) | hp
      · exact hfl.queued (hgq.ok l) p hp
      · exact hgave.queued p hp
      · simpa using (List.mem_filter.1 hp).2
    · rw [← lossSaid_reports]
      exact (linksKept_lossResolved l s).reports.trans hrt
    · obtain ⟨late, hlate⟩ := hgave.returned p (huback.trans hp)
      exact ⟨_, hlate, rfl⟩
    · have hgp : (g.lane l).front = some p := hgfront.trans hp
      refine ⟨fun hw ha => ?_, hfl.ended p hgp, fun hback => ?_⟩
      · obtain ⟨late, hlate⟩ := hfl.returned p hgp hw ha
        exact ⟨_, hlate, rfl⟩
      · have hpl : p.lane = l := (hq.ok l).own p (Lane.front_mem hp).1
        subst hpl
        have hspoiled : Resolved p (some (p.spoil.getD .link))
            (if p.spoil = none then submit (plateOutcome p 2 3) lost else lost) g r := lossResolved_front hq hp hback
        refine ⟨hspoiled.tells.trans hrt, fun hw => ?_, fun hw ha => ?_⟩
        · rw [← hspoiled.tellsWithdraw hw]
          exact hrt
        · rw [← hspoiled.tellsFailure hw ha _ rfl]
          exact hrt
  · obtain ⟨hm, m, hlast, hlost⟩ := linkLost_iff.1 hl
    rcases h with h | h
    · exact hm h
    · have := h m hlast
      omega

end Sys2Proof.Machine
end

section
/-! ## Host requests: the traffic decoder's table, passing and dropped writes, and reads by region -/

namespace Sys2Proof.Machine

/-! ### The traffic decoder -/

theorem frameLocal_iff {s : State} {f : Nat} :
    frameLocal s f = true ↔ ∃ p, s.page f = some p ∧ p.state = .localPage := by
  unfold frameLocal
  cases s.page f <;> simp

/-- The class of a write in a region of the address map, by the engine state (R149). -/
theorem writeClass_of_region {s : State} {a : Nat} {r : Region} (h : regionOf a = r) :
    writeClass s a = if s.engine = .active then activeWrite s r else passThroughWrite r := by
  unfold writeClass
  rw [h]
  cases s.engine <;> rfl

/-- A region whose writes are of one class in both engine states (R149). -/
theorem writeClass_of_both {s : State} {a : Nat} {r : Region} {c : WriteClass} (h : regionOf a = r)
    (ha : activeWrite s r = c) (hp : passThroughWrite r = c) : writeClass s a = c := by
  rw [writeClass_of_region h, ha, hp, ite_self]

/-- The addresses of no special region are plain memory (R149). -/
theorem regionOf_plain {a : Nat}
    (h : (0x1000 ≤ a ∧ a < 0x100000) ∨ (0x102018 ≤ a ∧ a < 0x200000) ∨ (0x201000 ≤ a ∧ a < 0x300000) ∨
      (0x301000 ≤ a ∧ a < 0x1000000) ∨ (0x3000000 ≤ a ∧ a < 0x4000000) ∨ (0x6000000 ≤ a ∧ a < 0x8000000) ∨
      (0x3C8000000 ≤ a ∧ a < 0x400000000)) : regionOf a = .plain := by
  rw [regionOf_eq]
  iterate 12 rw [if_neg (by omega)]

theorem regionOf_profileRecord {a : Nat} (h : a < 0x1000) : regionOf a = .profileRecord := by
  rw [regionOf_eq, if_pos h]

theorem regionOf_reportRing {a : Nat} (h : 0x100000 ≤ a) (k : a < 0x102000) : regionOf a = .reportRing := by
  rw [regionOf_eq, if_neg (by omega), if_pos ⟨h, k⟩]

theorem regionOf_writeCount {a : Nat} (h : 0x102000 ≤ a) (k : a < 0x102008) : regionOf a = .writeCount := by
  rw [regionOf_eq]
  iterate 2 rw [if_neg (by omega)]
  rw [if_pos ⟨h, k⟩]

theorem regionOf_consumedCount {a : Nat} (h : 0x102008 ≤ a) (k : a < 0x102010) : regionOf a = .consumedCount := by
  rw [regionOf_eq]
  iterate 3 rw [if_neg (by omega)]
  rw [if_pos ⟨h, k⟩]

theorem regionOf_overflowWord {a : Nat} (h : 0x102010 ≤ a) (k : a < 0x102018) : regionOf a = .overflowWord := by
  rw [regionOf_eq]
  iterate 4 rw [if_neg (by omega)]
  rw [if_pos ⟨h, k⟩]

/-- A frame's bytes pass in PASS-THROUGH, and in ACTIVE where they are line art of a LOCAL page (R22, R149). -/
theorem writeClass_frame {s : State} {a f off : Nat} (h : regionOf a = .frame f off) : writeClass s a =
    if s.engine = .passThrough ∨ (off < 0x4000000 ∧ ∃ p, s.page f = some p ∧ p.state = .localPage) then .pass
    else .drop 5 f := by
  rw [writeClass_of_region h]
  simp only [activeWrite, passThroughWrite, frameLocal_iff, lineArtSize]
  cases s.engine <;> simp

/-- Settles O9: each row of the table is the region of its addresses, whose writes are of one class for each engine
state. -/
theorem writeClassesFollowAddressMap : Obligations.WriteClassesFollowAddressMap := by
  intro s a
  refine ⟨fun h => writeClass_of_both (regionOf_profileRecord h) rfl rfl,
    fun h k => writeClass_of_both (regionOf_reportRing h k) rfl rfl,
    fun h k => writeClass_of_both (regionOf_writeCount h k) rfl rfl,
    fun h k => writeClass_of_both (regionOf_consumedCount h k) rfl rfl,
    fun h k => writeClass_of_both (regionOf_overflowWord h k) rfl rfl,
    fun h k => writeClass_of_region (regionOf_inflowChute h k),
    fun h k => writeClass_of_region (regionOf_orderChute h k),
    fun h k => writeClass_of_region (regionOf_inflowRing h k),
    fun h k => writeClass_of_region (regionOf_patchPool h k),
    fun f off hf ho ha => writeClass_frame (regionOf_frame hf ho ha),
    fun h k => writeClass_of_region (regionOf_proofWindow h k),
    fun h => writeClass_of_both ((regionOf_unmapped_iff a).2 h) rfl rfl,
    fun h => writeClass_of_both (regionOf_plain h) rfl rfl⟩

/-! ### Requests that change nothing -/

/-- A held write keeps the system port from taking a host write (R149). -/
theorem hostWrite_of_held {s : State} (h : s.held.isSome = true) (a : Nat) (be : Enables) (d : Beat) :
    hostWrite a be d s = s := if_pos h

theorem hostRead_of_held {s : State} (h : s.held.isSome = true) (a : Nat) : hostRead a s = s := if_pos h

theorem hostAccess_of_held {s : State} (h : s.held.isSome = true) (r : Access) : hostAccess r s = s := by
  cases r with
  | read a => exact hostRead_of_held h _
  | write a be d => exact hostWrite_of_held h _ _ _

/-- A write with no byte enabled completes at once, below the end of the map (R149). -/
theorem hostWrite_zero {s : State} {a : Nat} (hh : s.held = none) (ha : a < 0x404000000) (d : Beat) :
    hostWrite a 0 d s = { portTaken s with responses := s.responses ++ [.ok] } := by
  have hr : regionOf a ≠ .unmapped := fun h => absurd ((regionOf_unmapped_iff a).1 h) (by omega)
  have hn : ¬ s.held.isSome = true := by simp [hh]
  rw [hostWrite, if_neg hn, if_pos ⟨rfl, hr⟩]
  rfl

theorem beatAddr_le (a : Nat) : beatAddr a ≤ a := by
  unfold beatAddr
  omega

theorem chuteAddr_lt (c : Chute) (off : BitVec 12) : chuteAddr c off < 0x404000000 := by
  have := off.isLt
  cases c <;> simp only [chuteAddr, beatAddr, inflowChuteBase, orderChuteBase] <;> omega

/-- Settles O8: a request that finds a write held, and a write with no byte enabled, by the system port's first two
tests. -/
theorem requestsThatChangeNothing : Obligations.RequestsThatChangeNothing := by
  refine ⟨fun s off po a be d r k hh => ?_, fun s a off d hh => ?_⟩
  · have next {t : State} (h : t = s) : Host.Outcome.next (φ := Fault) (ρ := Refusal) t = .next s := congrArg _ h
    have write (a : Nat) := next (hostWrite_of_held hh a be d)
    have read (a : Nat) := next (hostRead_of_held hh a)
    have access := next (hostAccess_of_held hh r)
    exact ⟨write _, write _, write _, read _, access, read _, access, write _, write _, write _⟩
  · have write {a : Nat} (ha : a < 0x404000000) := congrArg (Host.Outcome.next (φ := Fault) (ρ := Refusal))
      (hostWrite_zero hh ha d)
    exact ⟨fun ha => ⟨write (lt_of_le_of_lt (beatAddr_le _) ha), write (lt_of_le_of_lt (beatAddr_le _) ha)⟩,
      write (chuteAddr_lt .inflow off), write (chuteAddr_lt .order off), write (by decide), write (by decide),
      write (by decide)⟩

/-! ### Writes with bytes enabled -/

/-- A write with a byte enabled, taken as its class says (R149). -/
theorem hostWrite_taken {s : State} {be : Enables} (hh : s.held = none) (hbe : be ≠ 0) (a : Nat) (d : Beat) :
    hostWrite a be d s = takeWrite (writeClass s a) a be d s := by
  have hn : ¬ s.held.isSome = true := by simp [hh]
  rw [hostWrite, if_neg hn, if_neg fun h => hbe h.1]

/-- Settles O10: a dropped write is its response and its report. -/
theorem droppedWriteIsReported : Obligations.DroppedWriteIsReported := by
  intro s a be d code f hh hbe hc
  have hw : hostWrite (beatAddr a.toNat) be d s = dropWrite code f (beatAddr a.toNat) be (portTaken s) := by
    rw [hostWrite_taken hh hbe, show writeClass s (beatAddr a.toNat) = .drop code f from hc]
    rfl
  have hhigh : beatAddr a.toNat / 4294967296 = a.toNat / 4294967296 := by
    unfold beatAddr
    omega
  have hr : accessReport code (beatAddr a.toNat) be.toNat f =
      { kind := .access, code := code, tag := 0, stamp := 0, key := ⟨0, 0, 0⟩, lane := 0,
        detailA := BitVec.ofNat 32 (8 * (a.toNat / 8)), detailB := BitVec.ofNat 32 (a.toNat / 4294967296),
        detailC := be.setWidth 32, detailD := BitVec.ofNat 32 f } := by
    rw [accessReport, hhigh, det, det, det, BitVec.ofNat_toNat]
    rfl
  refine congrArg Host.Outcome.next (hw.trans ?_)
  rw [dropWrite, hr]
  rfl

/-- The bytes and errors that a write performed leaves (R150, R155). -/
theorem storeBeat_badWords (s : State) (a w : Nat) (be : Enables) (d : Beat) :
    w ∈ (storeBeat a be d s).badWords ↔ w ∈ s.badWords ∧ ¬ (be = BitVec.allOnes 8 ∧ w = a / 8) := by
  unfold storeBeat
  by_cases hbe : be = BitVec.allOnes 8
  · simp [hbe, wordOf]
  · rw [if_neg hbe]
    simp only [hbe, false_and, not_false_eq_true, and_true]

theorem writePerformed_iff {s : State} {a : Nat} {be : Enables} : writePerformed a be s = true ↔
    be = BitVec.allOnes 8 ∨ s.badWords.contains (a / 8) = false := by
  simp [writePerformed, State.bad, wordOf]

/-- Settles O11: a write that the memory port performs is stored, and one that it does not is answered with an error. -/
theorem passingWriteStoresEnabledBytes : Obligations.PassingWriteStoresEnabledBytes := by
  intro s a be d hwf hh hbe b hc
  have hw : hostWrite b be d s = passWrite .pass b be d s := by
    rw [hostWrite_taken hh hbe, hc]
    rfl
  have hexec : exec (.passingAccess (.write a be d)) s = .next (passWrite .pass b be d s) :=
    congrArg Host.Outcome.next hw
  rw [hexec]
  refine ⟨fun hp => ?_, fun hbe' hbad => ?_⟩
  · have hpass : passWrite .pass b be d s = respond .ok (storeBeat b be d (portGrant s)) :=
      if_pos (writePerformed_iff.2 hp)
    have hmem : (storeBeat b be d (portGrant s)).mem = mergeBeat s.mem b be d := by
      rw [← portGrant_mem s]
      rfl
    rw [hpass]
    refine ⟨_, rfl, ?_, fun k hk => ?_, fun x hx => ?_, fun w => ?_⟩
    · rw [← portGrant_responses s]
      rfl
    · change memRead (storeBeat b be d (portGrant s)).mem (b + k) = _
      rw [hmem, memRead_mergeBeat _ _ _ _ hwf, Nat.add_sub_cancel_left]
      simp [hk, enabled, beatByte]
    · change memRead (storeBeat b be d (portGrant s)).mem x = _
      rw [hmem, memRead_mergeBeat _ _ _ _ hwf, if_neg (by omega)]
    · rw [← portGrant_badWords s]
      exact storeBeat_badWords _ _ _ be d
  · have hpass : passWrite .pass b be d s = respond .error (portGrant s) :=
      if_neg fun h => by rcases writePerformed_iff.1 h with h | h <;> simp_all
    rw [hpass, ← portGrant_responses s]
    rfl

/-! ### Reads -/

theorem regionOf_inflowChute_iff (a : Nat) : regionOf a = .inflowChute ↔ 0x200000 ≤ a ∧ a < 0x201000 := by
  refine ⟨fun h => ?_, fun h => regionOf_inflowChute h.1 h.2⟩
  by_contra hn
  revert h
  rw [regionOf_eq]
  iterate 5 refine ite_ne_of (by simp) fun _ => ?_
  rw [if_neg hn]
  iterate 6 refine ite_ne_of (by simp) fun _ => ?_
  simp

theorem regionOf_orderChute_iff (a : Nat) : regionOf a = .orderChute ↔ 0x300000 ≤ a ∧ a < 0x301000 := by
  refine ⟨fun h => ?_, fun h => regionOf_orderChute h.1 h.2⟩
  by_contra hn
  revert h
  rw [regionOf_eq]
  iterate 6 refine ite_ne_of (by simp) fun _ => ?_
  rw [if_neg hn]
  iterate 5 refine ite_ne_of (by simp) fun _ => ?_
  simp

theorem regionOf_proofWindow_iff (a : Nat) : regionOf a = .proofWindow ↔ 0x400000000 ≤ a ∧ a < 0x404000000 := by
  refine ⟨fun h => ?_, fun h => regionOf_proofWindow h.1 h.2⟩
  by_contra hn
  revert h
  rw [regionOf_eq]
  iterate 10 refine ite_ne_of (by simp) fun _ => ?_
  rw [if_neg hn]
  refine ite_ne_of (by simp) fun _ => ?_
  simp

/-- A read below the proof window passes, unless it is of a chute in ACTIVE (R149). -/
theorem readClass_pass {s : State} {a : Nat} (ha : a < 0x400000000)
    (hc : ¬ (s.engine = .active ∧ (0x200000 ≤ a ∧ a < 0x201000 ∨ 0x300000 ≤ a ∧ a < 0x301000))) :
    readClass s a = .pass := by
  rw [← regionOf_inflowChute_iff, ← regionOf_orderChute_iff] at hc
  have hp : regionOf a ≠ .proofWindow := fun h => absurd ((regionOf_proofWindow_iff a).1 h).1 (by omega)
  have hu : regionOf a ≠ .unmapped := fun h => absurd ((regionOf_unmapped_iff a).1 h) (by omega)
  unfold readClass
  split
  · next h e => exact absurd ⟨e, .inl h⟩ hc
  · next h e => exact absurd ⟨e, .inr h⟩ hc
  · next h e => exact absurd h hp
  · next h e => exact absurd h hp
  · next h => exact absurd h hu
  · rfl

theorem readClass_chute {s : State} {a : Nat} (he : s.engine = .active)
    (h : regionOf a = .inflowChute ∨ regionOf a = .orderChute) : readClass s a = .zeros := by
  rcases h with h | h <;> simp [readClass, h, he]

theorem readClass_proofWindow {s : State} {a : Nat} (he : s.engine = .passThrough) (h : regionOf a = .proofWindow) :
    readClass s a = .error := by
  simp [readClass, h, he]

theorem readClass_unmapped {s : State} {a : Nat} (h : 0x404000000 ≤ a) : readClass s a = .error := by
  simp [readClass, (regionOf_unmapped_iff a).2 h]

/-- A read taken, by its class (R149). -/
theorem hostRead_error {s : State} {a : Nat} (hh : s.held = none) (h : readClass s a = .error) :
    hostRead a s = { portTaken s with responses := s.responses ++ [.error] } := by
  simp only [hostRead, hh, h]
  rfl

theorem hostRead_zeros {s : State} {a : Nat} (hh : s.held = none) (h : readClass s a = .zeros) :
    hostRead a s = { portTaken s with responses := s.responses ++ [.data 0] } := by
  simp only [hostRead, hh, h]
  rfl

theorem hostRead_pass {s : State} {a : Nat} (hh : s.held = none) (h : readClass s a = .pass) :
    hostRead a s = { portGrant s with
      responses := s.responses ++ [if s.bad a then .error else .data (loadBeat s a)] } := by
  have hr : hostRead a s = passRead a s := by
    simp only [hostRead, hh, h]
    rfl
  rw [hr, passRead, ← portGrant_responses s]
  split <;> rfl

/-- A byte of a beat read is memory's at its address (notes/assumptions/14.md). -/
theorem loadBeat_byte (s : State) (a : Nat) {k : Nat} (hk : k < 8) :
    (loadBeat s a).extractLsb' (8 * k) 8 = memRead s.mem (a + k) := by
  refine BitVec.eq_of_getLsbD_eq fun i hi => ?_
  have hbyte : (memReadBytes s.mem a 8).getD k 0 = memRead s.mem (a + k) := by
    simp [memReadBytes, List.getD_eq_getElem?_getD, hk]
  rw [BitVec.getLsbD_extractLsb', decide_eq_true hi, Bool.true_and, loadBeat, beatOf_getLsbD _ hk hi, hbyte]

theorem chuteAddr_region (c : Chute) (off : BitVec 12) :
    regionOf (chuteAddr c off) = .inflowChute ∨ regionOf (chuteAddr c off) = .orderChute := by
  cases c with
  | inflow => exact .inl (chuteAddr_inflow off)
  | order => exact .inr (chuteAddr_order off)

theorem proofWindow_region (off : BitVec 26) : regionOf (beatAddr (proofBase + off.toNat)) = .proofWindow := by
  have := off.isLt
  exact regionOf_proofWindow (by simp only [beatAddr, proofBase]; omega) (by simp only [beatAddr, proofBase]; omega)

/-- Settles O12: each region's reads by their class, and a passing read by its word's error. -/
theorem readsAreAnsweredByRegion : Obligations.ReadsAreAnsweredByRegion := by
  intro s hh
  refine ⟨fun a ha hc => ?_, fun he c off => congrArg _ (hostRead_zeros hh (readClass_chute he (chuteAddr_region c off))),
    fun he off => congrArg _ (hostRead_error hh (readClass_proofWindow he (proofWindow_region off))),
    fun a be d ha => ⟨?_, ?_⟩⟩
  · have hclass : readClass s (beatAddr a.toNat) = .pass :=
      readClass_pass (lt_of_le_of_lt (beatAddr_le _) ha) fun h =>
        hc ⟨h.1, by have := h.2; unfold beatAddr at this; omega⟩
    have hbad : s.bad (beatAddr a.toNat) = s.badWords.contains (a.toNat / 8) := by
      rw [State.bad, wordOf, beatAddr, Nat.mul_div_cancel_left _ (by decide)]
    have hread := congrArg (Host.Outcome.next (φ := Fault) (ρ := Refusal)) (hostRead_pass hh hclass)
    rw [hbad] at hread
    refine ⟨fun h => ?_, fun h => ⟨loadBeat s (beatAddr a.toNat), ?_, fun k hk => loadBeat_byte s _ hk⟩⟩
    · rw [h] at hread
      exact hread
    · rw [h] at hread
      exact hread
  · have ha' : 0x404000000 ≤ beatAddr a.toNat := by unfold beatAddr; omega
    exact congrArg _ (hostRead_error hh (readClass_unmapped ha'))
  · have ha' : 0x404000000 ≤ beatAddr a.toNat := by unfold beatAddr; omega
    have hr : regionOf (beatAddr a.toNat) = .unmapped := (regionOf_unmapped_iff _).2 ha'
    have hw : hostWrite (beatAddr a.toNat) be d s = { portTaken s with responses := s.responses ++ [.error] } := by
      have hn : ¬ s.held.isSome = true := by simp [hh]
      rw [hostWrite, if_neg hn, if_neg fun h => h.2 hr, writeClass_of_both (c := .error) hr rfl rfl]
      rfl
    exact congrArg _ hw

/-! ### Reports submitted -/

/-- Settles O19: the two cases of a submission, and the two of a drop. -/
theorem submissionQueuesOrDropsReport : Obligations.SubmissionQueuesOrDropsReport := by
  intro r s
  have drop (h : 64 ≤ s.reports.length) : submit r s = noteDrop s := if_neg (Nat.not_lt.2 h)
  refine ⟨fun h => if_pos h, fun h hf => ?_, fun h hf => ?_⟩
  · rw [drop h, noteDrop, if_pos hf]
  · rw [drop h, noteDrop, if_neg (by simp [hf])]

end Sys2Proof.Machine
end

section
/-! ## The order chute: records assembled, queued, and discarded -/

namespace Sys2Proof.Machine

/-! ### The assembler -/

/-- Bytes that complete no record join the buffer (R152). -/
theorem assembleBytes_short {bs : List Byte} {s : State} (h : (s.assembly ++ bs).length < 32) :
    assembleBytes bs s = ([], { s with assembly := s.assembly ++ bs }) := by
  induction bs generalizing s with
  | nil => rw [List.append_nil]; rfl
  | cons b bs ih =>
    have hs := ih (s := { s with assembly := s.assembly ++ [b] }) (by simpa using h)
    rw [List.length_append, List.length_cons] at h
    rw [assembleBytes, if_pos (by omega), hs]
    simp

/-- Bytes that complete a record (R152): with a place free it is queued and those after it go on; otherwise they
wait. -/
theorem assembleBytes_record {bs : List Byte} {s : State} (ha : s.assembly.length < 32)
    (h : 32 ≤ (s.assembly ++ bs).length) : assembleBytes bs s =
      if s.orderQueue.length < 32 then
        assembleBytes ((s.assembly ++ bs).drop 32) (queueRecord { s with assembly := (s.assembly ++ bs).take 32 })
      else ((s.assembly ++ bs).drop 32, { s with assembly := (s.assembly ++ bs).take 32 }) := by
  induction bs generalizing s with
  | nil => simp at h; omega
  | cons b bs ih =>
    have happ : s.assembly ++ b :: bs = (s.assembly ++ [b]) ++ bs := by simp
    rw [happ] at h ⊢
    rw [assembleBytes]
    by_cases hl : s.assembly.length + 1 < 32
    · rw [if_pos hl]
      exact ih (s := { s with assembly := s.assembly ++ [b] }) (by simpa using hl) h
    · have hlen : (s.assembly ++ [b]).length = 32 := by rw [List.length_append, List.length_singleton]; omega
      rw [if_neg hl, List.take_left' hlen, List.drop_left' hlen]

/-- A record queued while the executor has an order in hand (R152, R153). -/
theorem queueRecord_busy {s : State} (h : s.inHand.isSome = true) : queueRecord s =
    { s with orderQueue := s.orderQueue ++ [orderOf s.assembly], assembly := [] } := by
  obtain ⟨o, ho⟩ := Option.isSome_iff_exists.1 h
  simp only [queueRecord, takeOrder, ho]

/-- A record that an idle executor with an empty queue takes at once (R152, R153). -/
theorem queueRecord_idle {s : State} (hq : s.orderQueue = []) (h : s.inHand = none) : queueRecord s =
    { s with inHand := some (orderOf s.assembly), assembly := [] } := by
  simp only [queueRecord, takeOrder, h, hq, List.nil_append]

/-- Bytes of a write that complete no record: the write completes with OK (R152). -/
theorem offerOrder_short {bs : List Byte} {s : State} (h : (s.assembly ++ bs).length < 32) (a : Addr) :
    offerOrder a bs s =
      { s with assembly := s.assembly ++ bs, held := none, responses := s.responses ++ [.ok] } := by
  rw [offerOrder, assembleBytes_short h]
  exact if_pos h

/-- Bytes of a write that complete one record, which is queued: the bytes after it begin the next (R152). -/
theorem offerOrder_record {bs : List Byte} {s t : State} (ha : s.assembly.length < 32)
    (h : 32 ≤ (s.assembly ++ bs).length) (hbs : bs.length ≤ 8) (hq : s.orderQueue.length < 32)
    (ht : queueRecord { s with assembly := (s.assembly ++ bs).take 32 } = t) (hta : t.assembly = []) (a : Addr) :
    offerOrder a bs s =
      { t with assembly := (s.assembly ++ bs).drop 32, held := none, responses := t.responses ++ [.ok] } := by
  have hrest : ((s.assembly ++ bs).drop 32).length < 32 := by
    rw [List.length_drop, List.length_append]
    omega
  have hoffer : offerOrder a bs s = offerOrder a ((s.assembly ++ bs).drop 32) t := by
    rw [offerOrder, assembleBytes_record ha h, if_pos hq, ht]
    rfl
  rw [hoffer, offerOrder_short (by rwa [hta]), hta]
  rfl

/-- Bytes of a write that complete a record while the queue is full: the write is held (R152). -/
theorem offerOrder_full {bs : List Byte} {s : State} (ha : s.assembly.length < 32)
    (h : 32 ≤ (s.assembly ++ bs).length) (hq : 32 ≤ s.orderQueue.length) (a : Addr) :
    offerOrder a bs s = { s with
      assembly := (s.assembly ++ bs).take 32
      held := some ⟨.order, a, (s.assembly ++ bs).drop 32, s.clock⟩ } := by
  have hlen : ¬ ((s.assembly ++ bs).take 32).length < 32 := by
    rw [List.length_take]
    omega
  rw [offerOrder, assembleBytes_record ha h, if_neg (by omega)]
  exact if_neg hlen

/-! ### An order write -/

/-- An order write in ACTIVE offers its enabled bytes to the assembler (R149, R152). -/
theorem exec_orderChuteWrite {s : State} {be : Enables} (hh : s.held = none) (he : s.engine = .active) (hbe : be ≠ 0)
    (off : BitVec 12) (d : Beat) : exec (.orderChuteWrite off be d) s =
      .next (offerOrder (BitVec.ofNat 35 (0x300000 + 8 * (off.toNat / 8))) (enabledBytes be d) (portTaken s)) := by
  have ha : chuteAddr .order off = 0x300000 + 8 * (off.toNat / 8) := by
    simp only [chuteAddr, beatAddr, orderChuteBase]
    omega
  have hc : writeClass s (chuteAddr .order off) = .chute .order := by
    rw [writeClass_of_region (chuteAddr_order off), if_pos he]
    rfl
  have hw : hostWrite (chuteAddr .order off) be d s =
      orderWrite (BitVec.ofNat 35 (chuteAddr .order off)) be d (portTaken s) := by
    rw [hostWrite_taken hh hbe, hc]
    rfl
  rw [← ha]
  exact congrArg Host.Outcome.next hw

/-- Settles O29: the bytes complete no record, or one that is queued, taken at once, or waits. -/
theorem orderBytesAssembleRecords : Obligations.OrderBytesAssembleRecords := by
  intro s off be d hh he hbe ha bs
  have hlen := enabledBytes_length_le be d
  let a : Addr := BitVec.ofNat 35 (0x300000 + 8 * (off.toNat / 8))
  have hexec := exec_orderChuteWrite hh he hbe off d
  refine ⟨fun h => ?_, fun h hq hi => ?_, fun h hq hi => ?_, fun h hq => ?_⟩
  · rw [hexec, offerOrder_short (s := portTaken s) h, ← hh]
    rfl
  · rw [hexec, offerOrder_record (s := portTaken s) ha h hlen hq (queueRecord_busy hi) rfl, ← hh]
    rfl
  · rw [hexec, offerOrder_record (s := portTaken s) ha h hlen (by simp [hq]) (queueRecord_idle hq hi) rfl, ← hh]
    rfl
  · rw [hexec, offerOrder_full (s := portTaken s) ha h hq]
    rfl

/-! ### A record that waits -/

theorem heldOrder_eq {s : State} {h : HeldWrite} (hs : s.held = some h) (hc : h.chute = .order) :
    heldOrder s = some h := by
  simp [heldOrder, hs, hc]

/-- When an order write has been held too long (R152). -/
theorem holdExpired_order {s : State} {h : HeldWrite} {pr : Profile} (hs : s.held = some h) (hc : h.chute = .order)
    (hp : s.profile = some pr) :
    holdExpired s .order = decide (10 * pr.holdLimit < (s.clock - h.since).toNat) := by
  simp [holdExpired, State.holdTicks, hs, hc, hp]

/-- Settles O30: the record queued or not, and the hold expired or not. -/
theorem heldOrderIsQueuedOrDiscarded : Obligations.HeldOrderIsQueuedOrDiscarded := by
  intro s h o pr hs hc ha hr hi hp
  have hheld := heldOrder_eq hs hc
  have hexpired := holdExpired_order hs hc hp
  refine ⟨fun hq => ?_, fun hq => ?_, fun hd => ?_, fun hd => ?_⟩
  · have hrec : recordQueued s = offerOrder h.addr h.rest (queueRecord s) := by
      simp only [recordQueued, hheld]
      exact if_pos ⟨ha, hq⟩
    refine congrArg Host.Outcome.next (hrec.trans ?_)
    rw [queueRecord_busy (by simp [hi]), offerOrder_short (by simpa using hr)]
    rfl
  · have hrec : recordQueued s = s := by
      simp only [recordQueued, hheld]
      exact if_neg fun hn => absurd hn.2 (by omega)
    exact congrArg Host.Outcome.next hrec
  · have htime : orderTimeout s = s := by
      simp only [orderTimeout, hheld, hexpired]
      exact if_neg (by simpa using hd)
    exact congrArg Host.Outcome.next htime
  · have htime : orderTimeout s = submit (accessReport 7 h.addr.toNat (s.assembly.length + h.rest.length) 0)
        (respond .error { s with held := none, assembly := [] }) := by
      simp only [orderTimeout, hheld, hexpired]
      exact if_pos (by simpa using hd)
    rw [ha] at htime
    exact congrArg Host.Outcome.next htime

end Sys2Proof.Machine
end

section
/-! ## A ring write before the segment's last byte -/

namespace Sys2Proof.Machine

/-! ### The Lander's grant -/

/-- Class 3 holds the Lander alone (R156). -/
theorem requestClass_eq_three {s : State} {q : Requester} : requestClass s q = 3 ↔ q = .lander := by
  cases q with
  | composer l => rcases composerClass_cases s l with h | h <;> simp [requestClass, h]
  | _ => simp [requestClass]

/-- In class 3 the Lander's request is granted (R156). -/
theorem grantInClass_three {s : State} {w : List Requester} (h : .lander ∈ w) :
    grantInClass s 3 w = some .lander := by
  obtain ⟨r, hr⟩ := Option.isSome_iff_exists.1 (grantInClass_isSome (s := s) h)
  have hr3 := requestClass_eq_three.1 (grantInClass_mem hr).2
  rw [← hr3]
  exact hr

/-- When the Lander's request is granted (R156). -/
theorem grants_lander {s : State} : s.grants .lander = true ↔ ∀ q ∈ s.requests, 3 ≤ requestClass s q := by
  have hclass : requestClass s .lander = 3 := rfl
  unfold State.grants
  rw [beq_iff_eq, arbiterGrant_eq_some, hclass]
  by_cases hm : .lander ∈ s.requests
  · rw [if_pos (by simpa using hm), and_iff_left (grantInClass_three hm)]
  · rw [if_neg (by simpa using hm), and_iff_left (grantInClass_three (by simp))]
    simp [or_imp, forall_and, hclass]

/-! ### The word written and its bytes taken -/

/-- The state with the Lander's request written and counted, the held write not yet gone on (R34). -/
def State.ringWritten (s : State) (b : Body) (q : RingRequest) : State :=
  { s.withMemory (storeRing q.offset q.bytes s) with
    lander := .body { b with landed := b.landed + q.bytes.length, request := none } }

/-- RING_WRITE_DONE before a segment's last byte (R34). -/
theorem exec_ringWriteDone_more {s : State} {b : Body} {start : Nat} {q : RingRequest} (hg : s.grants .lander = true)
    (hl : s.lander = .body b) (hs : b.start = some start) (hq : b.request = some q)
    (hmore : b.landed + q.bytes.length < totalOf b.header.length) : exec .ringWriteDone s =
      .next (continueInflow q.stream (s.ringWritten b q)) := by
  have h : ringWriteDone s = continueInflow q.stream { storeRing q.offset q.bytes s with
      lander := .body { b with landed := b.landed + q.bytes.length, request := none } } := by
    simp only [ringWriteDone, hl, hs, hq, hg]
    exact if_neg (Nat.not_le.2 hmore)
  rw [storeRing_eq] at h
  exact congrArg Host.Outcome.next h

theorem exec_ringWriteDone_waits {s : State} (hg : s.grants .lander = false) : exec .ringWriteDone s = .next s := by
  refine congrArg Host.Outcome.next ?_
  unfold ringWriteDone
  rw [hg]
  split
  · split
    · next h => cases h
    · rfl
  · rfl
  · rfl

/-- The state with `n` bytes of the held write taken and its turn ended (R34, R35); a request of none of its bytes leaves
it as it is. -/
def State.streamTaken (s : State) (n : Nat) : State :=
  { s with
    held := if n = 0 then s.held else (s.turnEnded (heldAddr s) (restAfter n s)).held
    responses := if n = 0 then s.responses else (s.turnEnded (heldAddr s) (restAfter n s)).responses }

theorem streamTaken_zero (s : State) : s.streamTaken 0 = s := rfl

theorem streamTaken_pos {n : Nat} (h : 0 < n) (s : State) :
    s.streamTaken n = s.turnEnded (heldAddr s) (restAfter n s) := by
  rw [State.streamTaken, if_neg (by omega), if_neg (by omega)]
  rfl

/-- The held write goes on, and the next ring word is requested (R34). -/
theorem continueInflow_body {s : State} {b : Body} (hl : s.lander = .body b) (n : Nat) :
    RingWordAsked (b.requesting (heldInflow (s.streamTaken n))) (s.streamTaken n) (continueInflow n s) := by
  rcases Nat.eq_zero_or_pos n with rfl | hn
  · exact issueRequest_body hl
  · rw [streamTaken_pos hn, continueInflow, if_neg (by omega), heldInflow_turnEnded]
    exact offerInflow_body (takeBytes_body hl _) hl _

theorem heldInflow_of_inflow {s : State} {h : HeldWrite} (hs : s.held = some h) (hi : h.chute = .inflow) :
    heldInflow s = h.rest := by
  simp [heldInflow, hs, hi]

theorem heldInflow_of_other {s : State} (h : ∀ w, s.held = some w → w.chute ≠ .inflow) : heldInflow s = [] := by
  unfold heldInflow
  split
  · next w hw => exact if_neg (h w hw)
  · rfl

/-- Bytes of an inflow write taken: the write completes with none left, and is held anew with some (R34, R35). -/
theorem streamTaken_inflow {s : State} {h : HeldWrite} {n : Nat} (hn : 0 < n) (hs : s.held = some h)
    (hi : h.chute = .inflow) : s.streamTaken n = s.turnEnded h.addr (h.rest.drop n) := by
  rw [streamTaken_pos hn, restAfter, heldInflow_of_inflow hs hi, heldAddr, hs]

/-- What a request lets the loader read goes by the loader and the count of free values before it alone. -/
theorem RequestLetsLoaderRead.congr {c : Body} {w : List Requester} {s u t : State}
    (h : RequestLetsLoaderRead c w u t) (hl : u.loader = s.loader) (hf : u.free = s.free) :
    RequestLetsLoaderRead c w s t := by
  unfold RequestLetsLoaderRead stillWaiting at h ⊢
  rwa [hl, hf] at h

/-- Settles O26: the request waits, or its word is written, the held write goes on, and the next word is requested. -/
theorem ringWriteLandsItsBytes : Obligations.RingWriteLandsItsBytes := by
  refine ⟨fun s => ⟨grants_lander, exec_ringWriteDone_waits⟩, ?_⟩
  intro s b start q hwf hg hl hs hq hstream hmore
  let b' : Body := { b with landed := b.landed + q.bytes.length, request := none }
  let u := (s.ringWritten b q).streamTaken q.stream
  have hinflow {h : HeldWrite} (h0 : 0 < q.stream) (hh : s.held = some h) : h.chute = .inflow := by
    obtain ⟨h', hh', hi⟩ := hstream h0
    rwa [Option.some.inj (hh.symm.trans hh')]
  obtain ⟨v, hv, hread⟩ := continueInflow_body (s := s.ringWritten b q) (b := b') rfl q.stream
  have hc : b'.requesting (heldInflow u) = { b' with request := nextRequest b' start (heldInflow u) } :=
    requesting_admitted (b := b') hs rfl _
  rw [hc] at hv hread
  refine ⟨_, _, (exec_ringWriteDone_more hg hl hs hq hmore).trans (congrArg _ hv), rfl, rfl, fun h hh hi => ?_,
    fun hno => ?_, rfl, hread.congr rfl rfl, fun x hx => ?_, fun hw i hi => ?_, fun h0 => ?_, fun h h0 hh hrest => ?_,
    fun h h0 hh hrest => ?_⟩
  · exact congrArg (nextRequest b' start) (heldInflow_of_inflow hh hi)
  · exact congrArg (nextRequest b' start) (heldInflow_of_other hno)
  · exact storeRing_outside hwf _ _ x hx
  · exact storeRing_inside hwf hw hi
  · have hsame : u = s.ringWritten b q := by
      simp only [u, h0, streamTaken_zero]
    exact ⟨(congrArg State.held hsame).trans rfl, (congrArg State.responses hsame).trans rfl⟩
  · have hend := streamTaken_inflow (s := s.ringWritten b q) h0 hh (hinflow h0 hh)
    rw [List.drop_eq_nil_of_le hrest] at hend
    exact ⟨(congrArg State.held hend).trans rfl, (congrArg State.responses hend).trans rfl⟩
  · have hsome : h.rest.drop q.stream ≠ [] := by simpa using hrest
    have hend := streamTaken_inflow (s := s.ringWritten b q) h0 hh (hinflow h0 hh)
    have hturn : (s.ringWritten b q).turnEnded h.addr (h.rest.drop q.stream) = { s.ringWritten b q with
        held := some ⟨.inflow, h.addr, h.rest.drop q.stream, s.clock⟩ } := by
      simp only [State.turnEnded, if_neg hsome]
      rfl
    rw [hturn, ← hinflow h0 hh] at hend
    exact ⟨(congrArg State.held hend).trans rfl, (congrArg State.responses hend).trans rfl⟩

end Sys2Proof.Machine
end

section
/-! ## Requests of 1 to 8 words, and the turns of the lanes -/

namespace Sys2Proof.Machine

/-! ### Accesses -/

/-- The words of an access lie one after another (R156). -/
theorem accessLength_consecutive {as : List Nat} {i : Nat} (h : i < accessLength as) :
    as.getD i 0 = as.headD 0 + 8 * i := by
  have hpre := List.takeWhile_prefix (fun i => as.getD i 0 == as.headD 0 + 8 * i) (l := List.range (min 8 as.length))
  have hi := hpre.getElem h
  have hp := List.mem_takeWhile_imp (List.getElem_mem h)
  rw [hi] at hp
  simpa using hp

/-- Going on with an access that has taken more words takes as many accesses, or one more (R156). -/
theorem accessesAfter_mono {as : List Nat} {last m n : Nat} (h : m ≤ n) :
    accessesAfter last m as ≤ accessesAfter last n as ∧ accessesAfter last n as ≤ accessesAfter last m as + 1 := by
  induction as generalizing last m n with
  | nil => simp [accessesAfter]
  | cons a as ih =>
    have more := ih (last := a) (Nat.succ_le_succ h)
    have afresh := ih (last := a) (Nat.le_add_left 1 m)
    simp only [accessesAfter]
    split <;> split <;> omega

/-- An access begun takes in the words after it at no more accesses than they take by themselves (R156). -/
theorem accesses_le_after (last n : Nat) (as : List Nat) : accesses as ≤ accessesAfter last n as + 1 := by
  cases as with
  | nil => simp [accesses]
  | cons a as =>
    have := (accessesAfter_mono (as := as) (last := a) (Nat.le_add_left 1 n)).1
    simp only [accesses, accessesAfter]
    split <;> omega

/-- Fewer words, from a later one on, take no more accesses (R156). -/
theorem accesses_drop_le (k : Nat) (as : List Nat) : accesses (as.drop k) ≤ accesses as := by
  induction as generalizing k with
  | nil => simp
  | cons a as ih =>
    cases k with
    | zero => exact le_refl _
    | succ k => exact (ih k).trans (accesses_le_after a 1 as)

/-- How many of some words go on with an access of `n` words whose last is at `last` (R156). -/
def joining : Nat → Nat → List Nat → Nat
  | _, _, [] => 0
  | last, n, a :: as => if a = last + 8 ∧ n < 8 then joining a (n + 1) as + 1 else 0

/-- The accesses after one begun are those of the words that do not join it. -/
theorem accessesAfter_eq (last n : Nat) (as : List Nat) :
    accessesAfter last n as = accesses (as.drop (joining last n as)) := by
  induction as generalizing last n with
  | nil => rfl
  | cons a as ih =>
    simp only [accessesAfter, joining]
    split
    · exact ih a (n + 1)
    · rfl

/-- The words that join an access are consecutive, 8 with it at most, and the next is not (R156). -/
theorem joining_spec (last n : Nat) (as : List Nat) (hn : n ≤ 8) :
    let j := joining last n as
    j ≤ as.length ∧ n + j ≤ 8 ∧ (∀ i, i < j → as.getD i 0 = last + 8 * (i + 1)) ∧
      (j < as.length → n + j < 8 → as.getD j 0 ≠ last + 8 * (j + 1)) := by
  induction as generalizing last n with
  | nil => simp [joining, hn]
  | cons a as ih =>
    simp only [joining]
    split
    · next h =>
      obtain ⟨hl, h8, hc, hnext⟩ := ih a (n + 1) (by omega)
      refine ⟨by simpa using hl, by omega, fun i hi => ?_, fun hl' hn' => ?_⟩
      · cases i with
        | zero => simp [h.1]
        | succ i => rw [List.getD_cons_succ, hc i (by omega)]; omega
      · rw [List.getD_cons_succ]
        have := hnext (by simpa using hl') (by omega)
        omega
    · next h =>
      refine ⟨by omega, by omega, by omega, fun _ hn' => ?_⟩
      rw [List.getD_cons_zero]
      omega

/-- Numbers taken from 0 up to the first that fails. -/
theorem length_takeWhile_range {p : Nat → Bool} {m n : Nat} (hm : m ≤ n) (hall : ∀ i, i < m → p i = true)
    (hstop : m < n → p m = false) : ((List.range n).takeWhile p).length = m := by
  obtain ⟨k, rfl⟩ := Nat.exists_eq_add_of_le hm
  rw [List.range_add, List.takeWhile_append_of_pos fun i hi => hall i (List.mem_range.1 hi)]
  cases k with
  | zero => simp
  | succ k => simp [List.range_succ_eq_map, hstop (by omega)]

/-- The longest access takes the first word and those that join it (R156). -/
theorem accessLength_cons (a : Nat) (as : List Nat) : accessLength (a :: as) = joining a 1 as + 1 := by
  obtain ⟨hl, h8, hc, hnext⟩ := joining_spec a 1 as (by omega)
  refine length_takeWhile_range (by simp; omega) (fun i hi => ?_) fun hlt => ?_
  · cases i with
    | zero => simp
    | succ i => simpa using hc i (by omega)
  · simp only [List.length_cons, lt_min_iff] at hlt
    simpa using hnext (by omega) (by omega)

/-- The longest access and those after it are the fewest (R156). -/
theorem accesses_longest {as : List Nat} (h : as ≠ []) : accesses as = accesses (as.drop (accessLength as)) + 1 := by
  obtain ⟨a, as, rfl⟩ := List.exists_cons_of_ne_nil h
  rw [accessLength_cons, List.drop_succ_cons, accesses, accessesAfter_eq]

/-- An access that could be longer leaves as many accesses to make as the longest, or more (R156). -/
theorem accesses_shorter {as : List Nat} (h : as ≠ []) {k : Nat} (hk : k ≤ accessLength as) :
    accesses as ≤ accesses (as.drop k) + 1 := by
  have hdrop := accesses_drop_le (accessLength as - k) (as.drop k)
  rw [List.drop_drop, Nat.add_sub_cancel' hk] at hdrop
  rw [accesses_longest h]
  omega

/-! ### A reading -/

theorem ask_eq_min {addrs : List Nat} {r : Reading} {n : Nat} (hn : 0 < n) :
    (r.ask addrs n).asked = min n (accessLength (addrs.drop r.words)) := by
  simp only [Reading.ask, Nat.max_eq_right hn]

/-- The words of a request lie one after another (R156). -/
theorem ask_consecutive {addrs : List Nat} {r : Reading} {n i : Nat} (hi : i < (r.ask addrs n).asked) :
    addrs.getD (r.words + i) 0 = addrs.getD r.words 0 + 8 * i := by
  have h := accessLength_consecutive (lt_of_lt_of_le hi (Nat.min_le_right _ _))
  simpa [List.getD_eq_getElem?_getD, List.headD_eq_head?_getD, List.head?_drop] using h

/-- A grant notes an error where one of the words it reads has one (R155). -/
theorem granted_failed_eq_none {addrs : List Nat} {s : State} {r : Reading} (hf : r.failed = none)
    (hl : r.words + r.asked ≤ addrs.length) : (r.granted addrs s).failed = none ↔
      ∀ i, i < r.asked → s.badWords.contains (addrs.getD (r.words + i) 0 / 8) = false := by
  have hlen : ((addrs.drop r.words).take r.asked).length = r.asked := by
    rw [List.length_take, List.length_drop]
    omega
  simp only [Reading.granted, hf, Option.none_or, Option.map_eq_none_iff, List.findIdx?_eq_none_iff]
  have hword {i : Nat} (hi : i < r.asked) : ((addrs.drop r.words).take r.asked)[i]'(by omega) =
      addrs.getD (r.words + i) 0 := by
    rw [List.getElem_take, List.getElem_drop, List.getD_eq_getElem _ _ (by omega)]
  constructor
  · exact fun h i hi => hword hi ▸ h _ (List.getElem_mem _)
  · intro h a ha
    obtain ⟨i, hi, rfl⟩ := List.getElem_of_mem ha
    rw [hlen] at hi
    exact hword hi ▸ h i hi

/-- How many requests a request's grant leaves (R156). -/
theorem requestsLeft_after_grant {addrs : List Nat} {s : State} {r : Reading} {n : Nat} (h : r.words < addrs.length)
    (ha : r.asked = 0) : r.requestsLeft addrs ≤ ((r.ask addrs n).granted addrs s).requestsLeft addrs + 1 ∧
      (8 ≤ n → r.requestsLeft addrs = ((r.ask addrs n).granted addrs s).requestsLeft addrs + 1) := by
  have hne : addrs.drop r.words ≠ [] := by simpa using h
  have hleft : r.requestsLeft addrs = accesses (addrs.drop r.words) := by simp [Reading.requestsLeft, ha]
  have hgranted : ((r.ask addrs n).granted addrs s).requestsLeft addrs =
      accesses ((addrs.drop r.words).drop (r.ask addrs n).asked) := by
    simp [Reading.requestsLeft, List.drop_drop]
  rw [hleft, hgranted]
  refine ⟨accesses_shorter hne (Nat.min_le_right _ _), fun h8 => ?_⟩
  have hlongest : (r.ask addrs n).asked = accessLength (addrs.drop r.words) := by
    have := (accessLength_le (addrs.drop r.words)).1
    simp only [Reading.ask]
    omega
  rw [hlongest]
  exact accesses_longest hne

/-! ### A row not begun -/

theorem spanAddrs_ne_nil {f : Nat} {p : Page} {tx y : Nat} {src : SpanSource} (h : src.reads = true) :
    spanAddrs f p tx y src ≠ [] := by
  have words (a : Nat) : wordsOver a 32 ≠ [] := by
    simp [wordsOver]
  cases src with
  | hatch => cases h
  | patch n => simp [spanAddrs, spanReads, words]
  | page photo => cases photo <;> simp [spanAddrs, spanReads, words]

/-- A row not begun takes a request for every span that reads memory, at the least (R99, R156). -/
theorem reads_le_rowAccesses {s : State} {c : Latched} {p : Page} (hp : s.page c.ctx.frame = some p)
    (hc : c.row = []) :
    ((List.range c.ctx.tw).countP fun tx => (spanSource s c.ctx.frame p tx (c.composed / 256)).reads) ≤
      rowAccesses s c := by
  have hrow : wholeRow s c p = (List.range c.ctx.tw).map fun tx => lookUpSpan s c.ctx.frame p tx c.composed := by
    simp [wholeRow, hc]
  have hreq : spanRequests s c p = (List.range c.ctx.tw).map fun tx =>
      accesses (spanAddrs c.ctx.frame p tx c.composed (spanSource s c.ctx.frame p tx (c.composed / 256))) := by
    rw [spanRequests, hrow]
    refine List.ext_getElem (by simp) fun tx _ _ => ?_
    simp [Reading.requestsLeft, rowAddrs, lookUpSpan, Reading.start]
  simp only [rowAccesses, hp, hreq]
  generalize List.range c.ctx.tw = txs
  induction txs with
  | nil => simp
  | cons tx txs ih =>
    rw [List.map_cons, List.sum_cons, List.countP_cons]
    split
    · next h =>
      have := Nat.pos_of_ne_zero (mt accesses_eq_zero.1 (spanAddrs_ne_nil (f := c.ctx.frame) (p := p) (tx := tx)
        (y := c.composed) h))
      omega
    · omega

end Sys2Proof.Machine
end

section
/-! ## The turns of the lanes at the memory port, and requests granted one after another -/

namespace Sys2Proof.Machine

/-! ### Rotation -/

/-- How many lanes come before a lane in the rotation after the lane last granted (R156). -/
def turnAfter (last l : LaneId) : Nat := (l.val + 3 - last.val) % 4

/-- The lane last granted comes last (R156). -/
theorem turnAfter_last {l k : LaneId} (h : k ≠ l) : turnAfter l k < turnAfter l l := by
  revert l k
  decide

theorem rotation_sorted (last : LaneId) :
    (rotation last).Pairwise fun l k => turnAfter last l < turnAfter last k := by
  revert last
  decide

theorem mem_rotation (last l : LaneId) : l ∈ rotation last := by
  revert last l
  decide

/-- In a list sorted by a measure, the first that has a property is the one of least measure that has it. -/
theorem find?_eq_some_of_sorted {α : Type} {f : α → Nat} {p : α → Bool} {xs : List α}
    (hs : xs.Pairwise fun a b => f a < f b) {a : α} :
    xs.find? p = some a ↔ a ∈ xs ∧ p a = true ∧ ∀ b ∈ xs, p b = true → f a ≤ f b := by
  induction xs with
  | nil => simp
  | cons x xs ih =>
    obtain ⟨hx, hs⟩ := List.pairwise_cons.1 hs
    by_cases hp : p x = true
    · rw [List.find?_cons_of_pos hp, Option.some.injEq]
      constructor
      · rintro rfl
        refine ⟨List.mem_cons_self, hp, fun b hb _ => ?_⟩
        rcases List.mem_cons.1 hb with rfl | hb
        · exact le_refl _
        · exact (hx b hb).le
      · rintro ⟨ha, -, hmin⟩
        rcases List.mem_cons.1 ha with rfl | ha
        · rfl
        · exact absurd (hmin x List.mem_cons_self hp) (Nat.not_le.2 (hx a ha))
    · rw [List.find?_cons_of_neg hp, ih hs]
      have later {b : α} (hb : b ∈ x :: xs) (hpb : p b = true) : b ∈ xs :=
        (List.mem_cons.1 hb).resolve_left fun e => hp (e ▸ hpb)
      exact ⟨fun ⟨ha, hpa, hmin⟩ => ⟨List.mem_cons_of_mem x ha, hpa, fun b hb hpb => hmin b (later hb hpb) hpb⟩,
        fun ⟨ha, hpa, hmin⟩ => ⟨later ha hpa, hpa, fun b hb => hmin b (List.mem_cons_of_mem x hb)⟩⟩

/-- Of the lanes that wait, the rotation finds the first after the lane last granted (R156). -/
theorem rotate_eq_some {last l : LaneId} {w : List LaneId} :
    rotate last w = some l ↔ l ∈ w ∧ ∀ k ∈ w, turnAfter last l ≤ turnAfter last k := by
  rw [rotate, find?_eq_some_of_sorted (rotation_sorted last)]
  simp [mem_rotation]

/-! ### Grants to lane composers -/

/-- The lane last granted in the class of a lane composer (R156). -/
def State.lastOf (s : State) (l : LaneId) : LaneId := if composerClass s l = 1 then s.arbLast1 else s.arbLast4

/-- In the class of a lane composer the first lane after the one last granted is granted (R156). -/
theorem grantInClass_composer {s : State} {l : LaneId} {w : List Requester} :
    grantInClass s (composerClass s l) w = some (.composer l) ↔ .composer l ∈ w ∧
      ∀ k, .composer k ∈ w → composerClass s k = composerClass s l →
        turnAfter (s.lastOf l) l ≤ turnAfter (s.lastOf l) k := by
  have hgrant : grantInClass s (composerClass s l) w =
      (rotate (s.lastOf l) (lanesOfClass s (composerClass s l) w)).map .composer := by
    unfold grantInClass State.lastOf
    rcases composerClass_cases s l with h | h <;> simp [h]
  rw [hgrant, Option.map_eq_some_iff]
  simp only [Requester.composer.injEq, exists_eq_right, rotate_eq_some, mem_lanesOfClass, and_true, and_imp]

/-- When the arbiter grants a lane composer's request (R156). -/
theorem arbiterGrant_composer {s : State} {l : LaneId} {w : List Requester} :
    arbiterGrant s w = some (.composer l) ↔ (∀ q ∈ w, composerClass s l ≤ requestClass s q) ∧ .composer l ∈ w ∧
      ∀ k, .composer k ∈ w → composerClass s k = composerClass s l →
        turnAfter (s.lastOf l) l ≤ turnAfter (s.lastOf l) k :=
  arbiterGrant_eq_some.trans (and_congr_right fun _ => grantInClass_composer)

/-- When a lane composer's request, which waits or arrives now, is granted before every other (R156). -/
theorem grants_composer {s : State} {l : LaneId} : s.grants (.composer l) = true ↔
    (∀ q ∈ s.requests, composerClass s l ≤ requestClass s q) ∧
      ∀ k, .composer k ∈ s.requests → composerClass s k = composerClass s l →
        turnAfter (s.lastOf l) l ≤ turnAfter (s.lastOf l) k := by
  unfold State.grants
  rw [beq_iff_eq, arbiterGrant_composer]
  by_cases hm : .composer l ∈ s.requests
  · rw [if_pos (by simpa using hm)]
    simp [hm]
  · rw [if_neg (by simpa using hm)]
    simp [or_imp, forall_and, requestClass]

/-- The arbiter grants a request that waits, where any does (R156). -/
theorem arbiterGrant_isSome {s : State} {w : List Requester} (h : w ≠ []) : ∃ r, arbiterGrant s w = some r := by
  obtain ⟨q, hq⟩ := List.exists_mem_of_ne_nil w h
  exact Option.isSome_iff_exists.1
    (List.findSome?_isSome_iff.2 ⟨_, requestClass_mem s q, grantInClass_isSome hq⟩)

theorem arbiterGrant_mem {s : State} {w : List Requester} {r : Requester} (h : arbiterGrant s w = some r) : r ∈ w :=
  (grantInClass_mem (arbiterGrant_eq_some.1 h).2).1

/-- Where one request goes before all others that wait, the arbiter grants it (R156). -/
theorem arbiterGrant_of_first {s : State} {w : List Requester} {r : Requester} (hr : r ∈ w)
    (h : ∀ q ∈ w, q = r ∨ requestClass s r < requestClass s q) : arbiterGrant s w = some r := by
  obtain ⟨g, hg⟩ := arbiterGrant_isSome (s := s) (List.ne_nil_of_mem hr)
  rcases h g (arbiterGrant_mem hg) with rfl | hlt
  · exact hg
  · exact absurd ((arbiterGrant_eq_some.1 hg).1 r hr) (Nat.not_le.2 hlt)

/-! ### Several requests of one requester -/

/-- No other request of a requester's class or of a higher one waits (R156). -/
def State.goesFirst (s : State) (r : Requester) : Prop :=
  ∀ q ∈ s.requests, q = r ∨ requestClass s r < requestClass s q

theorem grants_of_goesFirst {s : State} {r : Requester} (h : s.goesFirst r) : s.grants r = true := by
  unfold State.grants
  rw [beq_iff_eq]
  by_cases hm : r ∈ s.requests
  · rw [if_pos (by simpa using hm)]
    exact arbiterGrant_of_first hm h
  · rw [if_neg (by simpa using hm)]
    refine arbiterGrant_of_first (by simp) fun q hq => ?_
    rcases List.mem_append.1 hq with hq | hq
    · exact h q hq
    · exact .inl (List.mem_singleton.1 hq)

theorem grantsRun_zero (s : State) (r : Requester) : s.grantsRun r 0 = true := rfl

theorem grantsRun_one (s : State) (r : Requester) : s.grantsRun r 1 = s.grants r := by simp [State.grantsRun]

/-- Two requests or more are granted one after another where no other of the class or of a higher one waits (R156). -/
theorem grantsRun_more {s : State} {r : Requester} (n : Nat) : s.grantsRun r (n + 2) = true ↔ s.goesFirst r := by
  have h : s.grantsRun r (n + 2) = true ↔ s.grants r = true ∧ s.goesFirst r := by
    simp [State.grantsRun, State.goesFirst]
  rw [h, and_iff_right_of_imp grants_of_goesFirst]

/-- A lane composer goes first where no lane of its class waits beside it, and none of a higher class does (R156). -/
theorem goesFirst_composer {s : State} {l : LaneId} : s.goesFirst (.composer l) ↔
    (∀ q ∈ s.requests, composerClass s l ≤ requestClass s q) ∧
      ∀ k, .composer k ∈ s.requests → composerClass s k = composerClass s l → k = l := by
  constructor
  · refine fun h => ⟨fun q hq => ?_, fun k hk hc => ?_⟩
    · rcases h q hq with rfl | hlt
      · exact le_refl _
      · exact hlt.le
    · rcases h _ hk with hkl | hlt
      · exact Requester.composer.inj hkl
      · exact absurd hc hlt.ne'
  · rintro ⟨hmin, hone⟩ q hq
    by_cases hc : requestClass s q = composerClass s l
    · obtain ⟨k, rfl⟩ := composer_of_class (hc ▸ composerClass_cases s l)
      exact .inl (congrArg _ (hone k hq hc))
    · exact .inr (lt_of_le_of_ne (hmin q hq) (Ne.symm hc))

/-- The state with a requester's next request arrived behind those that wait (R156). -/
def State.asksAgain (s : State) (r : Requester) : State :=
  { s with waiting := s.waiting.filter (· != r) ++ [r] }

theorem mem_requests_asksAgain {s : State} {r q : Requester} :
    q ∈ (s.asksAgain r).requests ↔ q = r ∨ q ∈ s.requests := by
  rw [mem_requests, mem_requests]
  by_cases hq : q = r <;> simp [State.asksAgain, hq]

/-- Whether a requester goes first does not go by its own requests. -/
theorem goesFirst_asksAgain {s : State} {r : Requester} : (s.asksAgain r).goesFirst r ↔ s.goesFirst r := by
  have hclass (q : Requester) : requestClass (s.asksAgain r) q = requestClass s q := by cases q <;> rfl
  simp only [State.goesFirst, mem_requests_asksAgain, hclass]
  exact ⟨fun h q hq => h q (.inr hq), fun h q hq => hq.elim .inl (h q)⟩

/-- Several requests are granted one after another where the first is, and the others once it has run (R156). -/
theorem grantsRun_succ {s u : State} {r : Requester} (hfirst : u.goesFirst r ↔ s.goesFirst r)
    (hlast : u.grants r = true → u.goesFirst r) (n : Nat) :
    s.grantsRun r (n + 2) = (s.grants r && u.grantsRun r (n + 1)) := by
  have hu : u.grantsRun r (n + 1) = true ↔ s.goesFirst r := by
    rw [← hfirst]
    cases n with
    | zero => rw [grantsRun_one]; exact ⟨hlast, grants_of_goesFirst⟩
    | succ n => exact grantsRun_more n
  rw [Bool.eq_iff_iff, Bool.and_eq_true, hu, grantsRun_more]
  exact (and_iff_right_of_imp grants_of_goesFirst).symm

theorem requestClass_grantLane (l : LaneId) (s : State) (q : Requester) :
    requestClass (grantLane l s) q = requestClass s q := by
  cases q with
  | composer k => exact composerClass_congr (grantLane_lanes l k s) (grantLane_profile l s)
  | _ => rfl

theorem mem_waiting_grantLane {l : LaneId} {s : State} {q : Requester} :
    q ∈ (grantLane l s).waiting ↔ q ∈ s.waiting ∧ q ≠ .composer l := by
  have h : (grantLane l s).waiting = s.waiting.filter (· != .composer l) := by
    unfold grantLane noteGrant
    split <;> rfl
  simp [h]

/-- After its grant a lane is the one last granted in its class (R156). -/
theorem lastOf_grantLane (l : LaneId) (s : State) : (grantLane l s).lastOf l = l := by
  have hc : composerClass (grantLane l s) l = composerClass s l := requestClass_grantLane l s (.composer l)
  unfold State.lastOf
  rw [hc]
  unfold grantLane noteGrant
  split <;> rfl

/-- A lane composer's next request, once one has been granted, is granted where it goes first: its class's rotation
begins after it (R156). -/
theorem grantsRun_composer_succ (s : State) (l : LaneId) (n : Nat) : s.grantsRun (.composer l) (n + 2) =
    (s.grants (.composer l) && ((grantLane l s).asksAgain (.composer l)).grantsRun (.composer l) (n + 1)) := by
  refine grantsRun_succ (goesFirst_asksAgain.trans ?_) (fun h => ?_) n
  · simp only [State.goesFirst, mem_requests, grantLane_lander, mem_waiting_grantLane, requestClass_grantLane]
    refine forall_congr' fun q => ?_
    by_cases hq : q = .composer l <;> simp [hq]
  · obtain ⟨hmin, hturn⟩ := grants_composer.1 h
    refine goesFirst_composer.2 ⟨hmin, fun k hk hc => ?_⟩
    by_contra hkl
    have hlast : ((grantLane l s).asksAgain (.composer l)).lastOf l = l := lastOf_grantLane l s
    have := hturn k hk hc
    rw [hlast] at this
    exact absurd (turnAfter_last hkl) (Nat.not_lt.2 this)

/-- The Unpacker's next request arrives behind the profile loader's (R156). -/
theorem grantsRun_unpacker_succ (s : State) (n : Nat) : s.grantsRun .unpacker (n + 2) =
    (s.grants .unpacker && (s.asksAgain .unpacker).grantsRun .unpacker (n + 1)) := by
  refine grantsRun_succ goesFirst_asksAgain (fun h => ?_) n
  obtain ⟨hmin, hidx⟩ := grants_unpacker.1 h
  have hloader : .profileLoader ∉ (s.asksAgain .unpacker).requests := by
    intro hm
    have hreq : (s.asksAgain .unpacker).requests =
        (landerRequest s ++ s.waiting.filter (· != .unpacker)) ++ [.unpacker] :=
      (List.append_assoc _ _ _).symm
    rw [hreq] at hm hidx
    have hu : .unpacker ∉ landerRequest s ++ s.waiting.filter (· != .unpacker) := by
      unfold landerRequest
      split <;> simp
    have hm' : .profileLoader ∈ landerRequest s ++ s.waiting.filter (· != .unpacker) := by simpa using hm
    rw [List.idxOf_append_of_notMem hu, List.idxOf_append_of_mem hm'] at hidx
    have := List.idxOf_lt_length_of_mem hm'
    omega
  intro q hq
  by_cases h5 : requestClass (s.asksAgain .unpacker) q = 5
  · exact (requestClass_eq_five.1 h5).imp_right fun hp => absurd (hp ▸ hq) hloader
  · exact .inr (lt_of_le_of_ne (hmin q hq) (Ne.symm h5))

end Sys2Proof.Machine
end

section
/-! ## The grant to a host request -/

namespace Sys2Proof.Machine

/-! ### Lanes granted one after another -/

/-- The words a grant reads go by the pages and memory's errors alone. -/
theorem rowGranted_congr {s t : State} (hp : t.pages = s.pages) (hb : t.badWords = s.badWords) :
    rowGranted t = rowGranted s := by
  have hpage : t.page = s.page := funext fun f => by rw [State.page, State.page, hp]
  have hbad : t.bad = s.bad := funext fun a => by rw [State.bad, State.bad, hb]
  funext c
  simp only [rowGranted, Reading.granted, hpage, hbad]

theorem rowsRead_congr {s t : State} (hp : t.pages = s.pages) (hb : t.badWords = s.badWords) :
    Lane.rowsRead t = Lane.rowsRead s := by
  funext L
  simp only [Lane.rowsRead, rowGranted_congr hp hb]

theorem grantLane_lane (l : LaneId) (s : State) : (grantLane l s).lane l = Lane.rowsRead s (s.lane l) := by
  rw [grantLane, lane_modLane]
  exact congrArg _ (lane_of_lanes (noteGrant_lanes l s) l)

theorem grantLane_lane_ne {l k : LaneId} (h : k ≠ l) (s : State) : (grantLane l s).lane k = s.lane k := by
  rw [grantLane, lane_modLane_ne _ _ h]
  exact lane_of_lanes (noteGrant_lanes l s) k

/-- A grant in class 1 is remembered by it (R156). -/
theorem grantLane_arbLast1 {l : LaneId} {s : State} (h : composerClass s l = 1) : (grantLane l s).arbLast1 = l := by
  simp only [grantLane, noteGrant, if_pos h]
  rfl

/-- What grants to lanes of class 1, one after another, make of a state (R156). -/
structure LanesGranted (ls : List LaneId) (s t : State) : Prop where
  lane : ∀ l, t.lane l = if l ∈ ls then Lane.rowsRead s (s.lane l) else s.lane l
  waiting : ∀ q, q ∈ t.waiting ↔ q ∈ s.waiting ∧ ∀ l ∈ ls, q ≠ .composer l
  last : t.arbLast1 = ls.getLast?.getD s.arbLast1

theorem lanesGranted_foldl {ls : List LaneId} (hn : ls.Nodup) {s : State} (hc : ∀ l ∈ ls, composerClass s l = 1) :
    LanesGranted ls s (ls.foldl (fun t l => grantLane l t) s) := by
  induction ls generalizing s with
  | nil => exact ⟨fun _ => rfl, fun q => by simp, rfl⟩
  | cons l ls ih =>
    obtain ⟨hl, hn⟩ := List.nodup_cons.1 hn
    obtain ⟨hlane, hwaiting, hlast⟩ := ih hn (s := grantLane l s) fun k hk =>
      (requestClass_grantLane l s (.composer k)).trans (hc k (List.mem_cons_of_mem l hk))
    refine ⟨fun k => ?_, fun q => ?_, ?_⟩
    · rw [List.foldl_cons, hlane, rowsRead_congr (grantLane_pages l s) (grantLane_badWords l s)]
      by_cases hk : k = l
      · subst hk
        rw [if_neg hl, if_pos List.mem_cons_self, grantLane_lane]
      · simp only [grantLane_lane_ne hk, List.mem_cons, hk, false_or]
    · rw [List.foldl_cons, hwaiting, mem_waiting_grantLane, List.forall_mem_cons, and_assoc]
    · rw [List.foldl_cons, hlast, grantLane_arbLast1 (hc l List.mem_cons_self)]
      cases ls using List.reverseRecOn with
      | nil => rfl
      | append_singleton ks k => simp [List.getLast?_cons]

/-! ### The lanes of class 1 that wait -/

theorem mem_lanesFirst {s : State} {l : LaneId} :
    l ∈ lanesFirst s ↔ .composer l ∈ s.requests ∧ composerClass s l = 1 := by
  rw [lanesFirst, List.mem_filter, and_iff_right (mem_rotation _ _), List.contains_iff_mem, mem_lanesOfClass]

theorem lanesFirst_sorted (s : State) :
    (lanesFirst s).Pairwise fun l k => turnAfter s.arbLast1 l < turnAfter s.arbLast1 k :=
  (rotation_sorted _).filter _

theorem lanesFirst_nodup (s : State) : (lanesFirst s).Nodup :=
  (lanesFirst_sorted s).imp fun h e => by simp [e] at h

theorem composer_mem_requests {s : State} {l : LaneId} : .composer l ∈ s.requests ↔ .composer l ∈ s.waiting := by
  rw [mem_requests]
  simp

theorem requestClass_foldl_grantLane (ls : List LaneId) (s : State) (q : Requester) :
    requestClass (ls.foldl (fun t l => grantLane l t) s) q = requestClass s q := by
  induction ls generalizing s with
  | nil => rfl
  | cons l ls ih => rw [List.foldl_cons, ih, requestClass_grantLane]

/-- The last of a list sorted by a measure has the greatest. -/
theorem le_getLast_of_sorted {α : Type} {f : α → Nat} {xs : List α} (hs : xs.Pairwise fun a b => f a < f b) {a : α}
    (ha : a ∈ xs) (d : α) : xs.getLast?.getD d ∈ xs ∧ f a ≤ f (xs.getLast?.getD d) := by
  cases xs using List.reverseRecOn with
  | nil => cases ha
  | append_singleton xs z =>
    have hz : (xs ++ [z]).getLast?.getD d = z := by simp
    rw [hz]
    refine ⟨by simp, ?_⟩
    rcases List.mem_append.1 ha with ha | ha
    · exact ((List.pairwise_append.1 hs).2.2 a ha z (by simp)).le
    · exact (congrArg f (List.mem_singleton.1 ha)).le

theorem portGrant_lane (s : State) (l : LaneId) : (portGrant s).lane l =
    if .composer l ∈ s.requests ∧ composerClass s l = 1 then Lane.rowsRead s (s.lane l) else s.lane l := by
  have h := (lanesGranted_foldl (lanesFirst_nodup s) fun _ => lanesFirst_class).lane l
  simp only [mem_lanesFirst] at h
  exact h

/-- Of the requests that wait those of classes 1 and 2 leave with a host request's grant (R156). -/
theorem mem_waiting_portGrant {s : State} {q : Requester} :
    q ∈ (portGrant s).waiting ↔ q ∈ s.waiting ∧ 2 < requestClass s q := by
  have h := (lanesGranted_foldl (lanesFirst_nodup s) fun _ => lanesFirst_class).waiting q
  simp only [portGrant, portTaken, List.mem_filter, h, requestClass_foldl_grantLane, and_assoc]
  refine and_congr_right fun hq => ?_
  have hone : (∀ l ∈ lanesFirst s, q ≠ .composer l) ↔ requestClass s q ≠ 1 := by
    constructor
    · intro h h1
      obtain ⟨l, rfl⟩ := composer_of_class (.inl h1)
      exact h l (mem_lanesFirst.2 ⟨composer_mem_requests.2 hq, h1⟩) rfl
    · rintro h l hl rfl
      exact h (mem_lanesFirst.1 hl).2
  have hrange := requestClass_mem s q
  simp only [List.mem_cons, List.not_mem_nil, or_false] at hrange
  rw [hone, bne_iff_ne]
  omega

theorem portGrant_arbLast1 (s : State) : (portGrant s).arbLast1 = (lanesFirst s).getLast?.getD s.arbLast1 :=
  (lanesGranted_foldl (lanesFirst_nodup s) fun _ => lanesFirst_class).last

end Sys2Proof.Machine
end

section
/-! ## A row composed without an error -/

namespace Sys2Proof.Machine

/-! ### When a row ends -/

/-- When the requests that a lane's row still takes are granted one after another (R156): its only one by the rotation,
and several where no other lane of the class waits. -/
theorem grantsRun_composer {s : State} {l : LaneId} {n : Nat} : s.grantsRun (.composer l) n = true ↔ n = 0 ∨
    (∀ q ∈ s.requests, composerClass s l ≤ requestClass s q) ∧
      ∀ k, .composer k ∈ s.requests → composerClass s k = composerClass s l →
        k = l ∨ n = 1 ∧ turnAfter (s.lastOf l) l ≤ turnAfter (s.lastOf l) k := by
  match n with
  | 0 => simp [grantsRun_zero]
  | 1 =>
    rw [grantsRun_one, grants_composer]
    simp only [Nat.one_ne_zero, false_or, true_and]
    refine and_congr_right fun _ => forall_congr' fun k => forall_congr' fun _ => forall_congr' fun _ => ?_
    exact ⟨.inr, fun h => h.elim (fun e => e ▸ le_refl _) id⟩
  | n + 2 =>
    rw [grantsRun_more, goesFirst_composer]
    simp

/-- LANE_ROW_COMPOSED of a row whose requests wait (R156). -/
theorem exec_laneRowComposed_waits {s : State} {l : LaneId} {m : RowMark} {c : Latched} (he : s.engine = .active)
    (hb : (s.lane l).buffer.length < s.highWater l) (hc : composing (s.lane l) = some (m, c))
    (hg : s.grantsRun (.composer l) (rowRequestsLeft s l c) = false) :
    exec (.laneRowComposed l) s = .next s := by
  have hrow : rowInHand s l = some (m, c) := by rw [rowInHand, if_pos ⟨he, hb⟩, hc]
  refine congrArg Host.Outcome.next ?_
  simp [rowComposed, hrow, rowWaits, hg]

/-! ### The bytes of a row -/

/-- The bytes of a row whose spans meet no error (R98, R99). -/
def cleanRow (s : State) (c : Context) (p : Page) (y : Nat) (row : List SpanWork) (n : Nat) : List Byte :=
  (List.range n).flatMap fun tx => spanBytes s c p (row.getD tx (lookUpSpan s c.frame p tx y)).source tx y

/-- Lists of one length put together hold theirs one after another. -/
theorem getD_flatMap_range {α : Type} {g : Nat → List α} {k n : Nat} (hg : ∀ i, (g i).length = k) {i j : Nat}
    (hi : i < n) (hj : j < k) (d : α) : ((List.range n).flatMap g).getD (k * i + j) d = (g i).getD j d := by
  have hlen (m : Nat) : ((List.range m).flatMap g).length = k * m := by
    simp [List.length_flatMap, hg, Nat.mul_comm]
  obtain ⟨m, rfl⟩ := Nat.exists_eq_add_of_lt hi
  have hsplit : List.range (i + m + 1) = List.range i ++ i :: (List.range m).map (fun x => i + (x + 1)) := by
    rw [show i + m + 1 = i + (m + 1) by omega, List.range_add, List.range_succ_eq_map, List.map_cons, List.map_map]
    rfl
  rw [hsplit, List.flatMap_append, List.flatMap_cons, List.getD_append_right _ _ _ _ (by rw [hlen]; omega), hlen,
    Nat.add_sub_cancel_left, List.getD_append _ _ _ _ (by rw [hg]; exact hj)]

theorem spanBytes_length (s : State) (c : Context) (p : Page) (src : SpanSource) (tx y : Nat) :
    (spanBytes s c p src tx y).length = 32 := by simp [spanBytes]

theorem cleanRow_length (s : State) (c : Context) (p : Page) (y : Nat) (row : List SpanWork) (n : Nat) :
    (cleanRow s c p y row n).length = 32 * n := by
  simp [cleanRow, List.length_flatMap, spanBytes_length, Nat.mul_comm]

/-- Each bit of a row is the composed pixel from its span's lookup (R98, R99, R105). -/
theorem cleanRow_pixel (s : State) (c : Context) (p : Page) (y : Nat) (row : List SpanWork) {n tx j b : Nat}
    (ht : tx < n) (hj : j < 32) (hb : b < 8) :
    ((cleanRow s c p y row n).getD (32 * tx + j) 0).getLsbD (7 - b) =
      composedPixel s c p (row.getD tx (lookUpSpan s c.frame p tx y)).source (tx * 256 + 8 * j + b) y := by
  rw [cleanRow, getD_flatMap_range (fun tx => spanBytes_length _ _ _ _ _ _) ht hj, spanBytes_pixel _ _ _ _ _ _ hj hb]

/-- A row whose spans meet no error is their bytes, and changes nothing (R107, R109). -/
theorem composeRow_clean {s : State} {c : Context} {p : Page} {y : Nat} {row : List SpanWork}
    (hp : s.page c.frame = some p) (he : ∀ tx, tx < c.tw → rowError s c p y row tx = none) :
    composeRow c y row s = ⟨s, cleanRow s c p y row c.tw, false⟩ := by
  have key : ∀ n, n ≤ c.tw →
      (List.range n).foldl (addSpan c y row) ⟨s, [], false⟩ = ⟨s, cleanRow s c p y row n, false⟩ := by
    intro n
    induction n with
    | zero => exact fun _ => rfl
    | succ n ih =>
      intro hn
      have hspan := composeSpan_of_none (he n hn)
      rw [List.range_succ, List.foldl_append, ih (by omega), List.foldl_cons, List.foldl_nil, addSpan]
      simp only [hp, hspan, raiseFlag?, cleanRow, List.range_succ, List.flatMap_append, List.flatMap_singleton]
      rfl
  exact key c.tw (le_refl _)

/-! ### The row placed -/

theorem noteRowGrant_eq (l : LaneId) (c : Latched) (s : State) : noteRowGrant l c s =
    { s with arbLast1 := (noteRowGrant l c s).arbLast1, arbLast4 := (noteRowGrant l c s).arbLast4
             waiting := (noteRowGrant l c s).waiting } := by
  unfold noteRowGrant noteGrant
  split
  · split <;> rfl
  · rfl

/-- The port once a row's last request is granted, if it takes one: the request waits no more, and its class remembers the
lane (R156). -/
theorem noteRowGrant_port (l : LaneId) (c : Latched) (s : State) :
    let t := noteRowGrant l c s
    t.waiting = (if 0 < rowAccesses s c then s.waiting.filter (· != .composer l) else s.waiting) ∧
      t.arbLast1 = (if 0 < rowAccesses s c ∧ composerClass s l = 1 then l else s.arbLast1) ∧
      t.arbLast4 = if 0 < rowAccesses s c ∧ composerClass s l = 4 then l else s.arbLast4 := by
  simp only [noteRowGrant, noteGrant]
  by_cases h0 : 0 < rowAccesses s c
  · rcases composerClass_cases s l with h | h <;> simp [h0, h, State.served]
  · simp [h0]

/-- A row completed without an error is placed and acted on (R107, R109). -/
theorem composeNext_clean {s : State} {l : LaneId} {c : Latched} {p : Page} (m : RowMark)
    (hp : s.page c.ctx.frame = some p)
    (he : ∀ tx, tx < c.ctx.tw → rowError s c.ctx p c.composed c.row tx = none) :
    composeNext l m c s = rowPlaced l m
      (placeRow l m c (cleanRow s c.ctx p c.composed c.row c.ctx.tw) (noteRowGrant l c s)) := by
  obtain ⟨-, hpages, hpatches, hbad, -⟩ := noteRowGrant_keeps l c s
  have hpage : (noteRowGrant l c s).page c.ctx.frame = some p := by rw [State.page, hpages]; exact hp
  have hbytes : cleanRow (noteRowGrant l c s) c.ctx p c.composed c.row c.ctx.tw =
      cleanRow s c.ctx p c.composed c.row c.ctx.tw := by
    rw [noteRowGrant_eq]
    rfl
  simp only [composeNext]
  rw [composeRow_clean hpage fun tx ht => (congrFun (rowError_congr hbad hpatches c.ctx p c.composed c.row) tx).trans
    (he tx ht), hbytes]
  rfl

/-- A context once its row is composed (R107). -/
def Latched.rowDone (c : Latched) : Latched := { c with composed := c.composed + 1, row := [] }

/-- A lane with a front row at the end of its buffer. -/
def Lane.withFrontRow (L : Lane) (c : Latched) (bytes : List Byte) : Lane :=
  { L with buffer := L.buffer ++ [⟨.front, bytes⟩], frontCtx := some c.rowDone }

/-- A lane with a back row at the end of its buffer. -/
def Lane.withBackRow (L : Lane) (c : Latched) (bytes : List Byte) : Lane :=
  { L with buffer := L.buffer ++ [⟨.back, bytes⟩], backCtx := some c.rowDone }

theorem placeRow_front (l : LaneId) (c : Latched) (bytes : List Byte) (s : State) :
    placeRow l .front c bytes s = modLane l (fun L => L.withFrontRow c bytes) s := rfl

theorem placeRow_back (l : LaneId) (c : Latched) (bytes : List Byte) (s : State) :
    placeRow l .back c bytes s = modLane l (fun L => L.withBackRow c bytes) s := rfl

/-! ### A front row -/

/-- A front row placed while no row is owed stays in the buffer (R136). -/
theorem feedAll_none_owed {s : State} {l : LaneId} (h : (s.lane l).owed = 0) : feedAll l s = s := by
  rw [feedAll, h]
  rfl

/-- A lane with an empty buffer that has composed a row of the context `c` and sent it at once (R136). -/
def Lane.rowSent (L : Lane) (c : Latched) (bytes : List Byte) (now : Tick) : Lane :=
  { L with owed := L.owed - 1, sent := L.sent ++ [.row bytes], lastSent := now, frontCtx := some c.rowDone }

/-- The only row of a buffer sent (R136). -/
theorem Lane.fed_withFrontRow {L : Lane} (h : L.buffer = []) (c : Latched) (bytes : List Byte) (now : Tick) :
    (L.withFrontRow c bytes).fed 1 now = L.rowSent c bytes now := by
  cases L
  cases h
  rfl

/-- With no row left in the buffer, the last row is sent once all are composed (R138). -/
theorem lastRowSent_of_empty {L : Lane} {c : Latched} (hf : L.frontCtx = some c) (hb : L.buffer = []) :
    lastRowSent L = true ↔ c.ctx.th * 256 ≤ c.composed := by
  simp [lastRowSent, hf, hb, rowsOf]

/-- A front row placed in an empty buffer while rows are owed is sent at once, and FINISH follows the plate's last (R136,
R138). -/
theorem feedAll_placed {s : State} {l : LaneId} {q : Plate} (hq : (s.lane l).front = some q) (hs : q.state = .exposing)
    (hb : (s.lane l).buffer = []) (ho : 0 < (s.lane l).owed) (c : Latched) (bytes : List Byte) :
    feedAll l (modLane l (fun L => L.withFrontRow c bytes) s) =
      if c.ctx.th * 256 ≤ c.composed + 1 then finishFront l q (modLane l (fun L => L.rowSent c bytes s.clock) s)
      else modLane l (fun L => L.rowSent c bytes s.clock) s := by
  let v := modLane l (fun L => L.withFrontRow c bytes) s
  have hv : v.lane l = (s.lane l).withFrontRow c bytes := lane_modLane _ _ _
  have hrun : (v.lane l).frontRun = 1 := by
    rw [hv]
    simp [Lane.withFrontRow, Lane.frontRun, hb]
  have hm : min (v.lane l).owed (v.lane l).frontRun = 1 := by
    have : (v.lane l).owed = (s.lane l).owed := by rw [hv]; rfl
    omega
  have ht : modLane l (fun L => L.fed 1 v.clock) v = modLane l (fun L => L.rowSent c bytes s.clock) s := by
    simp only [v, modLane_modLane]
    exact modLane_congr (Lane.fed_withFrontRow hb _ _ _)
  have hlast : lastRowSent ((s.lane l).rowSent c bytes s.clock) = true ↔ c.ctx.th * 256 ≤ c.composed + 1 :=
    lastRowSent_of_empty (c := c.rowDone) rfl hb
  have hfeed := feed_eq hs (v.lane l).owed (s := v) (by rw [hv]; exact hq) rfl
  simp only [hm, ht, lane_modLane, hlast, Nat.one_pos, true_and] at hfeed
  exact hfeed

/-! ### A back row -/

theorem rowsOf_back_append (b : List BufferedRow) (bytes : List Byte) :
    (rowsOf .back (b ++ [⟨.back, bytes⟩])).length = (rowsOf .back b).length + 1 := by
  simp [rowsOf]

/-- A back row that does not fill the preload, or finds its lane not to start a plate, waits in the buffer (R134). -/
theorem tryStart_waits {s : State} {l : LaneId} {c : Latched} (hc : (s.lane l).backCtx = some c)
    (h : (s.lane l).mode ≠ .run ∨ (s.lane l).front ≠ none ∨ (s.lane l).drumReady = false ∨
      (rowsOf .back (s.lane l).buffer).length < min (s.preload l) (c.ctx.th * 256)) : tryStart l s = s := by
  refine tryStart_of_none (startReady_eq_none ?_)
  rcases h with h | h | h | h
  · exact .inl h
  · exact .inr (.inr (.inl h))
  · exact .inr (.inr (.inr (.inl h)))
  · exact .inr (.inr (.inr (.inr ⟨c, hc, h⟩)))

/-- A choice leaves the port alone. -/
theorem choose_port (l : LaneId) (s : State) : (choose l s).waiting = s.waiting ∧
    (choose l s).arbLast1 = s.arbLast1 ∧ (choose l s).arbLast4 = s.arbLast4 := by
  have h := apartFromChoices_choose l s
  exact ⟨(congrArg State.waiting h :), (congrArg State.arbLast1 h :), (congrArg State.arbLast4 h :)⟩

/-- A back row that fills the preload where its lane may start a plate: START, and the choice for the free back place
(R119, R134). -/
theorem tryStart_starts {s : State} {l : LaneId} {p : Plate} {c : Latched} (hq : QueuesSafe s)
    (hr : startReady s l = some (p, c)) :
    let t := tryStart l s
    (t.lane l).front = some { p with state := .exposing, returned := false } ∧
      (t.lane l).control = ((s.lane l).started p c s.clock).control ∧ OtherLanesKept l s t ∧
      t.waiting = s.waiting ∧ t.arbLast1 = s.arbLast1 ∧ t.arbLast4 = s.arbLast4 := by
  let v := modLane l (fun L => L.started p c s.clock) s
  have hv : QueuesSafe v := hq.started (startReady_eq_some.1 hr).2.2.2.1 p c
  rw [tryStart_of_ready hr]
  refine ⟨(choose_chosen (hv.ok l).tags).front.trans (started_front hq hr), ?_, fun k hk => ?_, choose_port l v⟩
  · exact (control_of_steady (choose_reacts l v).steady l).trans (congrArg Lane.control (lane_modLane _ _ _))
  · rw [choose_lane_ne hk, lane_modLane_ne _ _ hk]

/-- Settles O43: when the row ends, and what its placing brings about by whether rows are owed or a plate may start. -/
theorem composedRowEntersBuffer : Obligations.ComposedRowEntersBuffer := by
  intro s l c p he hp span herr hbuf hmore
  have hclean : ∀ tx, tx < c.ctx.tw → rowError s c.ctx p c.composed c.row tx = none := herr
  have hfrontRow (h : (s.lane l).frontCtx = some c) := composing_front h hmore
  have hbackRow (hf : ∀ d, (s.lane l).frontCtx = some d → d.ctx.th * 256 ≤ d.composed)
    (h : (s.lane l).backCtx = some c) := composing_back hf h hmore
  refine ⟨grantsRun_composer, fun hg hctx => ?_, fun hg => ?_⟩
  · rcases hctx with h | ⟨hf, h⟩
    · exact exec_laneRowComposed_waits he hbuf (hfrontRow h) hg
    · exact exec_laneRowComposed_waits he hbuf (hbackRow hf h) hg
  · let bytes := cleanRow s c.ctx p c.composed c.row c.ctx.tw
    let u := noteRowGrant l c s
    have hu : u = { s with arbLast1 := u.arbLast1, arbLast4 := u.arbLast4, waiting := u.waiting } :=
      noteRowGrant_eq l c s
    have hport := noteRowGrant_port l c s
    have hulane : ∀ k, u.lane k = s.lane k := lane_of_lanes (noteRowGrant_keeps l c s).1
    have row {m : RowMark} {t : State} (hc : composing (s.lane l) = some (m, c))
        (ht : rowPlaced l m (placeRow l m c bytes u) = t) : rowComposed l s = t := by
      have hx := exec_laneRowComposed he hbuf hc hg
      rw [composeNext_clean m hp hclean] at hx
      exact (Host.Outcome.next.inj hx).trans ht
    refine ⟨rowComposed l s, bytes, cleanRow_length _ _ _ _ _ _, fun tx j b ht hj hb =>
      cleanRow_pixel s c.ctx p c.composed c.row ht hj hb, ?_⟩
    intro reads granted put
    have hput {L : Lane} (h : rowComposed l s = modLane l (fun _ => L) u) : put L := by
      refine ⟨rfl, ?_, ?_⟩
      · simp only [granted, h]
        exact hport
      · rw [h]
        exact (congrArg (modLane l fun _ => L) hu).trans rfl
    have hlane {g : Lane → Lane} {L : Lane} (h : g (s.lane l) = L) : modLane l g u = modLane l (fun _ => L) u :=
      modLane_congr (by rw [hulane]; exact h)
    have hclock : u.clock = s.clock := (noteRowGrant_keeps l c s).2.2.2.2.2
    have hpreload : (modLane l (fun L => L.withBackRow c bytes) u).preload l = s.preload l :=
      preload_congr (congrArg State.profile hu :) l
    have hsent {q : Plate} (hq : (s.lane l).front = some q) (hs : q.state = .exposing) (hb : (s.lane l).buffer = [])
        (ho : 0 < (s.lane l).owed) := feedAll_placed (s := u) (l := l) (q := q) (by rw [hulane]; exact hq) hs
          (by rw [hulane]; exact hb) (by rw [hulane]; exact ho) c bytes
    refine ⟨fun hf ho => hput (row (hfrontRow hf) ?_), fun q hf hq hs hb ho hlast => hput (row (hfrontRow hf) ?_),
      fun q hf hq hs hb ho hlast => hput (row (hfrontRow hf) ?_), fun hf hb hwait => hput (row (hbackRow hf hb) ?_),
      fun q hqs hf hb hrun hnone hdrum hback hrows => ?_⟩
    · refine (feedAll_none_owed ?_).trans (hlane rfl)
      rw [placeRow_front, lane_modLane, hulane]
      exact ho
    · refine ((hsent hq hs hb ho).trans (if_neg (by omega))).trans (hlane ?_)
      rw [hclock]
      rfl
    · refine ((hsent hq hs hb ho).trans (if_pos (by omega))).trans ?_
      rw [finishFront_eq, modLane_modLane]
      refine hlane ?_
      rw [modLane_clock, hclock]
      simp only [Lane.rowSent, List.append_assoc]
      rfl
    · refine (tryStart_waits (c := c.rowDone) ?_ ?_).trans (hlane rfl)
      · rw [placeRow_back, lane_modLane]
        rfl
      · rw [placeRow_back, lane_modLane, hulane]
        exact hwait.imp_right fun h => h.imp_right fun h => h.imp_right fun h =>
          (rowsOf_back_append _ _).trans_lt (by rw [hpreload]; exact h)
    · let v := modLane l (fun L => L.withBackRow c bytes) u
      have hvlane : v.lane l = (s.lane l).withBackRow c bytes := by rw [lane_modLane, hulane]
      have hstart : startReady v l = some (q, c.rowDone) := by
        rw [startReady_eq_some, hvlane]
        refine ⟨hback, rfl, hrun, hnone, hdrum, ?_⟩
        rw [hpreload]
        exact hrows.trans_eq (rowsOf_back_append _ _).symm
      have hvq : QueuesSafe v := (hqs.of_lanes (noteRowGrant_keeps l c s).1).of_modLane_queue l _ rfl
      obtain ⟨hfront, hcontrol, hothers, hwaiting, hlast1, hlast4⟩ := tryStart_starts hvq hstart
      rw [hvlane] at hcontrol
      have ht : rowComposed l s = tryStart l v := row (hbackRow hf hb) rfl
      simp only [granted, ht]
      refine ⟨congrArg Host.Outcome.next ht, ⟨hwaiting.trans hport.1, hlast1.trans hport.2.1, hlast4.trans hport.2.2⟩,
        fun k hk => ?_, hfront, (congrArg Lane.sent hcontrol :), (congrArg Lane.drumReady hcontrol :),
        (congrArg Lane.owed hcontrol :), (congrArg Lane.frontCtx hcontrol :), (congrArg Lane.buffer hcontrol :)⟩
      rw [hothers k hk, lane_modLane_ne _ _ hk, hulane]

end Sys2Proof.Machine
end

section
/-! ## Rows and payloads that read on -/

namespace Sys2Proof.Machine

/-! ### A reading goes on -/

theorem Reading.GoesOn.refl (addrs : List Nat) (s : State) (r : Reading) : r.GoesOn addrs s r := ⟨0, by simp⟩

/-- Words read after others are read after both (R155, R156). -/
theorem Reading.GoesOn.trans {addrs : List Nat} {s : State} {a b c : Reading} (h : a.GoesOn addrs s b)
    (k : b.GoesOn addrs s c) : a.GoesOn addrs s c := by
  obtain ⟨n, hn, hf⟩ := h
  obtain ⟨m, hm, kf⟩ := k
  refine ⟨n + m, by omega, ?_⟩
  rw [kf, hf, hn, Option.or_assoc, ← List.drop_drop, List.take_add, List.findIdx?_append]
  congr 1
  by_cases hl : n ≤ (addrs.drop a.words).length
  · cases ((addrs.drop a.words).take n).findIdx? s.bad with
    | some i => simp
    | none =>
      rw [List.length_take, Nat.min_eq_left hl]
      simp [Function.comp_def, Nat.add_comm, Nat.add_left_comm]
  · simp [List.drop_eq_nil_of_le (Nat.le_of_not_le hl)]

theorem Reading.GoesOn.words_le {addrs : List Nat} {s : State} {a b : Reading} (h : a.GoesOn addrs s b) :
    a.words ≤ b.words := by
  obtain ⟨n, hn, -⟩ := h
  omega

theorem goesOn_ask (addrs : List Nat) (s : State) (n : Nat) (r : Reading) : r.GoesOn addrs s (r.ask addrs n) :=
  Reading.GoesOn.refl addrs s r

theorem goesOn_granted (addrs : List Nat) (s : State) (r : Reading) : r.GoesOn addrs s (r.granted addrs s) :=
  ⟨r.asked, rfl, rfl⟩

theorem ask_asked_le (addrs : List Nat) (n : Nat) (r : Reading) : (r.ask addrs n).asked ≤ 8 :=
  (Nat.min_le_right _ _).trans (accessLength_le _).1

/-- A reading that takes no more requests has none that waits. -/
theorem granted_of_requestsLeft {addrs : List Nat} {s : State} {r : Reading} (h : r.requestsLeft addrs = 0) :
    r.granted addrs s = r := by
  refine granted_of_none ?_
  by_contra hne
  rw [Reading.requestsLeft, if_neg hne] at h
  omega

/-! ### A row goes on -/

/-- The span of a tile column of a whole row: the one in composition, or one looked up now (R99). -/
theorem wholeRow_getElem? (s : State) (c : Latched) (p : Page) (tx : Nat) : (wholeRow s c p)[tx]? =
    if tx < c.row.length then c.row[tx]?
    else if tx < c.ctx.tw then some (lookUpSpan s c.ctx.frame p tx c.composed) else none := by
  rw [wholeRow, List.getElem?_append]
  split
  · rfl
  · next hlt =>
    rw [List.getElem?_map, List.getElem?_drop, Nat.add_sub_cancel' (Nat.le_of_not_lt hlt)]
    split
    · next h => rw [List.getElem?_range h, Option.map_some]
    · next h => rw [List.getElem?_eq_none (by simpa using h), Option.map_none]

theorem ctx_of_withoutRow {c d : Latched} (h : d.withoutRow = c.withoutRow) :
    d.ctx = c.ctx ∧ d.composed = c.composed :=
  ⟨(congrArg Latched.ctx h :), (congrArg Latched.composed h :)⟩

/-- Where a row goes on, so does each span of the whole row, those not yet looked up as their lookup answers (R99). -/
theorem Latched.GoesOn.wholeRow {p : Page} {s : State} {c d : Latched} (h : c.GoesOn p s d) {tx : Nat} {w' : SpanWork}
    (hw : (wholeRow s d p)[tx]? = some w') : ∃ w, (wholeRow s c p)[tx]? = some w ∧ w'.source = w.source ∧
      w.read.GoesOn (rowAddrs c p tx w) s w'.read := by
  obtain ⟨hrest, hlen, hspans⟩ := h
  obtain ⟨hctx, hcomp⟩ := ctx_of_withoutRow hrest
  rw [wholeRow_getElem?] at hw
  by_cases hd : tx < d.row.length
  · rw [if_pos hd] at hw
    exact hspans tx w' hw
  · rw [if_neg hd, hctx, hcomp] at hw
    exact ⟨w', by rw [wholeRow_getElem?, if_neg (by omega), hw], rfl, Reading.GoesOn.refl _ _ _⟩

theorem Latched.GoesOn.refl (p : Page) (s : State) (c : Latched) : c.GoesOn p s c := by
  refine ⟨rfl, le_refl _, fun tx w hw => ⟨w, ?_, rfl, Reading.GoesOn.refl _ _ _⟩⟩
  rw [wholeRow_getElem?, if_pos (List.getElem?_eq_some_iff.1 hw).1, hw]

theorem Latched.GoesOn.trans {p : Page} {s : State} {c d e : Latched} (h : c.GoesOn p s d) (k : d.GoesOn p s e) :
    c.GoesOn p s e := by
  refine ⟨k.1.trans h.1, h.2.1.trans k.2.1, fun tx w' hw => ?_⟩
  obtain ⟨hctx, hcomp⟩ := ctx_of_withoutRow h.1
  obtain ⟨v, hv, hsrc, hread⟩ := k.2.2 tx w' hw
  obtain ⟨w, hw, hsrc', hread'⟩ := h.wholeRow hv
  have haddrs : rowAddrs d p tx v = rowAddrs c p tx w := by rw [rowAddrs, rowAddrs, hctx, hcomp, hsrc']
  rw [haddrs] at hread
  exact ⟨w, hw, hsrc.trans hsrc', hread'.trans hread⟩

/-- A request for a row's next words looks its spans up, and reads nothing (R99). -/
theorem goesOn_rowAsks {s : State} {c : Latched} {p : Page} (hp : s.page c.ctx.frame = some p) (n : Nat) :
    c.GoesOn p s (rowAsks s n c) := by
  refine ⟨rowAsks_withoutRow s n c, ?_, fun tx w' hw => ?_⟩
  · simp only [rowAsks, hp, List.length_modify, List.length_take, wholeRow, List.length_append]
    omega
  · simp only [rowAsks, hp] at hw
    generalize (spanRequests s c p).findIdx _ = k at hw
    rw [List.getElem?_modify, Option.map_eq_map, Option.map_eq_some_iff] at hw
    obtain ⟨w, hrow, rfl⟩ := hw
    rw [List.getElem?_take] at hrow
    refine ⟨w, (Option.ite_none_right_eq_some.1 hrow).2, ?_⟩
    by_cases hk : k = tx
    · rw [if_pos hk, hk]
      exact ⟨rfl, goesOn_ask _ _ _ _⟩
    · rw [if_neg hk]
      exact ⟨rfl, Reading.GoesOn.refl _ _ _⟩

/-- A grant for a row reads the words asked for (R99, R156). -/
theorem goesOn_rowGranted {s : State} {c : Latched} {p : Page} (hp : s.page c.ctx.frame = some p) :
    c.GoesOn p s (rowGranted s c) := by
  refine ⟨rowGranted_withoutRow s c, ?_, fun tx w' hw => ?_⟩
  · simp [rowGranted, hp]
  · simp only [rowGranted, hp, List.getElem?_mapIdx] at hw
    obtain ⟨w, hrow, rfl⟩ := Option.map_eq_some_iff.1 hw
    exact ⟨w, by rw [wholeRow_getElem?, if_pos (List.getElem?_eq_some_iff.1 hrow).1, hrow], rfl, goesOn_granted _ _ _⟩

/-- A row that takes no more requests has none that waits (R156). -/
theorem rowGranted_of_rowAccesses {s : State} {c : Latched} (h : rowAccesses s c = 0) : rowGranted s c = c := by
  unfold rowGranted
  split
  · next p hp =>
    have hrow : (c.row.mapIdx fun tx w => { w with read := w.read.granted (rowAddrs c p tx w) s }) = c.row := by
      refine List.ext_getElem (by simp) fun tx _ ht => ?_
      have hspan : (spanRequests s c p)[tx]? = some (c.row[tx].read.requestsLeft (rowAddrs c p tx c.row[tx])) := by
        rw [spanRequests, List.getElem?_mapIdx, wholeRow_getElem?, if_pos ht, List.getElem?_eq_getElem ht]
        rfl
      simp only [rowAccesses, hp, List.sum_eq_zero_iff] at h
      rw [List.getElem_mapIdx, granted_of_requestsLeft (h _ (List.mem_of_getElem? hspan))]
    rw [hrow]
  · rfl

/-- `d` is the context `c` with its row gone on, as the memory port of `s` lets it (R99, R156): a row that takes no more
requests takes none again. -/
structure RowOn (s : State) (c d : Latched) : Prop where
  rest : d.withoutRow = c.withoutRow
  spans : ∀ p, s.page c.ctx.frame = some p → c.GoesOn p s d
  done : rowAccesses s c = 0 → rowAccesses s d = 0

theorem RowOn.refl (s : State) (c : Latched) : RowOn s c c := ⟨rfl, fun p _ => Latched.GoesOn.refl p s c, id⟩

theorem RowOn.trans {s : State} {c d e : Latched} (h : RowOn s c d) (k : RowOn s d e) : RowOn s c e := by
  refine ⟨k.rest.trans h.rest, fun p hp => (h.spans p hp).trans (k.spans p ?_), k.done ∘ h.done⟩
  rw [(ctx_of_withoutRow h.rest).1]
  exact hp

theorem rowOn_rowAsks {s : State} {c : Latched} (h : 0 < rowAccesses s c) (n : Nat) : RowOn s c (rowAsks s n c) :=
  ⟨rowAsks_withoutRow s n c, fun _ hp => goesOn_rowAsks hp n, fun h0 => absurd h0 h.ne'⟩

theorem rowOn_rowGranted (s : State) (c : Latched) : RowOn s c (rowGranted s c) :=
  ⟨rowGranted_withoutRow s c, fun _ hp => goesOn_rowGranted hp, fun h => by rwa [rowGranted_of_rowAccesses h]⟩

/-! ### A lane's rows go on -/

/-- A lane's context as another, its row gone on; none as none. -/
def CtxOn (s : State) : Option Latched → Option Latched → Prop
  | some c, some d => RowOn s c d
  | none, none => True
  | some _, none => False
  | none, some _ => False

theorem CtxOn.refl (s : State) : ∀ c, CtxOn s c c
  | some c => RowOn.refl s c
  | none => trivial

theorem CtxOn.trans {s : State} : ∀ {c d e : Option Latched}, CtxOn s c d → CtxOn s d e → CtxOn s c e
  | some _, some _, some _, h, k => RowOn.trans h k
  | none, none, none, _, _ => trivial

theorem ctxOn_rowGranted (s : State) : ∀ c, CtxOn s c (c.map (rowGranted s))
  | some c => rowOn_rowGranted s c
  | none => trivial

theorem CtxOn.some_left {s : State} {c : Latched} : ∀ {d : Option Latched}, CtxOn s (some c) d →
    ∃ e, d = some e ∧ RowOn s c e
  | some e, h => ⟨e, rfl, h⟩

theorem CtxOn.some_right {s : State} {d : Latched} : ∀ {c : Option Latched}, CtxOn s c (some d) →
    ∃ e, c = some e ∧ RowOn s e d
  | some e, h => ⟨e, rfl, h⟩

/-- The rows of a lane in composition gone on (R107). -/
structure RowsOn (s : State) (L M : Lane) : Prop where
  front : CtxOn s L.frontCtx M.frontCtx
  back : CtxOn s L.backCtx M.backCtx

theorem RowsOn.refl (s : State) (L : Lane) : RowsOn s L L := ⟨CtxOn.refl s _, CtxOn.refl s _⟩

theorem RowsOn.trans {s : State} {L M N : Lane} (h : RowsOn s L M) (k : RowsOn s M N) : RowsOn s L N :=
  ⟨h.front.trans k.front, h.back.trans k.back⟩

theorem rowsOn_rowsRead (s : State) (L : Lane) : RowsOn s L (L.rowsRead s) :=
  ⟨ctxOn_rowGranted s _, ctxOn_rowGranted s _⟩

/-- Rows go on by the pages, the patches and memory's errors, which the memory port leaves alone. -/
theorem RowsOn.of_moves {s t : State} (h : PortMoves s t) {L M : Lane} (k : RowsOn t L M) : RowsOn s L M := by
  have ctx {c d : Option Latched} (hc : CtxOn t c d) : CtxOn s c d := by
    rw [h.state] at hc
    match c, d, hc with
    | some c, some d, hc => exact ⟨hc.rest, hc.spans, hc.done⟩
    | none, none, _ => trivial
  exact ⟨ctx k.front, ctx k.back⟩

/-- Which row a lane composes next (R107). -/
theorem composing_cases {L : Lane} {m : RowMark} {c : Latched} (h : composing L = some (m, c)) :
    c.composed < c.ctx.th * 256 ∧ (m = .front ∧ L.frontCtx = some c ∨
      m = .back ∧ L.backCtx = some c ∧ ∀ d, L.frontCtx = some d → d.ctx.th * 256 ≤ d.composed) := by
  have back (h : (match L.backCtx with
      | some b => if b.composed < b.ctx.th * 256 then some (RowMark.back, b) else none
      | none => none) = some (m, c)) : c.composed < c.ctx.th * 256 ∧ m = .back ∧ L.backCtx = some c := by
    split at h
    · next hb =>
      split at h
      · next hlt =>
        cases h
        exact ⟨hlt, rfl, hb⟩
      · cases h
    · cases h
  unfold composing at h
  split at h
  · next d hf =>
    split at h
    · next hlt =>
      cases h
      exact ⟨hlt, .inl ⟨rfl, hf⟩⟩
    · next hlt =>
      obtain ⟨hb, hm, hc⟩ := back h
      refine ⟨hb, .inr ⟨hm, hc, fun e he => ?_⟩⟩
      cases hf.symm.trans he
      exact Nat.le_of_not_lt hlt
  · next hf =>
    obtain ⟨hb, hm, hc⟩ := back h
    exact ⟨hb, .inr ⟨hm, hc, fun e he => by cases hf.symm.trans he⟩⟩

/-- The row a lane composes next is the same as its rows go on (R107). -/
theorem RowsOn.composing {s : State} {L M : Lane} (h : RowsOn s L M) {m : RowMark} {d : Latched}
    (hd : composing M = some (m, d)) : ∃ c, composing L = some (m, c) ∧ RowOn s c d := by
  have rows {c d : Latched} (h : RowOn s c d) : d.ctx.th * 256 = c.ctx.th * 256 ∧ d.composed = c.composed := by
    rw [(ctx_of_withoutRow h.rest).1]
    exact ⟨rfl, (ctx_of_withoutRow h.rest).2⟩
  obtain ⟨hlt, hrow⟩ := composing_cases hd
  rcases hrow with ⟨rfl, hm⟩ | ⟨rfl, hm, hall⟩
  · obtain ⟨c, hc, hcd⟩ := CtxOn.some_right (hm ▸ h.front)
    refine ⟨c, composing_front hc ?_, hcd⟩
    rwa [← (rows hcd).1, ← (rows hcd).2]
  · obtain ⟨c, hc, hcd⟩ := CtxOn.some_right (hm ▸ h.back)
    refine ⟨c, composing_back (fun e he => ?_) hc ?_, hcd⟩
    · obtain ⟨e', he', hee⟩ := CtxOn.some_left (he ▸ h.front)
      rw [← (rows hee).1, ← (rows hee).2]
      exact hall e' he'
    · rwa [← (rows hcd).1, ← (rows hcd).2]

end Sys2Proof.Machine
end

section
/-! ## What an arrival and a grant do at the memory port -/

namespace Sys2Proof.Machine

/-! ### Counts of words -/

/-- The sum of a count of readings over the spans of a context's row. -/
def Latched.total (f : Reading → Nat) (c : Latched) : Nat := (c.row.map fun w => f w.read).sum

/-- The sum of a count of readings over a lane's rows in composition. -/
def Lane.total (f : Reading → Nat) (L : Lane) : Nat :=
  (L.frontCtx.map (Latched.total f)).getD 0 + (L.backCtx.map (Latched.total f)).getD 0

theorem total_flatMap (f : Reading → Nat) (L : Lane) :
    ((L.frontCtx.toList ++ L.backCtx.toList).flatMap fun c => c.row.map fun w => f w.read).sum = L.total f := by
  unfold Lane.total Latched.total
  cases L.frontCtx <;> cases L.backCtx <;> simp

theorem wordsRead_eq (L : Lane) : L.wordsRead = L.total Reading.words := total_flatMap _ L

theorem wordsAsked_eq (L : Lane) : L.wordsAsked = L.total Reading.asked := total_flatMap _ L

/-- A change of one element adds no more to a sum than it adds to the element's count. -/
theorem sum_map_modify_le {α : Type} {g : α → Nat} {f : α → α} {b : Nat} (h : ∀ x, g (f x) ≤ g x + b) (xs : List α)
    (k : Nat) : ((xs.modify k f).map g).sum ≤ (xs.map g).sum + b := by
  induction xs generalizing k with
  | nil => simp
  | cons x xs ih =>
    cases k with
    | zero =>
      have := h x
      simp only [List.modify_zero_cons, List.map_cons, List.sum_cons]
      omega
    | succ k =>
      have := ih k
      simp only [List.modify_succ_cons, List.map_cons, List.sum_cons]
      omega

/-- A change that keeps an element's count keeps the counts. -/
theorem map_modify_of_eq {α : Type} {g : α → Nat} {f : α → α} (h : ∀ x, g (f x) = g x) (xs : List α) (k : Nat) :
    (xs.modify k f).map g = xs.map g := by
  refine List.ext_getElem (by simp) fun i _ _ => ?_
  simp only [List.getElem_map, List.getElem_modify]
  split
  · exact h _
  · rfl

/-- A row's spans looked up add nothing to a count that a reading begins with at 0. -/
theorem sum_take_wholeRow {f : Reading → Nat} (h0 : f Reading.start = 0) (s : State) (c : Latched) (p : Page) {k : Nat}
    (hk : c.row.length ≤ k) : (((wholeRow s c p).take k).map fun w => f w.read).sum = c.total f := by
  have hnew {txs : List Nat} : ((txs.map fun tx => lookUpSpan s c.ctx.frame p tx c.composed).map
      fun w => f w.read).sum = 0 := by
    simp [lookUpSpan, Function.comp_def, h0]
  rw [wholeRow, List.take_append, List.take_of_length_le hk, ← List.map_take, List.map_append, List.sum_append, hnew,
    Nat.add_zero, Latched.total]

/-- A row that makes a request reads nothing by it. -/
theorem rowAsks_words (s : State) (n : Nat) (c : Latched) :
    (rowAsks s n c).total Reading.words = c.total Reading.words := by
  unfold rowAsks
  split
  · refine (congrArg List.sum (map_modify_of_eq (g := fun w : SpanWork => w.read.words) (fun _ => ?_) _ _)).trans
      (sum_take_wholeRow rfl _ _ _ (Nat.le_max_left _ _))
    rfl
  · rfl

/-- A row that makes a request asks for 8 words more at most (R156). -/
theorem rowAsks_asked (s : State) (n : Nat) (c : Latched) :
    (rowAsks s n c).total Reading.asked ≤ c.total Reading.asked + 8 := by
  unfold rowAsks
  split
  · dsimp only
    generalize List.findIdx _ _ = k
    exact (sum_map_modify_le (g := fun w : SpanWork => w.read.asked)
      (fun _ => (ask_asked_le _ _ _).trans (Nat.le_add_left _ _)) _ k).trans
        (Nat.add_le_add_right (sum_take_wholeRow rfl _ _ _ (Nat.le_max_left _ _)).le 8)
  · exact Nat.le_add_right _ _

/-- A grant reads no more words of a row than it asks for (R156). -/
theorem rowGranted_words (s : State) (c : Latched) :
    (rowGranted s c).total Reading.words ≤ c.total Reading.words + c.total Reading.asked := by
  unfold rowGranted
  split
  · next p _ =>
    have h : ((c.row.mapIdx fun tx w => { w with read := w.read.granted (rowAddrs c p tx w) s }).map
        fun w : SpanWork => w.read.words) = c.row.map fun w => w.read.words + w.read.asked :=
      List.ext_getElem (by simp) fun i _ _ => by simp
    simp only [Latched.total, h, List.sum_map_add, le_refl]
  · exact Nat.le_add_right _ _

/-- A grant to a lane reads no more words than it asks for (R156). -/
theorem rowsRead_words (s : State) (L : Lane) : (L.rowsRead s).wordsRead ≤ L.wordsRead + L.wordsAsked := by
  have ctx (c : Option Latched) : ((c.map (rowGranted s)).map (Latched.total Reading.words)).getD 0 ≤
      (c.map (Latched.total Reading.words)).getD 0 + (c.map (Latched.total Reading.asked)).getD 0 := by
    cases c with
    | none => exact le_refl _
    | some c => exact rowGranted_words s c
  have hfront := ctx L.frontCtx
  have hback := ctx L.backCtx
  simp only [wordsRead_eq, wordsAsked_eq, Lane.total, Lane.rowsRead]
  omega

/-! ### What is kept -/

theorem PortMoves.requestClass {s t : State} (h : PortMoves s t) (q : Requester) :
    requestClass t q = requestClass s q := by
  cases q with
  | composer l => exact composerClass_congr (h.lanes l) (by rw [h.state])
  | _ => rfl

theorem PortMoves.composerClass {s t : State} (h : PortMoves s t) (l : LaneId) :
    composerClass t l = composerClass s l :=
  h.requestClass (.composer l)

theorem PortMoves.landerRequest {s t : State} (h : PortMoves s t) : landerRequest t = landerRequest s := by
  rw [h.state]
  rfl

theorem PortMoves.payloadWords {s t : State} (h : PortMoves s t) : payloadWords t = payloadWords s := by
  rw [h.state]
  rfl

theorem PortMoves.bad {s t : State} (h : PortMoves s t) : t.bad = s.bad := by
  rw [h.state]
  rfl

/-! ### An arrival -/

/-- What the arrival of a request does to the rows of a lane: where it is the lane's, words are asked for (R99, R156). -/
structure RowsAsked (s : State) (L M : Lane) : Prop where
  on : RowsOn s L M
  words : M.wordsRead = L.wordsRead
  asked : M.wordsAsked ≤ L.wordsAsked + 8

theorem RowsAsked.refl (s : State) (L : Lane) : RowsAsked s L L := ⟨RowsOn.refl s L, rfl, Nat.le_add_right _ _⟩

/-- What the arrival of a requester's request does (R156). -/
structure Arrives (r : Requester) (s t : State) : Prop where
  moves : PortMoves s t
  may : s.mayRequest r = true
  fresh : r ∉ s.waiting
  waiting : t.waiting = s.waiting ++ [r]
  last1 : t.arbLast1 = s.arbLast1
  last4 : t.arbLast4 = s.arbLast4
  loader : t.loader = s.loader
  lanes : ∀ l, RowsAsked s (s.lane l) (t.lane l)
  others : ∀ l, r ≠ .composer l → t.lane l = s.lane l
  payload : s.payloadRead.GoesOn (payloadWords s) s t.payloadRead
  payloadWords : t.payloadRead.words = s.payloadRead.words
  payloadKept : r ≠ .unpacker → t.payloadRead = s.payloadRead

/-- A lane composer notes what it asks for in the row it has in hand, which reads memory (R99). -/
theorem rowsAsked_noteAsked {l : LaneId} {s : State} (h : rowRequests s l = true) (n : Nat) :
    RowsAsked s (s.lane l) ((noteAsked (.composer l) n s).lane l) := by
  unfold rowRequests at h
  split at h
  · next m c hrow =>
    have hon : RowOn s c (rowAsks s n c) := rowOn_rowAsks (of_decide_eq_true h) n
    have hwords := rowAsks_words s n c
    have hasked := rowAsks_asked s n c
    have hctx := rowInHand_ctx hrow
    cases m with
    | front =>
      simp only at hctx
      simp only [noteAsked, hrow, lane_modLane]
      refine ⟨⟨?_, CtxOn.refl s _⟩, ?_, ?_⟩
      · rw [hctx]
        exact hon
      · simp only [wordsRead_eq, Lane.total, hctx, Option.map_some, Option.getD_some, hwords]
      · simp only [wordsAsked_eq, Lane.total, hctx, Option.map_some, Option.getD_some]
        omega
    | back =>
      simp only at hctx
      simp only [noteAsked, hrow, lane_modLane]
      refine ⟨⟨CtxOn.refl s _, ?_⟩, ?_, ?_⟩
      · rw [hctx]
        exact hon
      · simp only [wordsRead_eq, Lane.total, hctx, Option.map_some, Option.getD_some, hwords]
      · simp only [wordsAsked_eq, Lane.total, hctx, Option.map_some, Option.getD_some]
        omega
  · cases h

theorem noteAsked_composer (l : LaneId) (n : Nat) (s : State) : ∃ g, noteAsked (.composer l) n s = modLane l g s := by
  simp only [noteAsked]
  split
  · exact ⟨_, rfl⟩
  · exact ⟨_, rfl⟩
  · refine ⟨id, ?_⟩
    simp only [modLane, id, Quad.set_get]

theorem noteAsked_lane_ne {r : Requester} {l : LaneId} (h : r ≠ .composer l) (n : Nat) (s : State) :
    (noteAsked r n s).lane l = s.lane l := by
  cases r with
  | composer k =>
    obtain ⟨g, hg⟩ := noteAsked_composer k n s
    rw [hg, lane_modLane_ne g s fun e => h (congrArg _ e.symm)]
  | _ => rfl

/-- What a requester's note of what it asks for leaves alone. -/
theorem noteAsked_keeps (r : Requester) (n : Nat) (s : State) :
    (noteAsked r n s).arbLast1 = s.arbLast1 ∧ (noteAsked r n s).arbLast4 = s.arbLast4 ∧
      (noteAsked r n s).loader = s.loader ∧ (r ≠ .unpacker → (noteAsked r n s).payloadRead = s.payloadRead) := by
  cases r with
  | composer l =>
    obtain ⟨g, hg⟩ := noteAsked_composer l n s
    rw [hg]
    exact ⟨rfl, rfl, rfl, fun _ => rfl⟩
  | unpacker => exact ⟨rfl, rfl, rfl, fun h => absurd rfl h⟩
  | _ => exact ⟨rfl, rfl, rfl, fun _ => rfl⟩

theorem noteAsked_payload (r : Requester) (n : Nat) (s : State) :
    s.payloadRead.GoesOn (payloadWords s) s (noteAsked r n s).payloadRead ∧
      (noteAsked r n s).payloadRead.words = s.payloadRead.words := by
  by_cases hr : r = .unpacker
  · rw [hr]
    exact ⟨goesOn_ask _ _ _ _, rfl⟩
  · rw [(noteAsked_keeps r n s).2.2.2 hr]
    exact ⟨Reading.GoesOn.refl _ _ _, rfl⟩

theorem requestArrives_arrives (r : Requester) (n : Nat) (s : State) :
    requestArrives r n s = s ∨ Arrives r s (requestArrives r n s) := by
  refine (requestArrives_cases r n s).imp_right fun ⟨hmay, hfresh, heq⟩ => ?_
  obtain ⟨hlast1, hlast4, hloader, hkept⟩ := noteAsked_keeps r n s
  obtain ⟨hon, hwords⟩ := noteAsked_payload r n s
  have hmoves := requestArrives_moves r n s
  rw [heq] at hmoves ⊢
  refine ⟨hmoves, hmay, hfresh, rfl, hlast1, hlast4, hloader, fun l => ?_, fun l hl => noteAsked_lane_ne hl n s, hon,
    hwords, hkept⟩
  by_cases hl : r = .composer l
  · subst hl
    exact rowsAsked_noteAsked hmay n
  · have hsame := noteAsked_lane_ne hl n s
    exact (congrArg (RowsAsked s (s.lane l)) hsame).mpr (RowsAsked.refl s _)

/-! ### A grant -/

/-- The lane last granted in class 1, or in class 4 (R156). -/
def State.lastIn (s : State) (c : Nat) : LaneId := if c = 1 then s.arbLast1 else s.arbLast4

/-- The requesters that are granted as commands. -/
def commanders : List Requester := [.systemPort, .proofComposer, .lander, .reportWriter]

/-- What a grant to a requester does within a tick (R156). -/
structure Grants (r : Requester) (s t : State) : Prop where
  moves : PortMoves s t
  first : arbiterGrant s s.requests = some r
  within : r ∉ commanders
  waiting : t.waiting = s.waiting.filter (· != r)
  last : ∀ c, c = 1 ∨ c = 4 → (requestClass s r = c → r = .composer (t.lastIn c)) ∧
    (requestClass s r ≠ c → t.lastIn c = s.lastIn c)
  lane : ∀ l, t.lane l = if r = .composer l then (s.lane l).rowsRead s else s.lane l
  payload : t.payloadRead = if r = .unpacker then s.payloadRead.granted (payloadWords s) s else s.payloadRead
  loader : r ≠ .profileLoader → t.loader = s.loader
  loads : t.mayRequest .profileLoader = true → s.mayRequest .profileLoader = true

theorem grantLane_waiting (l : LaneId) (s : State) : (grantLane l s).waiting = s.waiting.filter (· != .composer l) := by
  unfold grantLane noteGrant
  split <;> rfl

theorem grantLane_lastIn (l : LaneId) (s : State) (c : Nat) (hc : c = 1 ∨ c = 4) :
    (grantLane l s).lastIn c = if composerClass s l = c then l else s.lastIn c := by
  unfold grantLane noteGrant State.lastIn
  rcases composerClass_cases s l with h | h <;> rcases hc with rfl | rfl <;> simp [h, modLane, State.served]

theorem grantLane_grants {l : LaneId} {s : State} (h : arbiterGrant s s.requests = some (.composer l)) :
    Grants (.composer l) s (grantLane l s) where
  moves := grantLane_moves l s
  first := h
  within := by simp [commanders]
  waiting := grantLane_waiting l s
  last c hc := by
    rw [grantLane_lastIn l s c hc]
    exact ⟨fun h => congrArg _ (if_pos h).symm, fun h => if_neg h⟩
  lane k := by
    by_cases hk : k = l
    · subst hk
      rw [if_pos rfl, grantLane_lane]
    · rw [if_neg fun e => hk (Requester.composer.inj e).symm, grantLane_lane_ne hk]
  payload := (grantLane_payloadRead l s).trans (if_neg (by simp)).symm
  loader _ := grantLane_loader l s
  loads h := by
    rw [State.mayRequest, grantLane_loader] at h
    exact h

theorem grantPayload_grants {s : State} (h : arbiterGrant s s.requests = some .unpacker) :
    Grants .unpacker s (grantPayload s) where
  moves := ⟨rfl, fun _ => rfl⟩
  first := h
  within := by simp [commanders]
  waiting := rfl
  last c hc := by
    refine ⟨fun h => ?_, fun _ => rfl⟩
    rcases hc with rfl | rfl <;> cases h
  lane _ := (if_neg (by simp)).symm
  payload := (if_pos rfl).symm
  loader _ := rfl
  loads h := h

/-- The profile loader's grant: it waits no more, but where the word it would read has an uncorrectable error, whose grant
is a command (R162). -/
theorem loaderGranted_grants {s : State} (h : arbiterGrant s s.requests = some .profileLoader) :
    loaderGranted s = s ∨ Grants .profileLoader s (loaderGranted s) := by
  have served {t : State} (ht : t = { s.served .profileLoader with loader := t.loader })
      (hl : t.mayRequest .profileLoader = true → s.mayRequest .profileLoader = true) : Grants .profileLoader s t := by
    refine ⟨?_, h, by simp [commanders], ?_, fun c hc => ⟨fun h => ?_, fun _ => ?_⟩, fun l => ?_, ?_,
      fun h => absurd rfl h, hl⟩
    · rw [ht]
      exact ⟨rfl, fun _ => rfl⟩
    · rw [ht]
      rfl
    · rcases hc with rfl | rfl <;> cases h
    · rw [ht]
      rfl
    · rw [ht]
      exact (if_neg (by simp)).symm
    · rw [ht]
      exact (if_neg (by simp)).symm
  unfold loaderGranted
  split
  · exact .inr (served rfl id)
  · next ld hld =>
    split
    · split
      · exact .inl rfl
      · next hun _ =>
        refine .inr (served rfl fun _ => ?_)
        rw [State.mayRequest, hld]
        exact hun
    · exact .inr (served rfl id)

theorem grantNext_grants (s : State) : grantNext s = s ∨ ∃ r, Grants r s (grantNext s) := by
  rcases grantNext_cases s with h | ⟨l, hg, h⟩ | ⟨hg, h⟩ | ⟨hg, h⟩
  · exact .inl h
  · exact .inr ⟨_, h ▸ grantLane_grants hg⟩
  · exact .inr ⟨_, h ▸ grantPayload_grants hg⟩
  · rw [h]
    exact (loaderGranted_grants hg).imp_right fun h => ⟨_, h⟩

/-- The request granted is one that waits in `waiting`, of the highest class (R156). -/
theorem Grants.mem {r : Requester} {s t : State} (h : Grants r s t) : r ∈ s.waiting := by
  refine (mem_requests.1 (arbiterGrant_mem h.first)).resolve_left fun ⟨e, _⟩ => h.within ?_
  simp [e, commanders]

theorem Grants.class_le {r q : Requester} {s t : State} (h : Grants r s t) (hq : q ∈ s.requests) :
    requestClass s r ≤ requestClass s q := (arbiterGrant_eq_some.1 h.first).1 q hq

end Sys2Proof.Machine
end

section
/-! ## The requests that wait at the memory port over a tick -/

namespace Sys2Proof.Machine

/-! ### Turns gone by -/

/-- How many turns of the rotation after the lane `last` are gone by when `now` is the lane last granted. -/
def turnsGone (last now : LaneId) : Nat := (now.val + 4 - last.val) % 4

theorem turnsGone_self (last : LaneId) : turnsGone last last = 0 := by
  revert last
  decide

/-- Where a lane whose turn is to come waits, the lane granted before it takes a turn after those gone by, and with it the
turns gone by are still before that of the lane that waits (R156). -/
theorem turn_taken {last now l k : LaneId} (hk : turnsGone last now ≤ turnAfter last k)
    (hl : turnAfter now l ≤ turnAfter now k) (hne : l ≠ k) :
    turnsGone last now ≤ turnAfter last l ∧ turnAfter last l < turnsGone last l ∧
      turnsGone last l ≤ turnAfter last k := by
  revert last now l k
  decide

/-! ### What the grants of a tick do to the requests that wait -/

/-- Once more for a requester. -/
def oneMore (r : Requester) (g : Requester → Nat) : Requester → Nat := fun q => if q = r then g q + 1 else g q

theorem oneMore_same (r : Requester) (g : Requester → Nat) : oneMore r g r = g r + 1 := if_pos rfl

theorem oneMore_ne {r q : Requester} (h : q ≠ r) (g : Requester → Nat) : oneMore r g q = g q := if_neg h

theorem oneMore_eq_zero {r q : Requester} {g : Requester → Nat} : oneMore r g q = 0 ↔ g q = 0 ∧ q ≠ r := by
  by_cases h : q = r
  · simp [oneMore, h]
  · simp [oneMore, h]

/-- The rotation of a class while a lane of it waits that has not been granted (R156): its turn is to come, and the lanes
of the class granted have had one grant each, in turns gone by. -/
structure TurnsRan (g : Requester → Nat) (s t : State) (c : Nat) (k : LaneId) : Prop where
  gone : turnsGone (s.lastIn c) (t.lastIn c) ≤ turnAfter (s.lastIn c) k
  once : ∀ l, composerClass s l = c → g (.composer l) = 0 ∨
    g (.composer l) = 1 ∧ turnAfter (s.lastIn c) l < turnsGone (s.lastIn c) (t.lastIn c)

/-- The memory port run from `s` to `t`, with `g` counting each requester's grants (R156): the requests that waited and
were not granted still wait, and others behind them. -/
structure QueueRan (g : Requester → Nat) (s t : State) : Prop where
  within : ∀ r ∈ commanders, g r = 0
  waiting : ∃ came, t.waiting = (s.waiting.filter fun r => g r == 0) ++ came ∧ ∀ r ∈ came, s.mayRequest r = true
  nodup : s.waiting.Nodup → t.waiting.Nodup
  classes : ∀ q ∈ s.requests, g q = 0 → ∀ r, requestClass s q < requestClass s r → g r = 0
  rotation : ∀ k, .composer k ∈ s.waiting → g (.composer k) = 0 → TurnsRan g s t (composerClass s k) k
  arrival : ∀ q ∈ s.waiting, requestClass s q = 5 → g q = 0 → ∀ r, requestClass s r = 5 →
    g r = 0 ∨ g r = 1 ∧ r ∈ s.waiting ∧ s.waiting.idxOf r ≤ s.waiting.idxOf q
  last : ∀ c, c = 1 ∨ c = 4 →
    (t.lastIn c = s.lastIn c ∧ ∀ l, composerClass s l = c → g (.composer l) = 0) ∨
    composerClass s (t.lastIn c) = c ∧ g (.composer (t.lastIn c)) ≠ 0 ∧
      (.composer (t.lastIn c) ∈ s.waiting ∨ rowRequests s (t.lastIn c) = true)

theorem QueueRan.start (s : State) : QueueRan (fun _ => 0) s s where
  within _ _ := rfl
  waiting := ⟨[], by simp, by simp⟩
  nodup h := h
  classes _ _ _ _ _ := rfl
  rotation k _ _ := ⟨by rw [turnsGone_self]; exact Nat.zero_le _, fun _ _ => .inl rfl⟩
  arrival _ _ _ _ _ _ := .inl rfl
  last _ _ := .inl ⟨rfl, fun _ _ => rfl⟩

section
variable {g : Requester → Nat} {s t u : State} {r : Requester}

/-- A request that waited and was not granted still waits. -/
theorem QueueRan.mem_waiting (h : QueueRan g s t) {q : Requester} (hq : q ∈ s.waiting) (h0 : g q = 0) :
    q ∈ t.waiting := by
  obtain ⟨came, hw, -⟩ := h.waiting
  simp [hw, hq, h0]

/-- A request that waits did so from the start, or its requester could make one then. -/
theorem QueueRan.of_mem_waiting (h : QueueRan g s t) {q : Requester} (hq : q ∈ t.waiting) :
    q ∈ s.waiting ∨ s.mayRequest q = true := by
  obtain ⟨came, hw, hcame⟩ := h.waiting
  rw [hw, List.mem_append] at hq
  exact hq.imp (fun hl => (List.mem_filter.1 hl).1) (hcame q)

theorem QueueRan.mem_requests (h : QueueRan g s t) (hm : PortMoves s t) {q : Requester} (hq : q ∈ s.requests)
    (h0 : g q = 0) : q ∈ t.requests := by
  rcases List.mem_append.1 hq with hl | hw
  · exact List.mem_append_left _ (hm.landerRequest.symm ▸ hl)
  · exact List.mem_append_right _ (h.mem_waiting hw h0)

/-- A request that arrives waits behind the others (R156). -/
theorem QueueRan.arrives (h : QueueRan g s t) (k : Arrives r t u) (hmay : s.mayRequest r = true) : QueueRan g s u := by
  have hlast (c : Nat) : u.lastIn c = t.lastIn c := by rw [State.lastIn, State.lastIn, k.last1, k.last4]
  refine ⟨h.within, ?_, fun hn => ?_, h.classes, fun l hl h0 => ?_, h.arrival, fun c hc => ?_⟩
  · obtain ⟨came, hw, hcame⟩ := h.waiting
    refine ⟨came ++ [r], by rw [k.waiting, hw, List.append_assoc], fun q hq => ?_⟩
    rcases List.mem_append.1 hq with hq | hq
    · exact hcame q hq
    · exact List.mem_singleton.1 hq ▸ hmay
  · rw [k.waiting]
    exact List.nodup_append.2 ⟨h.nodup hn, List.nodup_singleton r, fun a ha b hb e =>
      k.fresh (List.mem_singleton.1 hb ▸ e ▸ ha)⟩
  · obtain ⟨hgone, honce⟩ := h.rotation l hl h0
    exact ⟨by rw [hlast]; exact hgone, by rw [hlast]; exact honce⟩
  · rw [hlast]
    exact h.last c hc

/-- A grant leaves the other requests waiting, in their order. -/
theorem QueueRan.waiting_grants (h : QueueRan g s t) (k : Grants r t u) : ∃ came,
    u.waiting = (s.waiting.filter fun q => oneMore r g q == 0) ++ came ∧ ∀ q ∈ came, s.mayRequest q = true := by
  obtain ⟨came, hw, hcame⟩ := h.waiting
  refine ⟨came.filter (· != r), ?_, fun q hq => hcame q (List.mem_filter.1 hq).1⟩
  rw [k.waiting, hw, List.filter_append, List.filter_filter]
  congr 1
  refine List.filter_congr fun q _ => ?_
  rw [Bool.eq_iff_iff]
  simp only [Bool.and_eq_true, bne_iff_ne, beq_iff_eq, oneMore_eq_zero, and_comm]

/-- While a request waits, none of a lower class is granted (R156). -/
theorem QueueRan.classes_grants (h : QueueRan g s t) (hm : PortMoves s t) (k : Grants r t u) {q p : Requester}
    (hq : q ∈ s.requests) (h0 : oneMore r g q = 0) (hlt : requestClass s q < requestClass s p) :
    oneMore r g p = 0 := by
  have hq0 := (oneMore_eq_zero.1 h0).1
  refine oneMore_eq_zero.2 ⟨h.classes q hq hq0 p hlt, ?_⟩
  rintro rfl
  have := k.class_le (h.mem_requests hm hq hq0)
  rw [hm.requestClass, hm.requestClass] at this
  omega

/-- A grant to a lane of a class takes the first turn to come of the lanes that wait (R156). -/
theorem QueueRan.rotation_grants (h : QueueRan g s t) (hm : PortMoves s t) (k : Grants r t u) {l : LaneId}
    (hl : .composer l ∈ s.waiting) (h0 : oneMore r g (.composer l) = 0) :
    TurnsRan (oneMore r g) s u (composerClass s l) l := by
  obtain ⟨hl0, hne⟩ := oneMore_eq_zero.1 h0
  obtain ⟨hgone, honce⟩ := h.rotation l hl hl0
  have hc := composerClass_cases s l
  generalize hcl : composerClass s l = c at *
  obtain ⟨hsame, hother⟩ := k.last c hc
  by_cases hr : requestClass t r = c
  · obtain ⟨j, hj⟩ : ∃ j, j = u.lastIn c := ⟨_, rfl⟩
    obtain rfl : r = .composer j := hj ▸ hsame hr
    have hlastOf : t.lastOf j = t.lastIn c := by
      rw [← hr]
      rfl
    have hturn := (arbiterGrant_composer.1 k.first).2.2 l
      (List.mem_append_right _ (h.mem_waiting hl hl0)) ((hm.composerClass l).trans (hcl.trans hr.symm))
    rw [hlastOf] at hturn
    obtain ⟨hfrom, hto, hbefore⟩ := turn_taken hgone hturn fun e => hne (e ▸ rfl)
    refine ⟨hj ▸ hbefore, fun i hi => ?_⟩
    rw [← hj]
    by_cases hij : i = j
    · subst hij
      have hi0 : g (.composer i) = 0 := (honce i hi).resolve_right fun ⟨_, hlt⟩ => by omega
      exact .inr ⟨by rw [oneMore_same, hi0], hto⟩
    · rw [oneMore_ne (fun e => hij (Requester.composer.inj e))]
      exact (honce i hi).imp_right fun ⟨h1, hlt⟩ => ⟨h1, by omega⟩
  · refine ⟨by rw [hother hr]; exact hgone, fun i hi => ?_⟩
    rw [hother hr, oneMore_ne fun e => hr ?_]
    · exact honce i hi
    · rw [← e]
      exact (hm.composerClass i).trans hi

/-- The first of a list that has a property comes before all others that have it. -/
theorem idxOf_le_of_find? {α : Type} [DecidableEq α] {p : α → Bool} {xs : List α} {a b : α} (h : xs.find? p = some a)
    (hb : p b = true) : xs.idxOf a ≤ xs.idxOf b := by
  induction xs with
  | nil => cases h
  | cons x xs ih =>
    by_cases hx : p x = true
    · rw [List.find?_cons_of_pos hx] at h
      cases h
      simp
    · rw [List.find?_cons_of_neg hx] at h
      have hxb : x ≠ b := fun e => hx (e ▸ hb)
      have := ih h
      rw [List.idxOf_cons_ne _ hxb]
      by_cases hxa : x = a
      · simp [hxa]
      · rw [List.idxOf_cons_ne _ hxa]
        omega

/-- While a request of class 5 waits, one of the class is granted that waited before it, if any is (R156). -/
theorem QueueRan.first_of_five (h : QueueRan g s t) (hm : PortMoves s t) (k : Grants r t u) {q : Requester}
    (hq : q ∈ s.waiting) (h5 : requestClass s q = 5) (h0 : g q = 0) (hr : requestClass t r = 5) :
    r ∈ s.waiting ∧ g r = 0 ∧ s.waiting.idxOf r ≤ s.waiting.idxOf q := by
  obtain ⟨came, hw, -⟩ := h.waiting
  have hfind : t.requests.find? (fun x => requestClass s x == 5) = some r := by
    have := (arbiterGrant_eq_some.1 k.first).2
    simpa [hr, grantInClass, hm.requestClass] using this
  have hlander : (landerRequest t).find? (fun x => requestClass s x == 5) = none := by
    unfold landerRequest
    split
    · split <;> simp [requestClass]
    · rfl
    · rfl
  obtain ⟨x, hx⟩ : ∃ x, (s.waiting.filter fun x => g x == 0).find? (fun x => requestClass s x == 5) = some x :=
    Option.isSome_iff_exists.1 (List.find?_isSome.2 ⟨q, by simp [hq, h0], by simp [h5]⟩)
  rw [State.requests, List.find?_append, hlander, Option.none_or, hw, List.find?_append, hx, Option.some_or,
    Option.some.injEq] at hfind
  subst hfind
  rw [List.find?_filter] at hx
  have hp := List.find?_some hx
  simp only [beq_iff_eq, decide_eq_true_eq] at hp
  exact ⟨List.mem_of_find?_eq_some hx, hp.1, idxOf_le_of_find? hx (by simp [h0, h5])⟩

theorem QueueRan.arrival_grants (h : QueueRan g s t) (hm : PortMoves s t) (k : Grants r t u) {q p : Requester}
    (hq : q ∈ s.waiting) (h5 : requestClass s q = 5) (h0 : oneMore r g q = 0) (hp : requestClass s p = 5) :
    oneMore r g p = 0 ∨
      oneMore r g p = 1 ∧ p ∈ s.waiting ∧ s.waiting.idxOf p ≤ s.waiting.idxOf q := by
  have hq0 := (oneMore_eq_zero.1 h0).1
  by_cases hpr : p = r
  · subst hpr
    obtain ⟨hmem, hp0, hidx⟩ := h.first_of_five hm k hq h5 hq0 ((hm.requestClass p).trans hp)
    exact .inr ⟨by rw [oneMore_same, hp0], hmem, hidx⟩
  · rw [oneMore_ne hpr]
    exact h.arrival q hq h5 hq0 p hp

/-- A class remembers the lane last granted in it (R156). -/
theorem QueueRan.last_grants (h : QueueRan g s t) (hm : PortMoves s t) (k : Grants r t u) {c : Nat}
    (hc : c = 1 ∨ c = 4) :
    (u.lastIn c = s.lastIn c ∧ ∀ l, composerClass s l = c → oneMore r g (.composer l) = 0) ∨
    composerClass s (u.lastIn c) = c ∧ oneMore r g (.composer (u.lastIn c)) ≠ 0 ∧
      (.composer (u.lastIn c) ∈ s.waiting ∨ rowRequests s (u.lastIn c) = true) := by
  obtain ⟨hsame, hother⟩ := k.last c hc
  by_cases hr : requestClass t r = c
  · have hlane := hsame hr
    refine .inr ⟨?_, ?_, ?_⟩
    · rw [hlane] at hr
      exact (hm.composerClass _).symm.trans hr
    · rw [← hlane, oneMore_same]
      omega
    · have := h.of_mem_waiting k.mem
      rw [hlane] at this
      exact this
  · rw [hother hr]
    refine (h.last c hc).imp (fun ⟨heq, hall⟩ => ⟨heq, fun l hl => ?_⟩) fun ⟨hcl, hne, hmem⟩ => ⟨hcl, ?_, hmem⟩
    · refine oneMore_eq_zero.2 ⟨hall l hl, fun e => hr ?_⟩
      rw [← e]
      exact (hm.composerClass l).trans hl
    · exact fun h0 => hne (oneMore_eq_zero.1 h0).1

theorem QueueRan.grants (h : QueueRan g s t) (hm : PortMoves s t) (k : Grants r t u) : QueueRan (oneMore r g) s u where
  within q hq := oneMore_eq_zero.2 ⟨h.within q hq, fun e => k.within (e ▸ hq)⟩
  waiting := h.waiting_grants k
  nodup hn := k.waiting ▸ (h.nodup hn).filter _
  classes _ hq h0 _ := h.classes_grants hm k hq h0
  rotation _ hl h0 := h.rotation_grants hm k hl h0
  arrival _ hq h5 h0 _ := h.arrival_grants hm k hq h5 h0
  last _ hc := h.last_grants hm k hc

end

end Sys2Proof.Machine
end

section
/-! ## The memory port in a tick -/

namespace Sys2Proof.Machine

/-! ### A lane, the payload and the load over a tick -/

/-- A lane as the memory port runs from `s` to `t`, with `n` grants to it (R156): its rows go on; without a grant it reads
nothing, and it asks for no words but by an arrival; and one grant reads what its request asked for. -/
structure LaneRan (n : Nat) (s t : State) (l : LaneId) : Prop where
  on : RowsOn s (s.lane l) (t.lane l)
  kept : n = 0 → .composer l ∈ s.waiting ∨ .composer l ∉ t.waiting → t.lane l = s.lane l
  none : n = 0 → (t.lane l).wordsRead = (s.lane l).wordsRead ∧ (t.lane l).wordsAsked ≤ (s.lane l).wordsAsked + 8
  one : n = 1 →
    (.composer l ∈ s.waiting → (t.lane l).wordsRead ≤ (s.lane l).wordsRead + (s.lane l).wordsAsked) ∧
    ((s.lane l).wordsAsked = 0 → (t.lane l).wordsRead ≤ (s.lane l).wordsRead + 8)

/-- The payload as the memory port runs from `s` to `t`, with `n` grants to the Unpacker (R156). -/
structure PayloadRan (n : Nat) (s t : State) : Prop where
  on : s.payloadRead.GoesOn (payloadWords s) s t.payloadRead
  kept : n = 0 → .unpacker ∈ s.waiting → t.payloadRead = s.payloadRead
  none : n = 0 → t.payloadRead.words = s.payloadRead.words
  one : n = 1 → .unpacker ∈ s.waiting → t.payloadRead.words = s.payloadRead.words + s.payloadRead.asked

/-- The load as the memory port runs from `s` to `t`, with `n` grants to the profile loader (R156, R162). -/
structure LoadRan (n : Nat) (s t : State) : Prop where
  kept : n = 0 → t.loader = s.loader
  unfinished : t.mayRequest .profileLoader = true → s.mayRequest .profileLoader = true

/-- The memory port run from `s` to `t`, with `g` counting each requester's grants (R156). -/
structure TickRan (g : Requester → Nat) (s t : State) : Prop where
  moves : PortMoves s t
  queue : QueueRan g s t
  lane : ∀ l, LaneRan (g (.composer l)) s t l
  payload : PayloadRan (g .unpacker) s t
  load : LoadRan (g .profileLoader) s t

theorem TickRan.start (s : State) : TickRan (fun _ => 0) s s where
  moves := PortMoves.refl s
  queue := QueueRan.start s
  lane l := ⟨RowsOn.refl s _, fun _ _ => rfl, fun _ => ⟨rfl, Nat.le_add_right _ _⟩, fun h => by cases h⟩
  payload := ⟨Reading.GoesOn.refl _ _ _, fun _ _ => rfl, fun _ => rfl, fun h => by cases h⟩
  load := ⟨fun _ => rfl, id⟩

theorem Reading.GoesOn.of_moves {s t : State} (h : PortMoves s t) {a b : Reading}
    (k : a.GoesOn (payloadWords t) t b) : a.GoesOn (payloadWords s) s b := by
  obtain ⟨n, hn, hf⟩ := k
  rw [h.payloadWords, h.bad] at hf
  exact ⟨n, hn, hf⟩

section
variable {g : Requester → Nat} {s t u : State} {r : Requester}

/-! ### An arrival -/

/-- A row that requests memory as it goes on did so before (R99). -/
theorem rowRequests_of_rowsOn (hm : PortMoves s t) {l : LaneId} (h : RowsOn s (s.lane l) (t.lane l))
    (hr : rowRequests t l = true) : rowRequests s l = true := by
  have hbuffer : (t.lane l).buffer = (s.lane l).buffer := (congrArg Lane.buffer (hm.lanes l) :)
  have hhigh : t.highWater l = s.highWater l := by rw [hm.state]; rfl
  have hengine : t.engine = s.engine := by rw [hm.state]
  have haccesses (c : Latched) : rowAccesses t c = rowAccesses s c := by rw [hm.state]; rfl
  simp only [rowRequests, rowInHand, hbuffer, hhigh, hengine] at hr ⊢
  split at hr
  · next m d hd =>
    split at hd
    · next hif =>
      obtain ⟨c, hc, hon⟩ := h.composing hd
      rw [if_pos hif, hc]
      rw [haccesses, decide_eq_true_eq] at hr
      exact decide_eq_true (Nat.pos_of_ne_zero fun h0 => hr.ne' (hon.done h0))
    · cases hd
  · cases hr

/-- A host request at the system port still waits, as only its command grants it (R149, R156). -/
theorem TickRan.hostIdle (h : TickRan g s t) (hi : hostIdle t = true) : hostIdle s = true := by
  have hheld : t.held = s.held := by rw [h.moves.state]
  simp only [Machine.hostIdle, hheld, Bool.and_eq_true, Bool.not_eq_true', List.any_eq_false, beq_iff_eq] at hi ⊢
  refine ⟨hi.1, fun r hr h2 => hi.2 r (h.queue.mem_waiting hr (h.queue.within r ?_))
    ((h.moves.requestClass r).trans h2)⟩
  cases r with
  | composer l => rcases composerClass_cases s l with h | h <;> exact absurd (h.symm.trans h2) (by decide)
  | systemPort => decide
  | proofComposer => decide
  | _ => cases h2

/-- A requester that may make a request in a tick could at its start (R156). -/
theorem TickRan.mayRequest (h : TickRan g s t) (hr : t.mayRequest r = true) : s.mayRequest r = true := by
  cases r with
  | composer l => exact rowRequests_of_rowsOn h.moves (h.lane l).on hr
  | systemPort => exact h.hostIdle hr
  | proofComposer =>
    have hengine : t.engine = s.engine := by rw [h.moves.state]
    have hproof : t.proof = s.proof := by rw [h.moves.state]
    simp only [State.mayRequest, hengine, hproof, Bool.and_eq_true] at hr ⊢
    exact ⟨⟨h.hostIdle hr.1.1, hr.1.2⟩, hr.2⟩
  | lander => exact hr
  | unpacker =>
    have hwords := h.payload.on.words_le
    simp only [State.mayRequest, unpackerReads, h.moves.payloadWords, decide_eq_true_eq] at hr ⊢
    omega
  | profileLoader => exact h.load.unfinished hr
  | reportWriter =>
    rw [h.moves.state] at hr
    exact hr

theorem LaneRan.arrives {l : LaneId} (h : LaneRan (g (.composer l)) s t l) (q : QueueRan g s t) (hm : PortMoves s t)
    (k : Arrives r t u) : LaneRan (g (.composer l)) s u l := by
  obtain ⟨hon, hwords, hasked⟩ := k.lanes l
  have hlast : r = .composer l → g (.composer l) = 0 → .composer l ∉ s.waiting := fun e h0 hw =>
    k.fresh (e ▸ q.mem_waiting hw h0)
  refine ⟨h.on.trans (hon.of_moves hm), fun h0 hw => ?_, fun h0 => ⟨hwords.trans (h.none h0).1, ?_⟩, fun h1 => ?_⟩
  · by_cases hr : r = .composer l
    · refine absurd hw (not_or.2 ⟨hlast hr h0, fun hn => hn ?_⟩)
      rw [k.waiting, hr]
      exact List.mem_append_right _ (List.mem_singleton_self _)
    · rw [k.others l hr]
      refine h.kept h0 (hw.imp_right fun hn hmem => hn ?_)
      rw [k.waiting]
      exact List.mem_append_left _ hmem
  · by_cases hr : r = .composer l
    · rw [h.kept h0 (.inr (hr ▸ k.fresh))] at hasked
      exact hasked
    · rw [k.others l hr]
      exact (h.none h0).2
  · rw [hwords]
    exact h.one h1

theorem PayloadRan.arrives (h : PayloadRan (g .unpacker) s t) (q : QueueRan g s t) (hm : PortMoves s t)
    (k : Arrives r t u) : PayloadRan (g .unpacker) s u := by
  refine ⟨h.on.trans (k.payload.of_moves hm), fun h0 hw => ?_, fun h0 => k.payloadWords.trans (h.none h0),
    fun h1 hw => k.payloadWords.trans (h.one h1 hw)⟩
  rw [k.payloadKept fun e => k.fresh (e ▸ q.mem_waiting hw h0)]
  exact h.kept h0 hw

theorem TickRan.arrives (h : TickRan g s t) (k : Arrives r t u) : TickRan g s u where
  moves := h.moves.trans k.moves
  queue := h.queue.arrives k (h.mayRequest k.may)
  lane l := (h.lane l).arrives h.queue h.moves k
  payload := h.payload.arrives h.queue h.moves k
  load := by
    refine ⟨fun h0 => k.loader.trans (h.load.kept h0), fun hl => h.load.unfinished ?_⟩
    rw [State.mayRequest, k.loader] at hl
    exact hl

/-! ### A grant -/

theorem LaneRan.grants {l : LaneId} (h : LaneRan (g (.composer l)) s t l) (hm : PortMoves s t) (k : Grants r t u) :
    LaneRan (oneMore r g (.composer l)) s u l := by
  have hlane := k.lane l
  by_cases hr : r = .composer l
  · rw [if_pos hr] at hlane
    subst hr
    have hread := rowsRead_words t (t.lane l)
    rw [oneMore_same]
    refine ⟨h.on.trans ?_, fun h0 => by omega, fun h0 => by omega, fun h1 => ?_⟩
    · rw [hlane]
      exact (rowsOn_rowsRead t _).of_moves hm
    · have h0 : g (.composer l) = 0 := by omega
      obtain ⟨hwords, hasked⟩ := h.none h0
      rw [hlane]
      refine ⟨fun hw => ?_, fun ha => by omega⟩
      rw [h.kept h0 (.inl hw)] at hread
      exact h.kept h0 (.inl hw) ▸ hread
  · rw [if_neg hr] at hlane
    rw [oneMore_ne (Ne.symm hr)]
    refine ⟨hlane ▸ h.on, fun h0 hw => hlane.trans (h.kept h0 (hw.imp_right fun hn hmem => hn ?_)), hlane ▸ h.none,
      hlane ▸ h.one⟩
    rw [k.waiting]
    exact List.mem_filter.2 ⟨hmem, by simpa using Ne.symm hr⟩

theorem PayloadRan.grants (h : PayloadRan (g .unpacker) s t) (hm : PortMoves s t) (k : Grants r t u) :
    PayloadRan (oneMore r g .unpacker) s u := by
  have hpayload := k.payload
  by_cases hr : r = .unpacker
  · rw [if_pos hr] at hpayload
    subst hr
    rw [oneMore_same]
    refine ⟨h.on.trans ?_, fun h0 => by omega, fun h0 => by omega, fun h1 hw => ?_⟩
    · rw [hpayload]
      exact (goesOn_granted _ t _).of_moves hm
    · rw [hpayload, granted_words, h.kept (by omega) hw]
  · rw [if_neg hr] at hpayload
    have hwords := congrArg Reading.words hpayload
    rw [oneMore_ne (Ne.symm hr)]
    exact ⟨hpayload ▸ h.on, fun h0 hw => hpayload.trans (h.kept h0 hw), fun h0 => hwords.trans (h.none h0),
      fun h1 hw => hwords.trans (h.one h1 hw)⟩

theorem LoadRan.grants (h : LoadRan (g .profileLoader) s t) (k : Grants r t u) :
    LoadRan (oneMore r g .profileLoader) s u := by
  refine ⟨fun h0 => ?_, fun hl => h.unfinished (k.loads hl)⟩
  obtain ⟨h0, hr⟩ := oneMore_eq_zero.1 h0
  exact (k.loader (Ne.symm hr)).trans (h.kept h0)

theorem TickRan.grants (h : TickRan g s t) (k : Grants r t u) : TickRan (oneMore r g) s u where
  moves := h.moves.trans k.moves
  queue := h.queue.grants h.moves k
  lane l := (h.lane l).grants h.moves k
  payload := h.payload.grants h.moves k
  load := h.load.grants k

end

/-- The memory port within a tick (R156). -/
theorem tickRan_portRuns (s : State) : ∃ g, TickRan g s (portRuns s) := by
  refine portRuns_induction (P := fun t => ∃ g, TickRan g s t) ⟨_, TickRan.start s⟩ (fun r n t h => ?_) fun t h => ?_
  · obtain ⟨g, hg⟩ := h
    rcases requestArrives_arrives r n t with he | hk
    · exact ⟨g, he.symm ▸ hg⟩
    · exact ⟨g, hg.arrives hk⟩
  · obtain ⟨g, hg⟩ := h
    rcases grantNext_grants t with he | ⟨r, hk⟩
    · exact ⟨g, he.symm ▸ hg⟩
    · exact ⟨_, hg.grants hk⟩

end Sys2Proof.Machine
end

section
/-! ## Requests at the memory port -/

namespace Sys2Proof.Machine

section
variable {g : Requester → Nat} {s t : State}

/-! ### A tick at the memory port -/

/-- Where the Lander's request is outstanding, it waits with the others (R34, R156). -/
theorem lander_mem_requests (h : landerRequest s ≠ []) : .lander ∈ s.requests := by
  obtain ⟨q, hq⟩ := List.exists_mem_of_ne_nil _ h
  have hmem : q ∈ s.requests := List.mem_append_left _ hq
  unfold landerRequest at hq
  split at hq
  · split at hq
    · exact List.mem_singleton.1 hq ▸ hmem
    · cases hq
  · cases hq
  · cases hq

/-- While the Lander's request waits, nothing of classes 4 to 6 is granted (R156). -/
theorem TickRan.lander (h : TickRan g s t) (hl : landerRequest s ≠ []) :
    (∀ r, 3 < requestClass s r → g r = 0) ∧ t.arbLast4 = s.arbLast4 := by
  have hzero (r : Requester) (hr : 3 < requestClass s r) : g r = 0 :=
    h.queue.classes .lander (lander_mem_requests hl) (h.queue.within _ (by decide)) r hr
  refine ⟨hzero, ?_⟩
  rcases h.queue.last 4 (.inr rfl) with ⟨hlast, -⟩ | ⟨hclass, hne, -⟩
  · exact hlast
  · exact absurd (hzero (.composer (t.lastIn 4)) (by rw [requestClass, hclass]; decide)) hne

/-- A context's row over a tick (R99, R107). -/
theorem TickRan.row (h : TickRan g s t) (l : LaneId) {c : Latched} {p : Page} (hp : s.page c.ctx.frame = some p) :
    ((s.lane l).frontCtx = some c → ∃ d, (t.lane l).frontCtx = some d ∧ c.GoesOn p s d) ∧
    ((s.lane l).backCtx = some c → ∃ d, (t.lane l).backCtx = some d ∧ c.GoesOn p s d) := by
  obtain ⟨hfront, hback⟩ := (h.lane l).on
  refine ⟨fun hc => ?_, fun hc => ?_⟩
  · obtain ⟨d, hd, hon⟩ := CtxOn.some_left (hc ▸ hfront)
    exact ⟨d, hd, hon.spans p hp⟩
  · obtain ⟨d, hd, hon⟩ := CtxOn.some_left (hc ▸ hback)
    exact ⟨d, hd, hon.spans p hp⟩

/-- While a request waits, no lane of a lower class has a grant, and one of its class one at most (R156). -/
theorem TickRan.turns (h : TickRan g s t) {q : Requester} (hq : q ∈ s.waiting) (h0 : g q = 0) (l : LaneId) :
    (requestClass s q < composerClass s l → (t.lane l).wordsRead = (s.lane l).wordsRead) ∧
    (requestClass s q = composerClass s l →
      (.composer l ∈ s.waiting → (t.lane l).wordsRead ≤ (s.lane l).wordsRead + (s.lane l).wordsAsked) ∧
      ((s.lane l).wordsAsked = 0 → (t.lane l).wordsRead ≤ (s.lane l).wordsRead + 8)) := by
  refine ⟨fun hlt => ?_, fun heq => ?_⟩
  · exact ((h.lane l).none (h.queue.classes q (List.mem_append_right _ hq) h0 (.composer l) hlt)).1
  · obtain ⟨k, rfl⟩ := composer_of_class (heq ▸ composerClass_cases s l)
    rcases (h.queue.rotation k hq h0).once l heq.symm with hl | ⟨hl, -⟩
    · have hwords := ((h.lane l).none hl).1
      exact ⟨fun _ => by omega, fun _ => by omega⟩
    · exact (h.lane l).one hl

/-- The Unpacker's grants while a request waits (R156). -/
theorem TickRan.turn (h : TickRan g s t) {q : Requester} (hq : q ∈ s.waiting) (h0 : g q = 0) :
    (requestClass s q < 5 → t.payloadRead.words = s.payloadRead.words) ∧
    (q = .profileLoader → t.payloadRead.words = s.payloadRead.words ∨
      t.payloadRead.words = s.payloadRead.words + s.payloadRead.asked) := by
  refine ⟨fun hlt => h.payload.none (h.queue.classes q (List.mem_append_right _ hq) h0 .unpacker hlt), ?_⟩
  rintro rfl
  exact (h.queue.arrival .profileLoader hq rfl h0 .unpacker rfl).imp (fun hu => h.payload.none hu)
    fun ⟨hu, hmem, _⟩ => h.payload.one hu hmem

/-- A class's pointer over a tick (R156). -/
theorem TickRan.last (h : TickRan g s t) {c : Nat} (hc : c = 1 ∨ c = 4) :
    (t.lastIn c = s.lastIn c ∧ ∀ l, .composer l ∈ s.waiting → composerClass s l = c →
      .composer l ∈ s.waiting.filter fun r => g r == 0) ∨
    composerClass s (t.lastIn c) = c ∧
      (.composer (t.lastIn c) ∈ s.waiting ∨ rowRequests s (t.lastIn c) = true) :=
  (h.queue.last c hc).imp
    (fun ⟨hlast, hall⟩ => ⟨hlast, fun l hl hcl => List.mem_filter.2 ⟨hl, beq_iff_eq.2 (hall l hcl)⟩⟩)
    fun ⟨hcl, _, hmem⟩ => ⟨hcl, hmem⟩

/-- What the memory port does in a tick: the requests left are those never granted (R156). -/
theorem TickRan.portRan (h : TickRan g s t) :
    ∃ came, PortRan (s.waiting.filter fun r => g r == 0) came s t := by
  obtain ⟨came, hwaiting, hcame⟩ := h.queue.waiting
  have mem_left {r : Requester} : (r ∈ s.waiting.filter fun r => g r == 0) ↔ r ∈ s.waiting ∧ g r = 0 := by simp
  refine ⟨came, hwaiting, List.filter_sublist, h.queue.nodup, hcame,
    fun r hr hc => mem_left.2 ⟨hr, h.queue.within r hc⟩, fun q hq r hr hlt => ?_, fun q hq r hr hq5 hr5 hidx => ?_,
    fun l k hl hk hcl hturn => ?_, h.last (.inl rfl), h.last (.inr rfl), fun hl => ?_, h.moves.lanes,
    fun l c p hp => h.row l hp, h.payload.on, ⟨fun l hl => ?_, fun hu => ?_⟩, fun q hq l _ => ?_, fun q hq => ?_⟩
  · obtain ⟨hq, h0⟩ := mem_left.1 hq
    exact mem_left.2 ⟨hr, h.queue.classes q (List.mem_append_right _ hq) h0 r hlt⟩
  · obtain ⟨hq, h0⟩ := mem_left.1 hq
    rcases h.queue.arrival q hq hq5 h0 r hr5 with hr0 | ⟨hr1, -, hle⟩
    · exact mem_left.2 ⟨hr, hr0⟩
    · obtain rfl := (List.idxOf_inj hq).1 (le_antisymm hidx hle)
      omega
  · obtain ⟨hl, h0⟩ := mem_left.1 hl
    obtain ⟨hgone, honce⟩ := h.queue.rotation l hl h0
    rcases honce k hcl with hk0 | ⟨-, hlt⟩
    · exact mem_left.2 ⟨hk, hk0⟩
    · exact absurd (hlt.trans_le hgone) (Nat.not_lt.2 hturn)
  · obtain ⟨hzero, hlast⟩ := h.lander hl
    exact ⟨fun r hr h3 => mem_left.2 ⟨hr, hzero r h3⟩, h.load.kept (hzero _ (by simp [requestClass])), hlast,
      h.payload.none (hzero _ (by simp [requestClass])),
      fun l h4 => ((h.lane l).none (hzero (.composer l) (by rw [requestClass, h4]; decide))).1⟩
  · obtain ⟨hl, h0⟩ := mem_left.1 hl
    exact (h.lane l).kept h0 (.inl hl)
  · obtain ⟨hu, h0⟩ := mem_left.1 hu
    exact h.payload.kept h0 hu
  · exact h.turns (mem_left.1 hq).1 (mem_left.1 hq).2 l
  · exact h.turn (mem_left.1 hq).1 (mem_left.1 hq).2

end

/-- What a tick does at the memory port (R156): the clock and the errors that arise touch nothing of it. -/
theorem portRan_tick (s : State) : ∃ left came, PortRan left came s (tick s) := by
  obtain ⟨g, hg⟩ := tickRan_portRuns s
  obtain ⟨came, h⟩ := hg.portRan
  exact ⟨_, came, { h with }⟩

/-! ### Requests granted one after another -/

/-- While another lane of its class waits, a lane has one grant and not two (R156). -/
theorem grantsRun_composer_beside {s : State} {l k : LaneId} (hk : .composer k ∈ s.waiting) (hne : k ≠ l)
    (hc : composerClass s k = composerClass s l) (n : Nat) : s.grantsRun (.composer l) (n + 2) = false := by
  rw [Bool.eq_false_iff, ne_eq, grantsRun_more, goesFirst_composer]
  exact fun h => hne (h.2 k (composer_mem_requests.2 hk) hc)

/-- While the profile loader's request waits, the Unpacker has one grant and not two (R156). -/
theorem grantsRun_unpacker_beside {s : State} (h : .profileLoader ∈ s.waiting) (n : Nat) :
    s.grantsRun .unpacker (n + 2) = false := by
  rw [Bool.eq_false_iff, ne_eq, grantsRun_more]
  intro hfirst
  rcases hfirst .profileLoader (List.mem_append_right _ h) with he | hlt
  · cases he
  · exact absurd hlt (lt_irrefl 5)

/-- The lanes granted before a host request, and the last of them (R156). -/
theorem portGrant_last {s : State} {l : LaneId} (hl : .composer l ∈ s.requests ∧ composerClass s l = 1) :
    (.composer (portGrant s).arbLast1 ∈ s.requests ∧ composerClass s (portGrant s).arbLast1 = 1) ∧
      turnAfter s.arbLast1 l ≤ turnAfter s.arbLast1 (portGrant s).arbLast1 := by
  rw [portGrant_arbLast1]
  obtain ⟨hmem, hle⟩ := le_getLast_of_sorted (lanesFirst_sorted s) (mem_lanesFirst.2 hl) s.arbLast1
  exact ⟨mem_lanesFirst.1 hmem, hle⟩

/-- Without a lane of class 1 that waits, a host request's grant leaves the class's pointer (R156). -/
theorem portGrant_arbLast1_of_none {s : State}
    (h : ∀ l, ¬ (.composer l ∈ s.requests ∧ composerClass s l = 1)) : (portGrant s).arbLast1 = s.arbLast1 := by
  have : lanesFirst s = [] := List.eq_nil_iff_forall_not_mem.2 fun l hl => h l (mem_lanesFirst.1 hl)
  rw [portGrant_arbLast1, this]
  rfl

/-- Settles O21: a request and its grant, the fewest requests, the arbiter's choice, the turns within a class, the grant
to a host request, and what a tick keeps of the requests that wait. -/
theorem arbiterGrantsRequestsInTurn : Obligations.ArbiterGrantsRequestsInTurn := by
  refine ⟨fun s addrs n r hr hn => ?_, fun s c p hp hc => reads_le_rowAccesses hp hc,
    fun s w => ⟨arbiterGrant_isSome, fun r hg => ⟨arbiterGrant_mem hg, (arbiterGrant_eq_some.1 hg).1, ?_⟩⟩,
    fun s l => ⟨rfl, grants_composer⟩, fun s l n => ?_, fun s => ?_, portRan_tick⟩
  · obtain ⟨hpos, -, hlen⟩ := ask_asked n hr
    have hmin := ask_eq_min (addrs := addrs) (r := r) hn
    have hlong := (accessLength_le (addrs.drop r.words)).1
    exact ⟨⟨hpos, by omega, hlen, rfl, rfl, fun i hi => ask_consecutive hi⟩,
      ⟨rfl, rfl, fun hf => granted_failed_eq_none hf hlen⟩, fun ha => requestsLeft_after_grant hr ha⟩
  · rintro l k rfl hk hc
    exact (arbiterGrant_composer.1 hg).2.2 k hk hc
  · exact ⟨grantsRun_one _ _, grantsRun_one _ _, grantsRun_composer_succ s l n, grantsRun_unpacker_succ s n,
      fun k hk hne hc => grantsRun_composer_beside hk hne hc n, fun h => grantsRun_unpacker_beside h n⟩
  · exact ⟨(portGrant_moves s).2, fun l => ⟨fun h => (portGrant_lane s l).trans (if_pos h),
      fun h => (portGrant_lane s l).trans (if_neg h)⟩, fun q => mem_waiting_portGrant, portGrant_arbLast1_of_none,
      fun l hl => portGrant_last hl⟩

end Sys2Proof.Machine
end

section
/-! ## Steps and ticks -/

namespace Sys2Proof.Machine

/-! ### The words a load reads in a tick -/

/-- Words read up to one and then up to another are those up to the further one. -/
theorem readTo_readTo (ld : Load) (n m : Nat) (s : State) : (ld.readTo n s).readTo m s = ld.readTo (max n m) s := by
  simp only [Load.readTo, drop_range, List.append_assoc, ← List.map_append, List.length_append, List.length_map,
    List.length_range']
  by_cases h : n ≤ ld.got.length
  · have h0 : n - ld.got.length = 0 := Nat.sub_eq_zero_of_le h
    have hm : max n m - ld.got.length = m - ld.got.length := by omega
    rw [h0, hm]
    rfl
  · have hlen : ld.got.length + (n - ld.got.length) = n := by omega
    have hsplit : max n m - ld.got.length = (n - ld.got.length) + (m - n) := by omega
    rw [hlen, hsplit, ← List.range'_append_1, hlen]

theorem readTo_length (ld : Load) (n : Nat) (s : State) : (ld.readTo n s).got.length = max ld.got.length n := by
  simp only [Load.readTo, List.length_append, List.length_map, List.length_drop, List.length_range]
  omega

/-- The load `ld'` is `ld` with words read up to some one, as memory holds them in `s`, none of them with an
uncorrectable error (R162). -/
def Load.ReadsOn (s : State) (ld ld' : Load) : Prop :=
  ∃ n, n ≤ 512 ∧ ld' = ld.readTo n s ∧ ∀ i, ld.got.length ≤ i → i < n → s.bad (8 * i) = false

theorem Load.ReadsOn.refl (s : State) (ld : Load) : ld.ReadsOn s ld :=
  ⟨0, Nat.zero_le _, by simp [Load.readTo], fun _ _ h => absurd h (Nat.not_lt_zero _)⟩

/-- A load that goes on reads its next word, where that has no error. -/
theorem Load.ReadsOn.next {s : State} {ld ld' : Load} (h : ld.ReadsOn s ld') (hl : ld'.got.length < 512)
    (hb : s.bad (8 * ld'.got.length) = false) : ld.ReadsOn s (ld'.readTo (ld'.got.length + 1) s) := by
  obtain ⟨n, hn, rfl, hclean⟩ := h
  rw [readTo_length] at hl hb ⊢
  refine ⟨max ld.got.length n + 1, hl, ?_, fun i hi hlt => ?_⟩
  · rw [readTo_readTo]
    congr 1
    omega
  · by_cases hin : i < n
    · exact hclean i hi hin
    · rwa [show i = max ld.got.length n by omega]

/-- What a grant of the loader's does to its load: it stays, or reads its next word (R162). -/
theorem loaderGranted_loader (s : State) : (loaderGranted s).loader = s.loader ∨
    ∃ ld, s.loader = some ld ∧ ld.got.length < 512 ∧ s.bad (8 * ld.got.length) = false ∧
      (loaderGranted s).loader = some (ld.readTo (ld.got.length + 1) s) := by
  unfold loaderGranted
  split
  · exact .inl rfl
  · next ld hld =>
    split
    · next hun =>
      split
      · exact .inl rfl
      · next hbad =>
        have hlt : ld.got.length < 512 := of_decide_eq_true (Bool.and_eq_true_iff.1 hun).1
        exact .inr ⟨ld, hld, hlt, Bool.eq_false_of_not_eq_true hbad, rfl⟩
    · exact .inl rfl

/-- What a grant in a tick does to a load in progress: it stays, or reads its next word (R162). -/
theorem grantNext_loader (s : State) : (grantNext s).loader = s.loader ∨
    ∃ ld, s.loader = some ld ∧ ld.got.length < 512 ∧ s.bad (8 * ld.got.length) = false ∧
      (grantNext s).loader = some (ld.readTo (ld.got.length + 1) s) := by
  rcases grantNext_cases s with h | ⟨l, -, h⟩ | ⟨-, h⟩ | ⟨-, h⟩ <;> rw [h]
  · exact .inl rfl
  · exact .inl (grantLane_loader l s)
  · exact .inl rfl
  · exact loaderGranted_loader s

/-- A word is read as memory holds it, which the memory port's events leave as it is. -/
theorem PortMoves.readTo {s t : State} (h : PortMoves s t) (ld : Load) (n : Nat) : ld.readTo n t = ld.readTo n s := by
  rw [h.state]
  rfl

/-- The load in progress as the memory port runs from `s` to `t`. -/
def LoaderRan (s t : State) : Prop :=
  PortMoves s t ∧ (s.loader = none → t.loader = none) ∧
    ∀ ld, s.loader = some ld → ∃ ld', t.loader = some ld' ∧ ld.ReadsOn s ld'

/-- In a tick a load reads on, word by word (R156, R162). -/
theorem loaderRan_portRuns (s : State) : LoaderRan s (portRuns s) := by
  refine portRuns_induction ⟨PortMoves.refl s, id, fun ld h => ⟨ld, h, .refl s ld⟩⟩ (fun r n t h => ?_) fun t h => ?_
  · obtain ⟨hmoves, hidle, hload⟩ := h
    have hsame : (requestArrives r n t).loader = t.loader := by
      rcases requestArrives_arrives r n t with h | h
      · rw [h]
      · exact h.loader
    exact ⟨hmoves.trans (requestArrives_moves r n t), hsame ▸ hidle, hsame ▸ hload⟩
  · obtain ⟨hmoves, hidle, hload⟩ := h
    refine ⟨hmoves.trans (grantNext_moves t), ?_⟩
    rcases grantNext_loader t with hsame | ⟨ld', hld', hlt, hbad, hnext⟩
    · exact hsame ▸ ⟨hidle, hload⟩
    · rw [hmoves.bad] at hbad
      rw [hmoves.readTo] at hnext
      refine ⟨fun h => absurd (hidle h) (by simp [hld']), fun ld hld => ⟨_, hnext, ?_⟩⟩
      obtain ⟨ld'', hld'', hon⟩ := hload ld hld
      obtain rfl := Option.some.inj (hld''.symm.trans hld')
      exact hon.next hlt hbad

/-! ### Errors that arise -/

/-- A tick takes no error away (R155). -/
theorem mem_errorsArisen {s : State} {w : Nat} (h : w ∈ s.badWords) : w ∈ errorsArisen s := by
  unfold errorsArisen
  split
  · split
    · exact mem_insertSorted.2 (.inr h)
    · exact h
  · exact h

/-! ### A step -/

/-- A step with no command waiting is a tick. -/
theorem step_of_idle {s : State} (h : s.pending = []) : step s = .next (tick s) := by rw [step, h]

/-- Settles O1: a step unfolds to its command, and a tick to what the memory port does and the error that arises. -/
theorem stepRunsFrontCommand : Obligations.StepRunsFrontCommand := by
  refine ⟨fun _ _ _ => rfl, fun s h => ⟨tick s, step_of_idle h, ?_, tick_lanes s, ?_, fun w hw => ?_, ?_, ?_, ?_⟩⟩
  · simp only [tick]
    rw [(portRuns_moves s).state]
  · rw [tick_clock]
    simp [BitVec.toNat_add]
  · exact mem_errorsArisen ((portRuns_badWords s).symm ▸ hw)
  · exact (loaderRan_portRuns s).2.1
  · intro ld hld
    obtain ⟨ld', hld', n, hn, rfl, hclean⟩ := (loaderRan_portRuns s).2.2 ld hld
    exact ⟨n, hn, hld', fun i hi hlt => by simpa [State.bad, wordOf] using hclean i hi hlt⟩
  · intro b hb hr
    obtain ⟨left, came, hran⟩ := portRan_tick s
    exact (hran.lander (by simp [landerRequest, hb, hr])).2.1

end Sys2Proof.Machine
end

section
/-! ## What only a reset or a judged load changes -/

namespace Sys2Proof.Machine

/-- The plant clock, the engine state and the latched profile (R161, R163, R169). -/
def State.plant (s : State) : Tick × Engine × Option Profile := (s.clock, s.engine, s.profile)

/-- What is steady holds the plant. -/
theorem plant_of_steady {s t : State} (h : t.steady = s.steady) : t.plant = s.plant := (congrArg State.plant h :)

theorem Reacts.plant {s t : State} (h : Reacts s t) : t.plant = s.plant := plant_of_steady h.steady

theorem PortMoves.plant {s t : State} (h : PortMoves s t) : t.plant = s.plant := by
  rw [h.state]
  rfl

/-! ### Shared operations -/

@[simp] theorem plant_useFree (s : State) : (useFree s).plant = s.plant := rfl
@[simp] theorem plant_respond (r : HostResponse) (s : State) : (respond r s).plant = s.plant := rfl
@[simp] theorem plant_portTaken (s : State) : (portTaken s).plant = s.plant := rfl
@[simp] theorem plant_served (r : Requester) (s : State) : (s.served r).plant = s.plant := rfl
@[simp] theorem plant_modLane (l : LaneId) (g : Lane → Lane) (s : State) : (modLane l g s).plant = s.plant := rfl
@[simp] theorem plant_modPlate (l : LaneId) (t : Tag) (g : Plate → Plate) (s : State) :
    (modPlate l t g s).plant = s.plant := rfl
@[simp] theorem plant_sendMsg (l : LaneId) (m : SetterMsg) (s : State) : (sendMsg l m s).plant = s.plant := rfl
@[simp] theorem plant_removePlate (l : LaneId) (t : Tag) (s : State) : (removePlate l t s).plant = s.plant := rfl
@[simp] theorem plant_setPage (f : Nat) (r : Option Page) (s : State) : (setPage f r s).plant = s.plant := rfl
@[simp] theorem plant_writeWords (a : Nat) (bs : List Byte) (s : State) : (writeWords a bs s).plant = s.plant := rfl
@[simp] theorem plant_storeBeat (a : Nat) (be : Enables) (d : Beat) (s : State) :
    (storeBeat a be d s).plant = s.plant := rfl
@[simp] theorem plant_freeSlots (ns : List Nat) (s : State) : (freeSlots ns s).plant = s.plant := rfl
@[simp] theorem plant_withMemory (s t : State) : (s.withMemory t).plant = s.plant := rfl

@[simp] theorem plant_modPage (f : Nat) (g : Page → Page) (s : State) : (modPage f g s).plant = s.plant := by
  unfold modPage
  split <;> rfl

@[simp] theorem plant_submit (r : Report) (s : State) : (submit r s).plant = s.plant := (submit_reacts r s).plant

@[simp] theorem plant_noteDrop (s : State) : (noteDrop s).plant = s.plant := (noteDrop_reacts s).plant

@[simp] theorem plant_releaseLock (k : Key) (s : State) : (releaseLock k s).plant = s.plant :=
  (releaseLock_reacts k s).plant

@[simp] theorem plant_portGrant (s : State) : (portGrant s).plant = s.plant := (portGrant_moves s).1.plant

@[simp] theorem plant_loaderReadsOn (s : State) : (loaderReadsOn s).plant = s.plant := by simp [State.plant]

@[simp] theorem plant_choose (l : LaneId) (s : State) : (choose l s).plant = s.plant := (choose_reacts l s).plant

@[simp] theorem plant_announce (s : State) : (announce s).plant = s.plant := (announce_reacts s).plant

@[simp] theorem plant_announceIf (b : Bool) (s : State) : (announceIf b s).plant = s.plant :=
  (announceIf_reacts b s).plant

@[simp] theorem plant_takeWork (b : Bool) (s : State) : (takeWork b s).plant = s.plant := (takeWork_reacts b s).plant

@[simp] theorem plant_settleLocks (a b s : State) : (settleLocks a b s).plant = s.plant :=
  (settleLocks_reacts a b s).plant

@[simp] theorem plant_lateTest (l : LaneId) (tag : Tag) (s : State) : (lateTest l tag s).plant = s.plant :=
  (lateTest_reacts l tag s).plant

@[simp] theorem plant_recount (f : Nat) (ts : List (Nat × Nat)) (b s : State) : (recount f ts b s).plant = s.plant :=
  plant_modPage f _ s

@[simp] theorem plant_setPhotoFlags (f : Nat) (v : Bool) (ts : List (Nat × Nat)) (s : State) :
    (setPhotoFlags f v ts s).plant = s.plant := plant_modPage f _ s

@[simp] theorem plant_markDone (o : Nat) (s : State) : (markDone o s).plant = s.plant := by
  rw [markDone_eq]
  rfl

/-! ### Plates and lanes -/

@[simp] theorem plant_tryStart (l : LaneId) (s : State) : (tryStart l s).plant = s.plant := by
  unfold tryStart
  split <;> simp [sendStart_eq]

@[simp] theorem plant_startThenChoose (l : LaneId) (s : State) : (startThenChoose l s).plant = s.plant := by
  unfold startThenChoose
  split <;> simp [sendStart_eq]

@[simp] theorem plant_dropFront (l : LaneId) (s : State) : (dropFront l s).plant = s.plant := rfl

@[simp] theorem plant_dropBack (l : LaneId) (s : State) : (dropBack l s).plant = s.plant := rfl

@[simp] theorem plant_endPlate (p : Plate) (e : PlateEnd) (s : State) : (endPlate p e s).plant = s.plant := by
  unfold endPlate
  rw [plant_removePlate]
  split <;> simp

@[simp] theorem plant_returnPlate (p : Plate) (n : Nat) (s : State) : (returnPlate p n s).plant = s.plant := by
  unfold returnPlate
  rw [plant_lateTest, plant_modLane]
  split <;> simp

@[simp] theorem plant_giveBack (l : LaneId) (s : State) : (giveBack l s).plant = s.plant := by
  unfold giveBack
  split <;> simp

@[simp] theorem plant_spoil (p : Plate) (c : SpoilCause) (s : State) : (spoil p c s).plant = s.plant := by simp [spoil]

@[simp] theorem plant_cancelFront (p : Plate) (s : State) : (cancelFront p s).plant = s.plant := rfl

@[simp] theorem plant_resolveFront (l : LaneId) (s : State) : (resolveFront l s).plant = s.plant := by
  unfold resolveFront
  split
  · rfl
  · dsimp only
    split
    · simp
    · split <;> simp

@[simp] theorem plant_leaveFront (l : LaneId) (b s : State) : (leaveFront l b s).plant = s.plant := by
  unfold leaveFront
  split <;> simp

@[simp] theorem plant_takeMessage (l : LaneId) (s : State) : (takeMessage l s).plant = s.plant := by
  unfold takeMessage
  dsimp only
  split <;> simp

@[simp] theorem plant_stray (l : LaneId) (m v : Nat) (s : State) : (stray l m v s).plant = s.plant := by simp [stray]

@[simp] theorem plant_sendRow (l : LaneId) (r : BufferedRow) (rest : List BufferedRow) (s : State) :
    (sendRow l r rest s).plant = s.plant := rfl

@[simp] theorem plant_finishFront (l : LaneId) (p : Plate) (s : State) : (finishFront l p s).plant = s.plant := rfl

@[simp] theorem plant_feed (l : LaneId) (n : Nat) (s : State) : (feed l n s).plant = s.plant := by
  induction n generalizing s with
  | zero => rfl
  | succ n ih =>
    unfold feed
    split
    · split
      · dsimp only
        split
        · rw [plant_finishFront, plant_sendRow]
        · rw [ih, plant_sendRow]
      · rfl
    · rfl

theorem plant_readyTaken (l : LaneId) (s : State) : (readyTaken l s).plant = s.plant := by
  unfold readyTaken
  split <;> simp

theorem plant_pullTaken (l : LaneId) (n : BitVec 16) (s : State) : (pullTaken l n s).plant = s.plant := by
  unfold pullTaken
  split
  · split
    · simp
    · split
      · split
        · unfold underrun
          split <;> simp
        · simp [feedAll]
      · split <;> simp
  · simp

theorem plant_exposedTaken (l : LaneId) (tag : Tag) (s : State) : (exposedTaken l tag s).plant = s.plant := by
  unfold exposedTaken
  split
  · split
    · unfold exposeFront
      simp only [plant_settleLocks, plant_tryStart]
      split <;> simp
    · simp
  · simp

theorem plant_ejectedTaken (l : LaneId) (tag : Tag) (s : State) : (ejectedTaken l tag s).plant = s.plant := by
  unfold ejectedTaken
  split
  · split <;> simp [afterResolve]
  · simp

theorem plant_faultTaken (l : LaneId) (c : FaultCause) (s : State) : (faultTaken l c s).plant = s.plant := by
  have hfront : (faultFront l s).plant = s.plant := by
    unfold faultFront
    split
    · split <;> simp
    · rfl
  simp only [faultTaken, plant_settleLocks, plant_submit, plant_modLane]
  split <;> simp [hfront]

theorem plant_takeLoss (l : LaneId) (s : State) : (takeLoss l s).plant = s.plant := by
  have hfront (t : State) : (lossFront l t).plant = t.plant := by
    unfold lossFront
    split
    · split <;> simp
    · rfl
  simp [takeLoss, hfront]

/-! ### Rows -/

@[simp] theorem plant_raiseFlag? (r : Option FlagRequest) (s : State) : (raiseFlag? r s).plant = s.plant := by
  unfold raiseFlag? raiseFlag
  split
  · split
    · split
      · split
        · simp [raiseStore]
        · simp [raiseStore]
        · exact plant_recount _ _ _ _
      · rfl
    · rfl
  · rfl

theorem plant_composeRow (c : Context) (y : Nat) (row : List SpanWork) (s : State) :
    (composeRow c y row s).state.plant = s.plant := by
  have fold (ts : List Nat) (r : RowResult) : (ts.foldl (addSpan c y row) r).state.plant = r.state.plant := by
    induction ts generalizing r with
    | nil => rfl
    | cons tx ts ih =>
      rw [List.foldl_cons, ih]
      unfold addSpan
      split <;> simp
  exact fold _ _

theorem plant_noteRowGrant (l : LaneId) (c : Latched) (s : State) : (noteRowGrant l c s).plant = s.plant := by
  unfold noteRowGrant
  split
  · exact (noteGrant_moves l s).plant
  · rfl

theorem plant_storeError (l : LaneId) (m : RowMark) (s : State) : (storeError l m s).plant = s.plant := by
  unfold storeError
  split
  · split
    · split <;> simp
    · rfl
  · simp

theorem plant_rowPlaced (l : LaneId) (m : RowMark) (s : State) : (rowPlaced l m s).plant = s.plant := by
  cases m
  · exact plant_feed _ _ _
  · exact plant_tryStart _ _

theorem plant_rowComposed (l : LaneId) (s : State) : (rowComposed l s).plant = s.plant := by
  unfold rowComposed
  split
  · split
    · rfl
    · unfold composeNext
      dsimp only
      split
      · rw [plant_storeError, placeRow, plant_modLane, plant_composeRow, plant_noteRowGrant]
      · rw [plant_rowPlaced, placeRow, plant_modLane, plant_composeRow, plant_noteRowGrant]
  · rfl

/-! ### Orders -/

@[simp] theorem plant_takeOrder (s : State) : (takeOrder s).plant = s.plant := by
  unfold takeOrder
  split <;> rfl

@[simp] theorem plant_finishOrder (s : State) : (finishOrder s).plant = s.plant := plant_takeOrder _

@[simp] theorem plant_answer (o : Order) (oc : OrderOutcome) (s : State) : (answer o oc s).plant = s.plant :=
  plant_submit _ s

theorem plant_handleOrder {decideIt : Order → State → State} (h : ∀ o s, (decideIt o s).plant = s.plant) (kind : Byte)
    (s : State) : (handleOrder kind decideIt s).plant = s.plant := by
  unfold handleOrder
  split
  · split <;> simp [h]
  · rfl

theorem plant_assembleBytes (bs : List Byte) (s : State) : (assembleBytes bs s).2.plant = s.plant := by
  induction bs generalizing s with
  | nil => rfl
  | cons b bs ih =>
    unfold assembleBytes
    split
    · exact ih _
    · split
      · exact (ih _).trans (plant_takeOrder _)
      · rfl

theorem plant_offerOrder (a : Addr) (bs : List Byte) (s : State) : (offerOrder a bs s).plant = s.plant := by
  unfold offerOrder settleOrder
  dsimp only
  split
  · exact plant_assembleBytes bs s
  · exact plant_assembleBytes bs s

theorem plant_recordQueued (s : State) : (recordQueued s).plant = s.plant := by
  unfold recordQueued
  split
  · split
    · exact (plant_offerOrder _ _ _).trans (plant_takeOrder _)
    · rfl
  · rfl

theorem plant_orderTimeout (s : State) : (orderTimeout s).plant = s.plant := by
  unfold orderTimeout
  split
  · split
    · exact plant_submit _ _
    · rfl
  · rfl

theorem plant_decideQueue (o : Order) (s : State) : (decideQueue o s).plant = s.plant := by
  unfold decideQueue
  split
  · simp
  · split
    · simp
    · split
      · simp
      · split <;> simp [acceptPlate]

theorem plant_decideWithdraw (o : Order) (s : State) : (decideWithdraw o s).plant = s.plant := by
  unfold decideWithdraw withdrawLive
  split
  · simp
  · split
    · simp
    · split <;> simp [withdrawLoading]

theorem plant_foldl {α : Type} {step : State → α → State} (h : ∀ t a, (step t a).plant = t.plant) (xs : List α)
    (s : State) : (xs.foldl step s).plant = s.plant := by
  induction xs generalizing s with
  | nil => rfl
  | cons x xs ih => exact (ih _).trans (h s x)

theorem plant_withdrawQueued (k : Key) (l : LaneId) (s : State) : (withdrawQueued k l s).plant = s.plant :=
  plant_foldl (fun t p => plant_endPlate p _ t) _ s

theorem plant_dropDeferred (f : Nat) (s : State) : (dropDeferred f s).plant = s.plant := by
  unfold dropDeferred
  split
  · rw [reclaim_eq]
    exact (plant_modPage _ _ _).trans (plant_foldl (step := fun t o => setEntry o .done t) (fun _ _ => rfl) _ s)
  · rfl

theorem plant_unbindProof (f : Nat) (s : State) : (unbindProof f s).plant = s.plant := by
  unfold unbindProof
  split
  · split <;> rfl
  · rfl

theorem plant_freeRecord (f : Nat) (s : State) : (freeRecord f s).plant = s.plant := by
  unfold freeRecord
  split <;> simp

@[simp] theorem plant_completePurge (k : Key) (f : Nat) (tag : Tag) (s : State) :
    (completePurge k f tag s).plant = s.plant := by
  have hpatches (t : State) : (dropPatches f t).plant = t.plant := rfl
  simp only [completePurge, plant_submit, plant_freeRecord, plant_unbindProof, hpatches, plant_dropDeferred, withdrawAll,
    plant_withdrawQueued]

theorem plant_decidePurge (o : Order) (s : State) : (decidePurge o s).plant = s.plant := by
  unfold decidePurge
  split
  · simp
  · split
    · simp
    · split
      · simp
      · split
        · simp only [purgeStalled, plant_takeWork, plant_completePurge, plant_markDone]
          rfl
        · split <;> simp

theorem plant_purgeComplete (s : State) : (purgeComplete s).plant = s.plant := by
  unfold purgeComplete
  split
  · split
    · split
      · simp only [plant_takeWork, plant_completePurge, plant_markDone]
        rfl
      · rfl
    · rfl
  · rfl

theorem plant_decideOpenLocal (o : Order) (s : State) : (decideOpenLocal o s).plant = s.plant := by
  unfold decideOpenLocal
  split
  · simp
  · split
    · simp
    · split <;> simp

@[simp] theorem plant_submitFor (f : Nat) (r : Page → Report) (s : State) : (submitFor f r s).plant = s.plant := by
  unfold submitFor
  split <;> simp

theorem plant_decideCloseLocal (o : Order) (s : State) : (decideCloseLocal o s).plant = s.plant := by
  unfold decideCloseLocal
  split
  · simp
  · split <;> simp

theorem plant_decideProof (o : Order) (s : State) : (decideProof o s).plant = s.plant := by
  unfold decideProof
  split
  · exact plant_answer _ _ _
  · split
    · exact plant_answer _ _ _
    · simp

theorem plant_decideRun (o : Order) (s : State) : (decideRun o s).plant = s.plant := by
  unfold decideRun
  split
  · simp
  · split <;> simp [startRunning]

theorem plant_decideStop (o : Order) (s : State) : (decideStop o s).plant = s.plant := by
  unfold decideStop
  split
  · simp
  · split <;> simp

theorem plant_unknownOrder (s : State) : (unknownOrder s).plant = s.plant := by
  unfold unknownOrder
  split
  · split <;> simp
  · rfl

theorem plant_reloadTaken (s : State) : (reloadTaken s).plant = s.plant := by
  unfold reloadTaken
  split
  · split <;> rfl
  · rfl

/-! ### The Lander -/

theorem plant_examineGroups (gs : List (List Byte)) (s : State) : (examineGroups gs s).plant = s.plant := by
  induction gs generalizing s with
  | nil => rfl
  | cons g gs ih =>
    unfold examineGroups
    split
    · rfl
    · exact ih _

theorem plant_acceptHeader (bs : List Byte) (s : State) : (acceptHeader bs s).plant = s.plant := by
  unfold acceptHeader
  dsimp only
  split
  · exact plant_submit _ s
  · rfl

theorem plant_seekAdmission (s : State) : (seekAdmission s).plant = s.plant := by
  unfold seekAdmission
  split
  · split
    · split <;> rfl
    · rfl
  · rfl
  · rfl

theorem plant_takeByte (b : Byte) (s : State) : (takeByte b s).plant = s.plant := by
  unfold takeByte testHeader
  split
  · split
    · rfl
    · exact plant_examineGroups _ s
  · split
    · rfl
    · split
      · rw [plant_seekAdmission, plant_acceptHeader]
      · exact plant_examineGroups _ _
  · rfl

theorem plant_takeBytes (bs : List Byte) (s : State) : (takeBytes bs s).2.plant = s.plant := by
  induction bs generalizing s with
  | nil => rfl
  | cons b bs ih =>
    unfold takeBytes
    split
    · rfl
    · rw [ih, plant_takeByte]
    · rw [ih, plant_takeByte]

theorem plant_issueRequest (s : State) : (issueRequest s).plant = s.plant := by
  unfold issueRequest
  split
  · split
    · split
      · exact plant_loaderReadsOn s
      · rfl
    · rfl
  · rfl
  · rfl

theorem plant_offerInflow (a : Addr) (bs : List Byte) (s : State) : (offerInflow a bs s).plant = s.plant := by
  unfold offerInflow settleInflow
  dsimp only
  split
  · exact (plant_issueRequest _).trans (plant_takeBytes bs s)
  · exact (plant_issueRequest _).trans (plant_takeBytes bs s)

theorem plant_continueInflow (n : Nat) (s : State) : (continueInflow n s).plant = s.plant := by
  unfold continueInflow
  split
  · exact plant_issueRequest s
  · exact plant_offerInflow _ _ s

theorem plant_storeRing (o : Nat) (bs : List Byte) (s : State) : (storeRing o bs s).plant = s.plant := by
  rw [storeRing_eq, plant_withMemory]

theorem plant_ringWriteDone (s : State) : (ringWriteDone s).plant = s.plant := by
  unfold ringWriteDone
  split
  · split
    · dsimp only
      split
      · rw [plant_continueInflow, landSegment, plant_takeWork]
        exact plant_storeRing _ _ s
      · rw [plant_continueInflow]
        exact plant_storeRing _ _ s
    · rfl
  · rfl
  · rfl

theorem plant_admission (s : State) : (admission s).plant = s.plant := by
  have hrestart (t : State) : (restartHold t).plant = t.plant := by
    unfold restartHold
    split
    · split <;> rfl
    · rfl
  unfold admission
  split
  · split
    · split
      · rw [plant_issueRequest, hrestart]
        rfl
      · rfl
    · rfl
  · rfl
  · rfl

theorem plant_inflowTimeout (s : State) : (inflowTimeout s).plant = s.plant := by
  unfold inflowTimeout
  split
  · unfold cutSegment
    split
    · rw [plant_submit, unwindAdmission_eq, strayRingWrite_eq]
      rfl
    · rfl
    · rfl
  · rfl

/-! ### Host requests and the report writer -/

theorem plant_performWrite (c : WriteClass) (a : Nat) (be : Enables) (d : Beat) (s : State) :
    (performWrite c a be d s).plant = s.plant := by
  unfold performWrite
  split
  · unfold profileWrite
    dsimp only
    split <;> rfl
  · unfold watchConsumed
    split <;> rfl
  · rfl
  · rfl

theorem plant_passWrite (c : WriteClass) (a : Nat) (be : Enables) (d : Beat) (s : State) :
    (passWrite c a be d s).plant = s.plant := by
  unfold passWrite recordRead
  split
  · rw [plant_performWrite, plant_portGrant]
    split <;> simp
  · simp

theorem plant_hostWrite (a : Nat) (be : Enables) (d : Beat) (s : State) : (hostWrite a be d s).plant = s.plant := by
  unfold hostWrite
  split
  · rfl
  · split
    · rfl
    · unfold takeWrite
      split
      · exact plant_offerInflow _ _ _
      · exact plant_offerOrder _ _ _
      · simp [dropWrite]
      · rfl
      · exact plant_passWrite _ _ _ _ _

theorem plant_proofRead (o : Nat) (s : State) : (proofRead o s).plant = s.plant := by
  unfold proofRead
  split
  · split
    · split
      · rw [answerProof, plant_respond, plant_raiseFlag?, proofGrant]
        split <;> simp
      · rfl
    · rfl
  · rfl

theorem plant_hostRead (a : Nat) (s : State) : (hostRead a s).plant = s.plant := by
  unfold hostRead
  split
  · rfl
  · split
    · unfold passRead
      split <;> simp
    · rfl
    · exact plant_proofRead _ s
    · rfl

theorem plant_hostAccess (r : Access) (s : State) : (hostAccess r s).plant = s.plant := by
  cases r with
  | read a => exact plant_hostRead _ s
  | write a be d => exact plant_hostWrite _ be d s

theorem plant_reportWrite (s : State) : (reportWrite s).plant = s.plant := by
  have hhead : (handleHead s).plant = s.plant := by
    unfold handleHead
    split
    · rfl
    · dsimp only
      split
      · split
        · simp [State.plant, writeRecord]
        · rfl
      · exact plant_noteDrop _
  have howed (t : State) : (writeOwed t).plant = t.plant := by
    unfold writeOwed
    split
    · simp [State.plant]
    · rfl
  unfold reportWrite
  rw [howed]
  split
  · exact hhead
  · rfl

/-! ### Segments -/

@[simp] theorem plant_endSegment (g : Segment) (s : State) : (endSegment g s).plant = s.plant := by
  unfold endSegment
  split
  · rfl
  · rw [plant_takeWork, plant_markDone]
    rfl

@[simp] theorem plant_refuseSegment (n : NoticeKind) (g : Segment) (d : Nat) (s : State) :
    (refuseSegment n g d s).plant = s.plant := by
  simp [refuseSegment, notice]

@[simp] theorem plant_enterStall (g : Segment) (c : StallCause) (o : Option OpenFields) (s : State) :
    (enterStall g c o s).plant = s.plant := plant_submit _ _

@[simp] theorem plant_recountTell (f : Nat) (ts : List (Nat × Nat)) (b s : State) :
    (recountTell f ts b s).plant = s.plant := by
  simp [recountTell]

theorem plant_whenRead {next : State → State} (h : ∀ t, (next t).plant = t.plant) (g : Segment) (n : Nat) (s : State) :
    (whenRead g n next s).plant = s.plant := by
  unfold whenRead
  split
  · exact h _
  · rfl

theorem plant_deferSegment (g : Segment) (f : Nat) (s : State) : (deferSegment g f s).plant = s.plant := by
  unfold deferSegment
  split
  · split
    · rw [plant_takeWork, deferOn, plant_modPage]
      rfl
    · simp
  · rfl

theorem plant_handleKind {apply : Segment → Nat → State → State} (h : ∀ g f t, (apply g f t).plant = t.plant)
    (kind : Byte) (upTo : SegPart) (s : State) : (handleKind kind upTo apply s).plant = s.plant := by
  unfold handleKind
  split
  · split
    · unfold claimThen
      split
      · simp
      · exact plant_deferSegment _ _ s
      · split
        · rfl
        · exact h _ _ _
    · rfl
  · split
    · split
      · exact h _ _ s
      · rfl
    · rfl
  · rfl

theorem plant_createRequest (g : Segment) (o : OpenFields) (b : Bool) (s : State) :
    (createRequest g o b s).plant = s.plant := by
  unfold createRequest
  split
  · simp
  · split
    · split <;> simp
    · exact plant_endSegment g _

theorem plant_openRead (g : Segment) (upTo : SegPart) (s : State) : (openRead g upTo s).plant = s.plant := by
  unfold openRead
  split
  · simp
  · split
    · simp
    · split
      · rfl
      · exact plant_createRequest _ _ _ s

theorem plant_handleOpen (upTo : SegPart) (s : State) : (handleOpen upTo s).plant = s.plant := by
  unfold handleOpen
  split
  · split
    · unfold openTaken
      split
      · simp
      · exact plant_whenRead (plant_openRead _ upTo) _ _ _
    · rfl
  · exact plant_whenRead (plant_openRead _ upTo) _ _ s
  · split
    · exact plant_createRequest _ _ _ s
    · rfl
  · rfl

theorem plant_framesStallEnd (s : State) : (framesStallEnd s).plant = s.plant := by
  unfold framesStallEnd
  split
  · exact plant_createRequest _ _ _ s
  · rfl

theorem plant_changeStrip (f tw i : Nat) (v : StripState) (s : State) : (changeStrip f tw i v s).plant = s.plant := by
  simp [changeStrip, setStrip]

theorem plant_applyStrip (g : Segment) (f : Nat) (s : State) : (applyStrip g f s).plant = s.plant := by
  unfold applyStrip
  split
  · simp
  · next p _ =>
    refine plant_whenRead (fun t => ?_) _ _ s
    split
    · rw [plant_refuseSegment]
      split
      · exact plant_changeStrip _ _ _ _ t
      · rfl
    · have hrows (y : Nat) (rows : List (List Bool)) : (writePageRows f p.tw y rows t).plant = t.plant := by
        rw [writePageRows_eq, writeStretches_eq, plant_withMemory]
      unfold writeStrip
      dsimp only
      split
      · rw [plant_refuseSegment, plant_changeStrip, hrows]
      · rw [plant_endSegment, plant_changeStrip, hrows]

@[simp] theorem plant_reviseIfClosed (f : Nat) (s : State) : (reviseIfClosed f s).plant = s.plant := plant_modPage f _ s

theorem plant_applyPhotoHead (g : Segment) (f : Nat) (s : State) : (applyPhotoHead g f s).plant = s.plant := by
  unfold applyPhotoHead
  split
  · simp
  · refine plant_whenRead (fun t => ?_) _ _ s
    split
    · simp
    · split
      · simp
      · unfold takePhoto
        split
        · split <;> simp [placePhoto]
        · split
          · simp
          · split <;> simp [refusePhoto, placePhoto]

@[simp] theorem plant_flagMissing (f : Nat) (r : PhotoRecord) (a b : Nat) (s : State) :
    (flagMissing f r a b s).plant = s.plant := by
  unfold flagMissing
  split <;> simp

theorem plant_applyPhotoPart (g : Segment) (f : Nat) (s : State) : (applyPhotoPart g f s).plant = s.plant := by
  unfold applyPhotoPart
  split
  · simp
  · split
    · simp
    · refine plant_whenRead (fun t => ?_) _ _ s
      split
      · simp
      · unfold applyRows
        dsimp only
        split <;> simp [writeSampleRows]

theorem plant_endPhotos (f : Nat) (p : Page) (s : State) : (endPhotos f p s).plant = s.plant := by
  refine plant_foldl (fun t r => ?_) _ s
  unfold endPhoto
  split <;> simp

theorem plant_applyPageClose (g : Segment) (f : Nat) (s : State) : (applyPageClose g f s).plant = s.plant := by
  unfold applyPageClose
  split
  · simp
  · refine plant_whenRead (fun t => ?_) _ _ s
    split
    · simp
    · split <;> simp [closePage, endRevision, plant_endPhotos, endStrips]

theorem plant_acceptRemake (f tx ty n : Nat) (s : State) : (acceptRemake f tx ty n s).plant = s.plant := by
  rw [acceptRemake, plant_recountTell, plant_modPage, freeOld_eq]
  rfl

theorem plant_decodeRemake (g : Segment) (f n : Nat) (s : State) : (decodeRemake g f n s).plant = s.plant := by
  have hrows (y : Nat) (rows : List (List Bool)) :
      (writeSlotRows n y rows (if payloadBad s g then useFree s else s)).plant = s.plant := by
    rw [writeSlotRows_eq, writeStretches_eq, plant_withMemory]
    split <;> rfl
  unfold decodeRemake
  dsimp only
  split
  · rw [plant_refuseSegment, plant_freeSlots, hrows]
  · split
    · rw [plant_refuseSegment, plant_freeSlots, hrows]
    · rw [plant_endSegment, plant_acceptRemake, hrows]

theorem plant_tryRemake {lacking s : State} (h : lacking.plant = s.plant) (g : Segment) (f : Nat) :
    (tryRemake g f lacking s).plant = s.plant := by
  unfold tryRemake
  split
  · exact plant_whenRead (plant_decodeRemake _ _ _) _ _ _
  · split
    · simp
    · exact h

theorem plant_applyRemake (g : Segment) (f : Nat) (s : State) : (applyRemake g f s).plant = s.plant := by
  unfold applyRemake
  split
  · exact plant_tryRemake (plant_enterStall _ _ _ s) g f
  · simp

theorem plant_handleRemake (upTo : SegPart) (s : State) : (handleRemake upTo s).plant = s.plant := by
  unfold handleRemake
  split
  · split
    · exact plant_whenRead (plant_decodeRemake _ _ _) _ _ s
    · rfl
  · exact plant_handleKind plant_applyRemake _ upTo s

theorem plant_patchesStallEnd (s : State) : (patchesStallEnd s).plant = s.plant := by
  unfold patchesStallEnd
  split
  · split
    · exact plant_tryRemake rfl _ _
    · rfl
  · rfl

theorem plant_deferralStallEnd (s : State) : (deferralStallEnd s).plant = s.plant := by
  unfold deferralStallEnd
  split
  · split
    · exact plant_takeWork _ _
    · rfl
  · rfl

theorem plant_handlePlain {tell : Segment → State → State} (h : ∀ g t, (tell g t).plant = t.plant)
    (isKind : Byte → Bool) (s : State) : (handlePlain isKind tell s).plant = s.plant := by
  unfold handlePlain
  split
  · split
    · rw [plant_endSegment, h]
    · rfl
  · rfl

/-! ### A load judged -/

@[simp] theorem plant_answerReload (oc : OrderOutcome) (reason offset : Nat) (s : State) :
    (answerReload oc reason offset s).plant = s.plant := by
  unfold answerReload
  split
  · split <;> simp
  · rfl

@[simp] theorem plant_rejectProfile (c : LoadCause) (reason offset : Nat) (s : State) :
    (rejectProfile c reason offset s).plant = s.plant := by
  cases c <;> simp [rejectProfile]

/-- A valid load leaves the clock, and an ACTIVE engine ACTIVE (R163). -/
theorem applyProfile_plant (c : LoadCause) (p : Profile) (s : State) :
    (applyProfile c p s).clock = s.clock ∧ (s.engine = .active → (applyProfile c p s).engine = .active) := by
  have hsaid : (submit (profileLoadedReport c p.generation) { s with profile := some p }).clock = s.clock :=
    submit_clock _ _
  cases c with
  | commit => exact ⟨hsaid, fun _ => rfl⟩
  | warmReset => exact ⟨hsaid, fun _ => rfl⟩
  | reload =>
    have hkept : (applyProfile .reload p s).plant = (s.clock, s.engine, some p) := by
      simp only [applyProfile, startTests, plant_tryStart, plant_answerReload, plant_submit]
      rfl
    obtain ⟨hclock, hrest⟩ := Prod.mk.inj hkept
    exact ⟨hclock, (Prod.mk.inj hrest).1.trans⟩

/-- A load judged leaves the clock, and an ACTIVE engine ACTIVE (R163). -/
theorem loadJudged_plant (s : State) :
    (loadJudged s).clock = s.clock ∧ (s.engine = .active → (loadJudged s).engine = .active) := by
  rcases loadJudged_cases s with ⟨h, -⟩ | ⟨ld, -, -, h⟩ <;> rw [h]
  · exact ⟨rfl, id⟩
  · unfold applyJudgement
    split
    · exact applyProfile_plant _ _ _
    · obtain ⟨hclock, hrest⟩ := Prod.mk.inj (plant_rejectProfile ld.cause _ _ { s.served .profileLoader with loader := none })
      exact ⟨hclock, (Prod.mk.inj hrest).1.trans⟩

/-! ### Every command -/

/-- A command that is no reset and judges no load leaves the plant as it is. -/
theorem plant_exec {c : Instr} {s t : State} (h : exec c s = .next t) (hr : isReset c = false)
    (hj : c ≠ .profileLoadJudged) : t.plant = s.plant := by
  have next {u : State} (e : Host.Outcome.next (φ := Fault) (ρ := Refusal) u = .next t) (k : u.plant = s.plant) :
      t.plant = s.plant := Host.Outcome.next.inj e ▸ k
  cases c with
  | inflowChuteWrite off be d => exact next h (plant_hostWrite _ be d s)
  | admission => exact next h (plant_admission s)
  | ringWriteDone => exact next h (plant_ringWriteDone s)
  | inflowHoldTimeout => exact next h (plant_inflowTimeout s)
  | filler => exact next h (plant_handlePlain (fun _ _ => rfl) _ s)
  | unknownKind => exact next h (plant_handlePlain (fun _ _ => plant_submit _ _) _ s)
  | pageOpen upTo => exact next h (plant_handleOpen upTo s)
  | framesStallEnd => exact next h (plant_framesStallEnd s)
  | strip upTo => exact next h (plant_handleKind plant_applyStrip _ upTo s)
  | photoHead upTo => exact next h (plant_handleKind plant_applyPhotoHead _ upTo s)
  | photoPart upTo => exact next h (plant_handleKind plant_applyPhotoPart _ upTo s)
  | pageClose upTo => exact next h (plant_handleKind plant_applyPageClose _ upTo s)
  | remakeTile upTo => exact next h (plant_handleRemake upTo s)
  | patchesStallEnd => exact next h (plant_patchesStallEnd s)
  | deferralStallEnd => exact next h (plant_deferralStallEnd s)
  | orderChuteWrite off be d => exact next h (plant_hostWrite _ be d s)
  | orderRecordQueued => exact next h (plant_recordQueued s)
  | orderHoldTimeout => exact next h (plant_orderTimeout s)
  | queuePlate => exact next h (plant_handleOrder plant_decideQueue _ s)
  | withdrawPlate => exact next h (plant_handleOrder plant_decideWithdraw _ s)
  | purgePage => exact next h (plant_handleOrder plant_decidePurge _ s)
  | purgeComplete => exact next h (plant_purgeComplete s)
  | openLocalPage => exact next h (plant_handleOrder plant_decideOpenLocal _ s)
  | closeLocalPage => exact next h (plant_handleOrder plant_decideCloseLocal _ s)
  | setProof => exact next h (plant_handleOrder plant_decideProof _ s)
  | runLane => exact next h (plant_handleOrder plant_decideRun _ s)
  | stopLane => exact next h (plant_handleOrder plant_decideStop _ s)
  | reloadProfile => exact next h (plant_reloadTaken s)
  | unknownOrder => exact next h (plant_unknownOrder s)
  | profileLoadJudged => exact absurd rfl hj
  | profileCommitWrite be d => exact next h (plant_hostWrite _ be d s)
  | plateLate tag =>
    refine next h ?_
    split
    · exact plant_lateTest _ tag s
    · rfl
  | laneRowComposed l => exact next h (plant_rowComposed l s)
  | ready l => exact next h ((plant_readyTaken l _).trans (plant_takeMessage l s))
  | pull l n => exact next h ((plant_pullTaken l n _).trans (plant_takeMessage l s))
  | exposed l tag => exact next h ((plant_exposedTaken l tag _).trans (plant_takeMessage l s))
  | ejected l tag => exact next h ((plant_ejectedTaken l tag _).trans (plant_takeMessage l s))
  | setterFault l cause => exact next h ((plant_faultTaken l cause _).trans (plant_takeMessage l s))
  | setterIdle l => exact next h (plant_takeMessage l s)
  | linkLoss l =>
    refine next h ?_
    split
    · exact plant_takeLoss l s
    · rfl
  | laneIdleSend l =>
    refine next h ?_
    split <;> rfl
  | proofRead off => exact next h (plant_hostRead _ s)
  | passingAccess r => exact next h (plant_hostAccess r s)
  | chuteRead c off => exact next h (plant_hostRead _ s)
  | unmappedAccess r => exact next h (plant_hostAccess r s)
  | droppedWrite a be d => exact next h (plant_hostWrite _ be d s)
  | consumedCountWrite be d => exact next h (plant_hostWrite _ be d s)
  | overflowWordWrite be d => exact next h (plant_hostWrite _ be d s)
  | reportWrite => exact next h (plant_reportWrite s)
  | powerOnReset => cases hr
  | warmReset => cases hr

/-- Settles O6: every command but a reset and a judged load leaves clock, engine and profile, and a judged load the
clock and an ACTIVE engine. -/
theorem onlyLoadsAndResetsChangeProfile : Obligations.OnlyLoadsAndResetsChangeProfile := by
  intro c s t h hr
  by_cases hc : c = .profileLoadJudged
  · subst hc
    obtain rfl : loadJudged s = t := Host.Outcome.next.inj h
    exact ⟨(loadJudged_plant s).1, (loadJudged_plant s).2, fun h => absurd rfl h⟩
  · obtain ⟨hclock, hrest⟩ := Prod.mk.inj (plant_exec h hr hc)
    obtain ⟨hengine, hprofile⟩ := Prod.mk.inj hrest
    exact ⟨hclock, hengine.trans, fun _ => ⟨hengine, hprofile⟩⟩

end Sys2Proof.Machine
end

section
/-! ## Profile loads judged -/

namespace Sys2Proof.Machine

/-! ### When the profile loader is granted -/

/-- In class 5 the loader's request is granted where the Unpacker's did not come before it (R156). -/
theorem grantInClass_five_loader {s : State} {w : List Requester} (h : .profileLoader ∈ w) :
    grantInClass s 5 w = some .profileLoader ↔ w.idxOf .profileLoader ≤ w.idxOf .unpacker := by
  obtain ⟨r, hr⟩ := Option.isSome_iff_exists.1 (grantInClass_isSome (s := s) h)
  have hr : grantInClass s 5 w = some r := hr
  obtain ⟨hmem, hclass⟩ := grantInClass_mem hr
  by_cases hu : .unpacker ∈ w
  · have hfive := grantInClass_five (s := s) hu
    rw [hr, Option.some_inj] at hfive ⊢
    rcases requestClass_eq_five.1 hclass with rfl | rfl
    · have hle := hfive.1 rfl
      refine ⟨fun e => (nomatch e), fun hge => ?_⟩
      exact absurd ((List.idxOf_inj hu).1 (le_antisymm hle hge)) (by decide)
    · exact ⟨fun _ => (Nat.lt_of_not_le fun hle => (nomatch hfive.2 hle)).le, fun _ => rfl⟩
  · obtain rfl := (requestClass_eq_five.1 hclass).resolve_left fun e => hu (e ▸ hmem)
    rw [hr, List.idxOf_eq_length hu]
    exact ⟨fun _ => List.idxOf_le_length, fun _ => rfl⟩

/-- When the profile loader's request, which waits or arrives now, is granted before every other (R156). -/
theorem grants_loader {s : State} : s.grants .profileLoader = true ↔
    (∀ q ∈ s.requests, 5 ≤ requestClass s q) ∧ s.requests.idxOf .profileLoader ≤ s.requests.idxOf .unpacker := by
  have hclass : requestClass s .profileLoader = 5 := rfl
  unfold State.grants
  rw [beq_iff_eq, arbiterGrant_eq_some, hclass]
  by_cases hm : .profileLoader ∈ s.requests
  · rw [if_pos (by simpa using hm), grantInClass_five_loader hm]
  · rw [if_neg (by simpa using hm), grantInClass_five_loader (by simp), List.idxOf_append_of_notMem hm,
      List.idxOf_eq_length hm]
    have hall : (∀ q ∈ s.requests ++ [.profileLoader], 5 ≤ requestClass s q) ↔
        ∀ q ∈ s.requests, 5 ≤ requestClass s q := by
      simp [or_imp, forall_and, hclass]
    rw [hall]
    refine and_congr_right fun _ => ?_
    by_cases hu : .unpacker ∈ s.requests
    · rw [List.idxOf_append_of_mem hu]
      simp
    · rw [List.idxOf_append_of_notMem hu, List.idxOf_eq_length hu]
      simp

/-! ### When a load waits -/

/-- A load has words to read while some are unread and none read had an uncorrectable error (R162). -/
theorem unfinished_iff {ld : Load} : ld.unfinished = true ↔ ld.got.length < 512 ∧ none ∉ ld.got := by
  have hall : ld.got.all Option.isSome = true ↔ none ∉ ld.got := by
    rw [List.all_eq_true]
    exact ⟨fun h hn => (nomatch h none hn), fun h w hw => Option.isSome_iff_ne_none.2 fun e => h (e ▸ hw)⟩
  rw [Load.unfinished, Bool.and_eq_true, hall, decide_eq_true_eq]
  rfl

/-- A load with its next word read. -/
theorem readTo_next (ld : Load) (s : State) :
    (ld.readTo (ld.got.length + 1) s).got = ld.got ++ [readWord s ld.got.length] := by
  simp [Load.readTo, drop_range]

theorem readWord_eq_none {s : State} {i : Nat} : readWord s i = none ↔ s.badWords.contains i = true := by
  have hbad : s.bad (8 * i) = s.badWords.contains i := by simp [State.bad, wordOf]
  rw [← Option.not_isSome_iff_eq_none, readWord_isSome, hbad, Bool.not_eq_false]

/-- A load that one more word does not finish, unless the word has an uncorrectable error. -/
theorem unfinished_next {ld : Load} (s : State) : (ld.readTo (ld.got.length + 1) s).unfinished = true ↔
    ld.got.length < 511 ∧ none ∉ ld.got ∧ s.badWords.contains ld.got.length = false := by
  rw [unfinished_iff, readTo_length, readTo_next, List.mem_append, List.mem_singleton, @eq_comm _ none, readWord_eq_none,
    not_or, Bool.not_eq_true]
  exact and_congr_left fun _ => by omega

/-- Which loads wait (R156): those with words to read and no grant, and those that the Unpacker's turn comes before. -/
theorem loadWaits_iff {s : State} {ld : Load} : loadWaits s ld = true ↔ ld.got.length < 512 ∧ none ∉ ld.got ∧
    (s.grants .profileLoader = false ∨
      .unpacker ∈ s.waiting ∧ ld.got.length < 511 ∧ s.badWords.contains ld.got.length = false) := by
  rw [loadWaits, Bool.and_eq_true, unfinished_iff, and_assoc, Bool.or_eq_true, Bool.not_eq_true']
  refine and_congr_right fun hlen => and_congr_right fun hgot => or_congr_right ?_
  by_cases hu : .unpacker ∈ s.waiting
  · have hreach : loaderReach s ld = ld.got.length + 1 := by
      rw [loaderReach, if_pos (by simpa using hu), profileWords]
      omega
    rw [hreach, unfinished_next]
    simp [hu, hgot]
  · have hreach : loaderReach s ld = profileWords := if_neg (by simpa using hu)
    rw [hreach, readTo_unfinished]
    simp [hu]

/-! ### What a judged load sets off -/

/-- A RELOAD PROFILE in hand is answered, and the executor goes on (R165). -/
theorem answerReload_of_inHand {s : State} {o : Order} (h : s.inHand = some o) (hk : o.kind = 9) (oc : OrderOutcome)
    (reason offset : Nat) :
    answerReload oc reason offset s = finishOrder (submit (orderDone o oc reason offset) s) := by
  simp [answerReload, h, hk]

/-- A report submitted goes by the engine no more than by the loader. -/
theorem submit_active (r : Report) (s : State) :
    submit r { s with engine := .active } = { submit r s with engine := .active } :=
  (submit_withReports r (t := { s with engine := .active }) (u := s) rfl).trans
    (congrArg (fun u : State => { u with engine := .active }) (submit_eq r s)).symm

theorem tryStart_loader (l : LaneId) (s : State) : (tryStart l s).loader = s.loader := by
  unfold tryStart
  split
  · exact (congrArg State.loader (choose_reacts l _).steady :)
  · rfl

/-- What the START tests after a RELOAD leave alone (R134, R147). -/
theorem startTests_keeps (s : State) :
    (startTests s).plant = s.plant ∧ (startTests s).loader = s.loader ∧ s.reports <+: (startTests s).reports := by
  simp only [startTests, plant_tryStart, tryStart_loader, true_and]
  exact (tryStart_reports 0 s).trans ((tryStart_reports 1 _).trans ((tryStart_reports 2 _).trans (tryStart_reports 3 _)))

/-- Without a plate LOADING no lane starts one (R134). -/
theorem startTests_of_no_back {s : State} (h : ∀ l, (s.lane l).back = none) : startTests s = s := by
  have hnone (l : LaneId) : tryStart l s = s := tryStart_of_none (startReady_eq_none (.inr (.inl (h l))))
  simp only [startTests, hnone]

/-- A load that waits for nothing is judged (R162). -/
theorem loadJudged_of_not_waits {s : State} {ld : Load} (h : s.loader = some ld) (hw : loadWaits s ld = false) :
    loadJudged s = applyJudgement ld.cause (judge (ld.readTo 512 s).got) (s.served .profileLoader) := by
  simp only [loadJudged, h, hw]
  rfl

/-- A valid COMMIT or WARM RESET: the report, the profile latched, and the engine ACTIVE (R164, R168). -/
theorem applyProfile_of_start {c : LoadCause} (h : c ≠ .reload) (p : Profile) (s : State) :
    applyProfile c p s =
      submit (profileLoadedReport c p.generation) { s with profile := some p, engine := .active } := by
  have hactive := submit_active (profileLoadedReport c p.generation) { s with profile := some p }
  cases c with
  | commit => exact hactive.symm
  | warmReset => exact hactive.symm
  | reload => exact absurd rfl h

/-- A valid RELOAD: the report, the answer, and the START tests (R165). -/
theorem applyProfile_of_reload {s : State} {o : Order} (h : s.inHand = some o) (hk : o.kind = 9) (p : Profile) :
    applyProfile .reload p s = startTests (finishOrder (submit (orderDone o .done 0 0)
      (submit (profileLoadedReport .reload p.generation) { s with profile := some p }))) :=
  congrArg startTests (answerReload_of_inHand ((submit_inHand _ { s with profile := some p }).trans h) hk .done 0 0)

/-- A rejected COMMIT or WARM RESET gives its report alone (R164, R168). -/
theorem rejectProfile_of_start {c : LoadCause} (h : c ≠ .reload) (reason offset : Nat) (s : State) :
    rejectProfile c reason offset s = submit (profileRejectedReport c reason offset) s := by
  cases c with
  | commit => rfl
  | warmReset => rfl
  | reload => exact absurd rfl h

theorem rejectProfile_of_reload {s : State} {o : Order} (h : s.inHand = some o) (hk : o.kind = 9)
    (reason offset : Nat) : rejectProfile .reload reason offset s = finishOrder
      (submit (orderDone o .rejected reason offset) (submit (profileRejectedReport .reload reason offset) s)) :=
  answerReload_of_inHand ((submit_inHand _ _).trans h) hk _ _ _

theorem finishOrder_loader (s : State) : (finishOrder s).loader = s.loader := by
  cases h : s.orderQueue with
  | nil => rw [finishOrder_of_nil h]
  | cons o os => rw [finishOrder_of_cons h]

/-- A valid RELOAD latches the profile, and leaves the engine and a loader that is IDLE; its report and its answer come
first, and alone with no plate LOADING (R165). -/
theorem applyProfile_reload_effects {s : State} {o : Order} (h : s.inHand = some o) (hk : o.kind = 9) (p : Profile) :
    (applyProfile .reload p s).profile = some p ∧ (applyProfile .reload p s).engine = s.engine ∧
      (applyProfile .reload p s).loader = s.loader ∧
      (submit (orderDone o .done 0 0) (submit (profileLoadedReport .reload p.generation) s)).reports <+:
        (applyProfile .reload p s).reports ∧
      ((∀ l, (s.lane l).back = none) → applyProfile .reload p s = finishOrder (submit (orderDone o .done 0 0)
        (submit (profileLoadedReport .reload p.generation) { s with profile := some p }))) := by
  rw [applyProfile_of_reload h hk]
  generalize hu : finishOrder (submit (orderDone o .done 0 0)
    (submit (profileLoadedReport .reload p.generation) { s with profile := some p })) = u
  obtain ⟨hplant, hloader, hreports⟩ := startTests_keeps u
  have hkept : u.plant = (s.clock, s.engine, some p) := by
    rw [← hu, plant_finishOrder, plant_submit, plant_submit]
    rfl
  obtain ⟨-, hrest⟩ := Prod.mk.inj (hplant.trans hkept)
  obtain ⟨hengine, hprofile⟩ := Prod.mk.inj hrest
  refine ⟨hprofile, hengine, ?_, ?_, fun hback => startTests_of_no_back fun l => ?_⟩
  · rw [hloader, ← hu, finishOrder_loader, submit_loader, submit_loader]
  · have hsame : u.reports =
        (submit (orderDone o .done 0 0) (submit (profileLoadedReport .reload p.generation) s)).reports := by
      rw [← hu, finishOrder_reports]
      exact submit_reports_congr _ (submit_reports_congr _ rfl rfl) (by rw [submit_clock, submit_clock])
    exact hsame ▸ hreports
  · have hlane : u.lane l = s.lane l := by
      rw [← hu, finishOrder_lane]
      exact lane_of_lanes ((submit_lanes _ _).trans (submit_lanes _ _)) l
    rw [hlane]
    exact hback l

/-- Settles O39: RELOAD PROFILE taken, when the loader is granted and its load waits, and each judgement of a load that
does not. -/
theorem profileLoadIsJudged : Obligations.ProfileLoadIsJudged := by
  refine ⟨fun s o ho hk hl => ?_, fun s => grants_loader, fun s ld hl hlen hgot hw => ?_, fun s ld hl hready => ?_⟩
  · have htaken : reloadTaken s = startLoad .reload s := by simp [reloadTaken, ho, hk, hl]
    exact congrArg Host.Outcome.next htaken
  · have hwaits : loadWaits s ld = true := loadWaits_iff.2 ⟨hlen, hgot, hw⟩
    have hsame : loadJudged s = s := by simp only [loadJudged, hl, hwaits, if_true]
    exact congrArg Host.Outcome.next hsame
  · have hwaits : loadWaits s ld = false := by
      rw [Bool.eq_false_iff, ne_eq, loadWaits_iff]
      rintro ⟨hlen, hgot, hw⟩
      rcases hready with h | h | ⟨hg, h⟩
      · omega
      · exact hgot h
      · rcases hw with hn | ⟨hu, hshort, hbad⟩
        · simp [hg] at hn
        · rcases h with h | h | h
          · exact h hu
          · omega
          · cases hbad.symm.trans h
    intro u
    have hjudged {t : State} (h : applyJudgement ld.cause (judge (ld.readTo 512 s).got) u = t) :
        exec .profileLoadJudged s = .next t :=
      congrArg Host.Outcome.next ((loadJudged_of_not_waits hl hwaits).trans h)
    refine ⟨fun p hp hc => hjudged ?_, fun p o hp hc ho hk => ?_, fun r off hr hc => hjudged ?_,
      fun r off o hr hc ho hk => hjudged ?_⟩
    · rw [hp]
      exact applyProfile_of_start hc p _
    · rw [hp, hc] at hjudged
      obtain ⟨hprofile, hengine, hloader, hreports, hquiet⟩ :=
        applyProfile_reload_effects (s := { u with loader := none }) ho hk p
      refine ⟨_, hjudged rfl, hprofile, hengine, hloader, ?_, hquiet⟩
      have hsame : (submit (orderDone o .done 0 0)
          (submit (profileLoadedReport .reload p.generation) { u with loader := none })).reports =
          (submit (orderDone o .done 0 0) (submit (profileLoadedReport .reload p.generation) s)).reports :=
        submit_reports_congr _ (submit_reports_congr _ rfl rfl) (by rw [submit_clock, submit_clock])
      exact hsame ▸ hreports
    · rw [hr]
      exact rejectProfile_of_start hc r off _
    · rw [hr, hc]
      exact rejectProfile_of_reload (s := { u with loader := none }) ho hk r off

end Sys2Proof.Machine
end

section
/-! ## The judging of a profile record -/

namespace Sys2Proof.Machine

/-! ### Tests in ascending order of offset -/

/-- Of two tests that fail the one made first names no greater offset. -/
def InOrder (t u : Nat × Bool) : Prop := t.2 = false → u.2 = false → t.1 ≤ u.1

theorem InOrder.of_le {t u : Nat × Bool} (h : t.1 ≤ u.1) : InOrder t u := fun _ _ => h

/-- Of tests made in order the first that fails names the least offset of those that fail. -/
theorem find?_fails_least {ts : List (Nat × Bool)} (h : ts.Pairwise InOrder) {t u : Nat × Bool}
    (ht : (ts.find? fun t => !t.2) = some t) (hu : u ∈ ts) (hf : u.2 = false) : t.1 ≤ u.1 := by
  obtain ⟨hfail, before, behind, rfl, hbefore⟩ := List.find?_eq_some_iff_append.1 ht
  obtain ⟨-, htail, -⟩ := List.pairwise_append.1 h
  rcases List.mem_append.1 hu with hu | hu
  · simpa [hf] using hbefore u hu
  · rcases List.mem_cons.1 hu with rfl | hu
    · exact le_rfl
    · exact (List.pairwise_cons.1 htail).1 u hu (by simpa using hfail) hf

/-- Entry by entry: where the tests of each entry are in order, and the entries themselves, all are. -/
theorem pairwise_entries {tests : Nat → List (Nat × Bool)} {entry : Nat → Nat} {size : Nat}
    (hin : ∀ n, (tests n).Pairwise InOrder) (hat : ∀ n, ∀ t ∈ tests n, entry n ≤ t.1 ∧ t.1 < entry n + size)
    (hnext : ∀ m n, m < n → entry m + size ≤ entry n) (k : Nat) : ((List.range k).flatMap tests).Pairwise InOrder := by
  rw [List.pairwise_flatMap]
  refine ⟨fun n _ => hin n, List.pairwise_lt_range.imp fun {m n} hmn t ht u hu => .of_le ?_⟩
  have hle := hnext m n hmn
  have hlast := (hat m t ht).2
  have hfirst := (hat n u hu).1
  omega

section
variable {bs : List Byte}

/-! ### The tests of a lane entry -/

/-- What fails in the lane entry at `e` (R161), by its offset. -/
def LaneFails (bs : List Byte) (o e : Nat) : Prop :=
  o = e ∧ 1 < (byteAt bs e).toNat ∨
  o = e + 2 ∧ (fieldAt bs (e + 2) 2 = 0 ∨ 256 < fieldAt bs (e + 2) 2 ∨ fieldAt bs (e + 4) 2 < fieldAt bs (e + 2) 2) ∨
  o = e + 4 ∧ (fieldAt bs (e + 4) 2 < 16 ∨ 256 < fieldAt bs (e + 4) 2)

theorem mem_laneTests {n o : Nat} : (o, false) ∈ laneTests bs n ↔ LaneFails bs o (laneEntry n) := by
  simp only [laneTests, List.mem_cons, Prod.mk.injEq, List.not_mem_nil, or_false, LaneFails, @eq_comm _ false,
    decide_eq_false_iff_not]
  refine or_congr (and_congr_right fun _ => ?_) (or_congr (and_congr_right fun _ => ?_) (and_congr_right fun _ => ?_))
  · omega
  · omega
  · omega

theorem laneTests_at (bs : List Byte) (n : Nat) : ∀ t ∈ laneTests bs n, laneEntry n ≤ t.1 ∧ t.1 < laneEntry n + 8 := by
  simp [laneTests]

theorem laneTests_inOrder (bs : List Byte) (n : Nat) : (laneTests bs n).Pairwise InOrder := by
  refine List.Pairwise.imp (R := fun t u => t.1 ≤ u.1) (fun h => .of_le h) ?_
  simp [laneTests]

/-! ### The tests of a slot entry -/

/-- What fails in the slot entry at `e` (R161), by its offset. -/
def SlotFails (bs : List Byte) (o e : Nat) : Prop :=
  o = e ∧ (15 < (byteAt bs e).toNat ∨ (byteAt bs e).toNat = 0 ∧ (byteAt bs (e + 1)).toNat = 0) ∨
  o = e + 1 ∧ 15 < (byteAt bs (e + 1)).toNat

theorem mem_slotTests {n o : Nat} : (o, false) ∈ slotTests bs n ↔ SlotFails bs o (slotEntry n) := by
  simp only [slotTests, List.mem_cons, Prod.mk.injEq, List.not_mem_nil, or_false, SlotFails, @eq_comm _ false,
    decide_eq_false_iff_not]
  omega

theorem slotTests_at (bs : List Byte) (n : Nat) :
    ∀ t ∈ slotTests bs n, slotEntry n ≤ t.1 ∧ t.1 < slotEntry n + 288 := by
  simp [slotTests]

/-- The test of both at once names the first offset again, but fails only where the second holds. -/
theorem slotTests_inOrder (bs : List Byte) (n : Nat) : (slotTests bs n).Pairwise InOrder := by
  simp [slotTests, InOrder]
  omega

/-! ### The tests of a mark entry -/

/-- What fails in the mark entry at `e` (R161), by its offset. -/
def MarkFails (bs : List Byte) (o e : Nat) : Prop :=
  o = e ∧ 3 < (byteAt bs e).toNat ∨
  o = e + 10 ∧ (byteAt bs e).toNat = 2 ∧ ((byteAt bs (e + 10)).toNat = 0 ∨ 64 < (byteAt bs (e + 10)).toNat) ∨
  o = e + 11 ∧ (byteAt bs e).toNat = 3 ∧ ((byteAt bs (e + 11)).toNat = 0 ∨ 32 < (byteAt bs (e + 11)).toNat)

/-- A mark kind by the number of its code (R160). -/
theorem markKindOf_eq (b : Byte) : markKindOf b =
    if b.toNat = 1 then .solid else if b.toNat = 2 then .cross else if b.toNat = 3 then .slug else .off := by
  simp only [markKindOf, ← BitVec.toNat_inj]
  rfl

theorem markKindOf_eq_cross {b : Byte} : markKindOf b = .cross ↔ b.toNat = 2 := by
  rw [markKindOf_eq]
  split
  · simp; omega
  · split
    · simp; omega
    · split <;> simp <;> omega

theorem markKindOf_eq_slug {b : Byte} : markKindOf b = .slug ↔ b.toNat = 3 := by
  rw [markKindOf_eq]
  split
  · simp; omega
  · split
    · simp; omega
    · split <;> simp <;> omega

theorem mem_markTests {m o : Nat} : (o, false) ∈ markTests bs m ↔ MarkFails bs o (markEntry m) := by
  simp only [markTests, List.mem_cons, Prod.mk.injEq, List.not_mem_nil, or_false, MarkFails, @eq_comm _ false,
    decide_eq_false_iff_not, markOf, markKindOf_eq_cross, markKindOf_eq_slug, Classical.not_imp]
  refine or_congr (and_congr_right fun _ => ?_) (or_congr (and_congr_right fun _ => ?_) (and_congr_right fun _ => ?_))
  · omega
  · omega
  · omega

theorem markTests_at (bs : List Byte) (m : Nat) :
    ∀ t ∈ markTests bs m, markEntry m ≤ t.1 ∧ t.1 < markEntry m + 16 := by
  simp [markTests]

theorem markTests_inOrder (bs : List Byte) (m : Nat) : (markTests bs m).Pairwise InOrder := by
  refine List.Pairwise.imp (R := fun t u => t.1 ≤ u.1) (fun h => .of_le h) ?_
  simp [markTests]

/-! ### The tests of a record -/

/-- What fails in a record (R161, R162), by its offset (R160). -/
def FieldFails (bs : List Byte) (o : Nat) : Prop :=
  o = 6 ∧ (fieldAt bs 6 2 = 0 ∨ 250 < fieldAt bs 6 2) ∨ (∃ n, n < 4 ∧ LaneFails bs o (laneEntry n)) ∨
    (∃ n, n < 4 ∧ SlotFails bs o (slotEntry n)) ∨ ∃ m, m < 8 ∧ MarkFails bs o (markEntry m)

theorem mem_fieldTests {o : Nat} : (o, false) ∈ fieldTests bs ↔ FieldFails bs o := by
  simp only [fieldTests, List.mem_cons, List.mem_append, List.mem_flatMap, List.mem_range, mem_laneTests, mem_slotTests,
    mem_markTests, Prod.mk.injEq, @eq_comm _ false, decide_eq_false_iff_not, FieldFails, or_assoc]
  refine or_congr_left (and_congr_right fun _ => ?_)
  omega

/-- The tests of a record are made in ascending order of offset (R162). -/
theorem fieldTests_inOrder (bs : List Byte) : (fieldTests bs).Pairwise InOrder := by
  have hlanes := pairwise_entries (laneTests_inOrder bs) (laneTests_at bs)
    (fun m n h => by simp only [laneEntry]; omega) 4
  have hslots := pairwise_entries (slotTests_inOrder bs) (slotTests_at bs)
    (fun m n h => by simp only [slotEntry]; omega) 4
  have hmarks := pairwise_entries (markTests_inOrder bs) (markTests_at bs)
    (fun m n h => by simp only [markEntry]; omega) 8
  have lane {t : Nat × Bool} (h : t ∈ (List.range 4).flatMap (laneTests bs)) : 16 ≤ t.1 ∧ t.1 < 48 := by
    obtain ⟨n, hn, ht⟩ := List.mem_flatMap.1 h
    have hat := laneTests_at bs n t ht
    simp only [laneEntry, List.mem_range] at hat hn
    omega
  have slot {t : Nat × Bool} (h : t ∈ (List.range 4).flatMap (slotTests bs)) : 48 ≤ t.1 ∧ t.1 < 1200 := by
    obtain ⟨n, hn, ht⟩ := List.mem_flatMap.1 h
    have hat := slotTests_at bs n t ht
    simp only [slotEntry, List.mem_range] at hat hn
    omega
  have mark {t : Nat × Bool} (h : t ∈ (List.range 8).flatMap (markTests bs)) : 1200 ≤ t.1 := by
    obtain ⟨m, hm, ht⟩ := List.mem_flatMap.1 h
    have hat := markTests_at bs m t ht
    simp only [markEntry] at hat
    omega
  refine List.pairwise_cons.2 ⟨fun u hu => .of_le ?_, List.pairwise_append.2 ⟨List.pairwise_append.2
    ⟨hlanes, hslots, fun t ht u hu => .of_le ?_⟩, hmarks, fun t ht u hu => .of_le ?_⟩⟩
  · change 6 ≤ u.1
    rcases List.mem_append.1 hu with hu | hu
    · rcases List.mem_append.1 hu with hu | hu
      · have := lane hu
        omega
      · have := slot hu
        omega
    · have := mark hu
      omega
  · have := lane ht
    have := slot hu
    omega
  · have := mark hu
    rcases List.mem_append.1 ht with ht | ht
    · have := lane ht
      omega
    · have := slot ht
      omega

/-- The first field that fails is the one of the least offset (R162). -/
theorem firstFail_eq_some {o : Nat} (h : FieldFails bs o) (hmin : ∀ i, i < o → ¬ FieldFails bs i) :
    firstFail bs = some o := by
  have hmem := mem_fieldTests.2 h
  obtain ⟨⟨i, ok⟩, ht⟩ := Option.isSome_iff_exists.1
    (List.find?_isSome (p := fun t : Nat × Bool => !t.2) |>.2 ⟨_, hmem, rfl⟩)
  have hle : i ≤ o := find?_fails_least (fieldTests_inOrder bs) ht hmem rfl
  obtain rfl : ok = false := by simpa using List.find?_some ht
  have hfails := mem_fieldTests.1 (List.mem_of_find?_eq_some ht)
  obtain rfl : i = o := le_antisymm hle (Nat.le_of_not_lt fun hlt => hmin i hlt hfails)
  rw [firstFail, ht]
  rfl

theorem firstFail_eq_none : firstFail bs = none ↔ ∀ o, ¬ FieldFails bs o := by
  rw [firstFail, Option.map_eq_none_iff, List.find?_eq_none]
  constructor
  · exact fun h o hf => h _ (mem_fieldTests.2 hf) rfl
  · rintro h ⟨o, ok⟩ ht hok
    obtain rfl : ok = false := by simpa using hok
    exact h o (mem_fieldTests.1 ht)

/-! ### The judgement -/

/-- With every word readable the bytes read are judged (R162). -/
theorem judge_of_readable {got : List (Option (List Byte))} (h : none ∉ got) :
    judge got = judgeBytes (got.flatMap fun w => w.getD []) := by
  refine if_neg fun hany => ?_
  obtain ⟨w, hw, hnone⟩ := List.any_eq_true.1 hany
  exact h (Option.isNone_iff_eq_none.1 hnone ▸ hw)

/-- A record that passes the tests of signature, version and checksum (R162). -/
structure RecordSound (bs : List Byte) : Prop where
  signature : bs.take 4 = [0x44, 0x48, 0x34, 0x36]
  version : fieldAt bs 4 2 = 1
  checksum : (crc32 (bs.take 4092)).toNat = fieldAt bs 4092 4

/-- A sound record is judged by its fields. -/
theorem judgeBytes_of_sound (h : RecordSound bs) : judgeBytes bs =
    (firstFail bs).elim (.valid (profileOf bs)) fun o => .invalid 4 o := by
  rw [judgeBytes, if_neg (not_not.2 h.signature), if_neg (not_not.2 h.version), if_neg (not_not.2 h.checksum)]
  cases firstFail bs <;> rfl

/-- A valid record has no field out of its range, and its profile is what its fields say. -/
theorem judgeBytes_valid {p : Profile} (h : judgeBytes bs = .valid p) :
    p = profileOf bs ∧ ∀ o, ¬ FieldFails bs o := by
  unfold judgeBytes at h
  split at h
  · cases h
  · split at h
    · cases h
    · split at h
      · cases h
      · split at h
        · cases h
        · next hf => exact ⟨(Judgement.valid.inj h).symm, firstFail_eq_none.1 hf⟩

/-! ### The profile of a record -/

theorem profileOf_levels (bs : List Byte) (l : LaneId) : (profileOf bs).levels.get l = levelsOf bs l.val := by
  match l with
  | 0 | 1 | 2 | 3 => rfl

theorem profileOf_slots (bs : List Byte) (n : Fin 4) : (profileOf bs).slots.get n = slotOf bs n.val := by
  match n with
  | 0 | 1 | 2 | 3 => rfl

/-- A 4-byte field is a 32-bit number. -/
theorem fieldAt_four_lt (bs : List Byte) (i : Nat) : fieldAt bs i 4 < 4294967296 := by
  have hlt : ∀ (n : Nat) (cs : List Byte), cs.length ≤ n → leNat cs < 256 ^ n := by
    intro n
    induction n with
    | zero => intro cs h; simp [List.eq_nil_of_length_eq_zero (Nat.le_zero.1 h), leNat]
    | succ n ih =>
      rintro (- | ⟨c, cs⟩) h
      · simp [leNat]
      · have := ih cs (Nat.le_of_succ_le_succ h)
        have := c.isLt
        rw [show leNat (c :: cs) = c.toNat + 256 * leNat cs from rfl, pow_succ]
        omega
  exact hlt 4 _ (List.length_take_le _ _)

/-- The ranges of a record without a field that fails (R161). -/
theorem ranges_of_no_fails (h : ∀ o, ¬ FieldFails bs o) :
    (1 ≤ (profileOf bs).holdLimit ∧ (profileOf bs).holdLimit ≤ 250) ∧
    (∀ l, 1 ≤ ((profileOf bs).levels.get l).preload ∧
      ((profileOf bs).levels.get l).preload ≤ ((profileOf bs).levels.get l).highWater ∧
      16 ≤ ((profileOf bs).levels.get l).highWater ∧ ((profileOf bs).levels.get l).highWater ≤ 256) ∧
    (∀ n, ((profileOf bs).slots.get n).a ≤ 15 ∧ ((profileOf bs).slots.get n).b ≤ 15 ∧
      0 < ((profileOf bs).slots.get n).a + ((profileOf bs).slots.get n).b) ∧
    ∀ m ∈ (profileOf bs).marks, (m.kind = .cross → 1 ≤ m.stroke ∧ m.stroke ≤ 64) ∧
      (m.kind = .slug → 1 ≤ m.dot ∧ m.dot ≤ 32) := by
  refine ⟨?_, fun l => ?_, fun n => ?_, fun m hm => ?_⟩
  · have hold : ¬ (fieldAt bs 6 2 = 0 ∨ 250 < fieldAt bs 6 2) := fun hf => h 6 (.inl ⟨rfl, hf⟩)
    simp only [profileOf]
    omega
  · have lane {o : Nat} (hf : LaneFails bs o (laneEntry l.val)) : False := h o (.inr (.inl ⟨l.val, l.isLt, hf⟩))
    have hpreload : ¬ (fieldAt bs (laneEntry l.val + 2) 2 = 0 ∨ 256 < fieldAt bs (laneEntry l.val + 2) 2 ∨
        fieldAt bs (laneEntry l.val + 4) 2 < fieldAt bs (laneEntry l.val + 2) 2) :=
      fun hf => lane (.inr (.inl ⟨rfl, hf⟩))
    have hhigh : ¬ (fieldAt bs (laneEntry l.val + 4) 2 < 16 ∨ 256 < fieldAt bs (laneEntry l.val + 4) 2) :=
      fun hf => lane (.inr (.inr ⟨rfl, hf⟩))
    rw [profileOf_levels]
    simp only [levelsOf]
    omega
  · have slot {o : Nat} (hf : SlotFails bs o (slotEntry n.val)) : False :=
      h o (.inr (.inr (.inl ⟨n.val, n.isLt, hf⟩)))
    have ha : ¬ (15 < (byteAt bs (slotEntry n.val)).toNat ∨
        (byteAt bs (slotEntry n.val)).toNat = 0 ∧ (byteAt bs (slotEntry n.val + 1)).toNat = 0) :=
      fun hf => slot (.inl ⟨rfl, hf⟩)
    have hb : ¬ 15 < (byteAt bs (slotEntry n.val + 1)).toNat := fun hf => slot (.inr ⟨rfl, hf⟩)
    rw [profileOf_slots]
    simp only [slotOf]
    omega
  · obtain ⟨i, hi, rfl⟩ := List.mem_map.1 hm
    have mark {o : Nat} (hf : MarkFails bs o (markEntry i)) : False :=
      h o (.inr (.inr (.inr ⟨i, List.mem_range.1 hi, hf⟩)))
    simp only [markOf, markKindOf_eq_cross, markKindOf_eq_slug]
    refine ⟨fun hk => ?_, fun hk => ?_⟩
    · have hstroke : ¬ ((byteAt bs (markEntry i + 10)).toNat = 0 ∨ 64 < (byteAt bs (markEntry i + 10)).toNat) :=
        fun hf => mark (.inr (.inl ⟨rfl, hk, hf⟩))
      omega
    · have hdot : ¬ ((byteAt bs (markEntry i + 11)).toNat = 0 ∨ 32 < (byteAt bs (markEntry i + 11)).toNat) :=
        fun hf => mark (.inr (.inr ⟨rfl, hk, hf⟩))
      omega

end

/-- A lane's levels by the numbers of its entry's fields (R160). -/
theorem levelsOf_eq (bs : List Byte) (n : Nat) : levelsOf bs n =
    ⟨if (byteAt bs (16 + 8 * n)).toNat = 0 then .positive else .negative, fieldAt bs (18 + 8 * n) 2,
      fieldAt bs (20 + 8 * n) 2⟩ := by
  have hzero : byteAt bs (laneEntry n) = 0 ↔ (byteAt bs (16 + 8 * n)).toNat = 0 := BitVec.toNat_inj.symm
  simp only [levelsOf, hzero]
  congr 2 <;> simp only [laneEntry] <;> omega

theorem slotOf_eq (bs : List Byte) (n : Nat) : slotOf bs n =
    ⟨(byteAt bs (48 + 288 * n)).toNat, (byteAt bs (49 + 288 * n)).toNat, (bs.drop (50 + 288 * n)).take 17,
      (bs.drop (80 + 288 * n)).take 256⟩ := by
  simp only [slotOf, slotEntry]
  congr 3 <;> omega

/-- Settles O40: the tests before the fields one by one, and the fields by the least offset that fails. -/
theorem judgingFollowsTestOrder : Obligations.JudgingFollowsTestOrder := by
  intro got
  refine ⟨fun h => if_pos (List.any_eq_true.2 ⟨none, h, rfl⟩), fun h => ?_⟩
  rw [judge_of_readable h]
  generalize got.flatMap (fun w => w.getD []) = bs
  refine ⟨fun hs => if_pos hs, fun hs hv => ?_, fun hs hv hc => ?_, fun hs hv hc => ⟨fun o ho hmin => ?_, fun hno => ?_⟩,
    fun p hp => ?_⟩
  · exact (if_neg (not_not.2 hs)).trans (if_pos hv)
  · exact (if_neg (not_not.2 hs)).trans ((if_neg (not_not.2 hv)).trans (if_pos hc))
  · have hfirst : firstFail bs = some o := firstFail_eq_some ho hmin
    rw [judgeBytes_of_sound ⟨hs, hv, hc⟩, hfirst]
    rfl
  · have hfirst : firstFail bs = none := firstFail_eq_none.2 hno
    rw [judgeBytes_of_sound ⟨hs, hv, hc⟩, hfirst]
    refine ⟨profileOf bs, rfl, rfl, ?_, fun l => ?_, fun n => ?_, ?_⟩
    · exact (BitVec.toNat_ofNat _ _).trans (Nat.mod_eq_of_lt (fieldAt_four_lt bs 8))
    · rw [profileOf_levels, levelsOf_eq]
      rfl
    · rw [profileOf_slots, slotOf_eq]
      rfl
    · refine List.map_congr_left fun m _ => ?_
      simp only [markOf, markKindOf_eq]
      rfl
  · obtain ⟨rfl, hno⟩ := judgeBytes_valid hp
    obtain ⟨⟨hlow, hhigh⟩, hlevels, hslots, hmarks⟩ := ranges_of_no_fails hno
    exact ⟨hlow, hhigh, hlevels, hslots, hmarks⟩

end Sys2Proof.Machine
end

section
/-! ## The two resets -/

namespace Sys2Proof.Machine

/-! ### What the abandoned writes leave -/

/-- Words copied touch memory alone. -/
theorem copyWords_eq (made : State) (reached : Nat → Bool) (ws : List Nat) (s : State) :
    ws.foldl (fun t w => if reached w then copyWord made w t else t) s =
      s.withMemory (ws.foldl (fun t w => if reached w then copyWord made w t else t) s) := by
  induction ws generalizing s with
  | nil => rfl
  | cons w ws ih =>
    rw [List.foldl_cons, ih]
    split <;> rfl

/-- The writes abandoned at a reset touch memory and the free values alone (R156). -/
theorem abandonWrites_eq (s : State) : abandonWrites s = (useFree s).withMemory (abandonWrites s) := copyWords_eq _ _ _ _

theorem abandonWrites_pending (s : State) : (abandonWrites s).pending = s.pending := by
  rw [abandonWrites_eq]
  rfl

theorem abandonWrites_lander (s : State) : (abandonWrites s).lander = s.lander := by
  rw [abandonWrites_eq]
  rfl

theorem strayRingWrite_pending (b : Body) (s : State) : (strayRingWrite b s).pending = s.pending := by
  rw [strayRingWrite_eq]
  rfl

theorem wf_storeRing (o : Nat) (bs : List Byte) {s : State} (h : Memory.wf s.mem = true) :
    Memory.wf (storeRing o bs s).mem = true := by
  unfold storeRing
  split
  · exact wf_writeWords h _ _
  · split
    · exact h
    · exact wf_memWriteBytes _ _ h

theorem wf_strayRingWrite (b : Body) {s : State} (h : Memory.wf s.mem = true) :
    Memory.wf (strayRingWrite b s).mem = true := by
  unfold strayRingWrite
  split
  · simp only
    split
    · exact wf_storeRing _ _ h
    · exact h
  · exact h

theorem abandonRingWrite_pending (s : State) : (abandonRingWrite s).pending = s.pending := by
  unfold abandonRingWrite
  split
  · exact strayRingWrite_pending _ _
  · rfl
  · rfl

theorem abandonRingWrite_bytes {s : State} (h : Memory.wf s.mem = true) :
    Memory.wf (abandonRingWrite s).mem = true ∧ ∀ x, (∀ b q, s.lander = .body b → b.request = some q →
      ¬ (ringAddr q.offset ≤ x ∧ x < ringAddr q.offset + q.bytes.length)) →
      memRead (abandonRingWrite s).mem x = memRead s.mem x := by
  cases hl : s.lander with
  | body b =>
    simp only [abandonRingWrite, hl]
    refine ⟨wf_strayRingWrite b h, fun x hx => ?_⟩
    cases hq : b.request with
    | none => rw [strayRingWrite_none hq]
    | some q => exact strayRingWrite_bytes hq h x (hx b q rfl hq)
  | header g => simp only [abandonRingWrite, hl]; exact ⟨h, fun _ _ => trivial⟩
  | seek g => simp only [abandonRingWrite, hl]; exact ⟨h, fun _ _ => trivial⟩

/-! ### The writes under way -/

theorem applyClaimed_of_not_in_hand {s : State} (hclaimed : ∀ g, s.unpacker ≠ .working g .claimed)
    (hdecoding : ∀ g n, s.unpacker ≠ .working g (.decoding n))
    (hstalled : ∀ g o b, s.unpacker ≠ .stalled g .patches o b) : applyClaimed s = s := by
  unfold applyClaimed
  split
  · next h _ => exact absurd h (hclaimed _)
  · next h _ => exact absurd h (hdecoding _ _)
  · next h => exact absurd h (hstalled _ _ _)
  · rfl

theorem writeRecord_unpacker (r : Report) (s : State) : (writeRecord r s).unpacker = s.unpacker := by
  simp only [writeRecord, judgeAttn, writeCountWord_unpacker, writeWords_unpacker]

theorem length_recordBytes (r : Report) : (recordBytes r).length = 32 := rfl

theorem wf_writeCountWord (a : Nat) (v : Count) {s : State} (h : Memory.wf s.mem = true) :
    Memory.wf (writeCountWord a v s).mem = true := wf_writeWords h _ _

theorem memRead_writeCountWord (a : Nat) (v : Count) {s : State} (h : Memory.wf s.mem = true) (x : Nat) :
    memRead (writeCountWord a v s).mem x =
      if a ≤ x ∧ x < a + 8 then (leBytes 8 v.toNat).getD (x - a) 0 else memRead s.mem x :=
  memRead_writeWords h _ _ _

theorem writeRecord_mem (r : Report) (s : State) : (writeRecord r s).mem =
    (writeCountWord writeCountAddr (s.writeCount + 1) (writeWords (entryAddr s.writeCount) (recordBytes r) s)).mem := by
  simp only [writeRecord, judgeAttn, writeCountWord, writeWords]

/-- A record written changes its 32 bytes and the write count word (R171). -/
theorem writeRecord_bytes (r : Report) {s : State} (h : Memory.wf s.mem = true) {x : Nat}
    (hcount : ¬ (writeCountAddr ≤ x ∧ x < writeCountAddr + 8))
    (hrecord : ¬ (entryAddr s.writeCount ≤ x ∧ x < entryAddr s.writeCount + 32)) :
    memRead (writeRecord r s).mem x = memRead s.mem x := by
  rw [writeRecord_mem, memRead_writeCountWord _ _ (wf_writeWords h _ _), if_neg hcount, memRead_writeWords h,
    length_recordBytes, if_neg hrecord]

theorem handleHead_unpacker (s : State) : (handleHead s).unpacker = s.unpacker := by
  unfold handleHead
  split
  · rfl
  · simp only
    split
    · split
      · exact writeRecord_unpacker _ _
      · rfl
    · exact noteDrop_unpacker _

/-- The report writer's turn writes the head's record and the write count word, if it writes. -/
theorem handleHead_bytes {s : State} (h : Memory.wf s.mem = true) {x : Nat}
    (hcount : ¬ (writeCountAddr ≤ x ∧ x < writeCountAddr + 8))
    (hrecord : s.reports ≠ [] → s.unconsumed.toNat < 256 →
      ¬ (entryAddr s.writeCount ≤ x ∧ x < entryAddr s.writeCount + 32)) :
    memRead (handleHead s).mem x = memRead s.mem x := by
  unfold handleHead
  split
  · rfl
  · next r rs hr =>
    simp only
    split
    · next hroom =>
      split
      · exact writeRecord_bytes r h hcount (hrecord (by rw [hr]; exact List.cons_ne_nil _ _) hroom)
      · rfl
    · rw [noteDrop_mem]

theorem leBytes_zero_getD (n i : Nat) : (leBytes n 0).getD i 0 = 0 := by
  induction n generalizing i with
  | zero => rfl
  | succ n ih =>
    cases i with
    | zero => rfl
    | succ i => exact ih i

/-- The two count words read 0 after a warm reset, and every other byte as the abandoned writes left it (R176). -/
theorem memRead_warm {s : State} (h : Memory.wf (abandonRingWrite (abandonWrites s)).mem = true) (x : Nat) :
    memRead (warm s).mem x =
      if overflowAddr ≤ x ∧ x < overflowAddr + 8 ∨ writeCountAddr ≤ x ∧ x < writeCountAddr + 8 then 0
      else memRead (abandonRingWrite (abandonWrites s)).mem x := by
  have hz (i : Nat) : (leBytes 8 (0 : Count).toNat).getD i 0 = 0 := leBytes_zero_getD 8 i
  have hc : Memory.wf (clearedKeepingMemory (abandonRingWrite (abandonWrites s))).mem = true := h
  rw [warm, memRead_writeCountWord _ _ (wf_writeCountWord _ _ hc), memRead_writeCountWord _ _ hc, hz, hz, ite_or]
  rfl

/-- Of a state only memory changes where count words are written. -/
theorem writeCountWord_twice (a b : Nat) (v w : Count) (s : State) : writeCountWord a v (writeCountWord b w s) =
    s.withMemory (writeCountWord a v (writeCountWord b w s)) := rfl

/-- A warm reset clears the state that the abandoned writes left, and writes the count words (R168). -/
theorem warm_cleared (s : State) :
    warm s = (clearedKeepingMemory (abandonRingWrite (abandonWrites s))).withMemory (warm s) :=
  writeCountWord_twice overflowAddr writeCountAddr 0 0 (clearedKeepingMemory (abandonRingWrite (abandonWrites s)))

/-- The state after a warm reset, but for memory (R168). -/
theorem warm_eq (s : State) : warm s =
    { State.reset with pending := s.pending, free := (warm s).free, mem := (warm s).mem, badWords := (warm s).badWords,
                       loader := some ⟨.warmReset, []⟩ } := by
  have hp : (abandonRingWrite (abandonWrites s)).pending = s.pending :=
    (abandonRingWrite_pending _).trans (abandonWrites_pending s)
  have hfree := congrArg State.free (warm_cleared s)
  rw [← hp, hfree]
  exact warm_cleared s

/-- Settles O22: the reset values, and of memory the bytes that no write under way and no count word touches. -/
theorem resetsClearOnChipState : Obligations.ResetsClearOnChipState := by
  intro s
  refine ⟨rfl, warm s, rfl, warm_eq s, fun hwf => ?_⟩
  obtain ⟨hwfA, hbytesA⟩ := abandonWrites_bytes hwf
  obtain ⟨hwfR, hbytesR⟩ := abandonRingWrite_bytes hwfA
  have hread := memRead_warm hwfR
  refine ⟨fun x hlow hhigh => ?_, fun x hlow hhigh => ?_, fun x hwrites hoverflow hring => ?_⟩
  · rw [hread, if_pos (.inr ⟨hlow, hhigh⟩)]
  · rw [hread, if_pos (.inl ⟨hlow, hhigh⟩)]
  · have hkept : memRead (warm s).mem x = memRead (abandonWrites s).mem x := by
      refine (hread x).trans ((if_neg (not_or.2 ⟨hoverflow, hwrites⟩)).trans ?_)
      exact hbytesR x (by rwa [abandonWrites_lander])
    rw [hkept]
    have heither := (hbytesA x).imp_right And.right
    refine ⟨heither, fun hclaimed hdecoding hstalled hrecord => heither.elim id fun hmade => hmade.trans ?_⟩
    rw [writesMade, applyClaimed_of_not_in_hand (by rwa [handleHead_unpacker]) (by rwa [handleHead_unpacker])
      (by rwa [handleHead_unpacker])]
    exact handleHead_bytes (s := { s with lander := .seek [], waiting := [] }) hwf hwrites hrecord

end Sys2Proof.Machine
end

section
/-! ## Host writes to the profile record -/

namespace Sys2Proof.Machine

/-! ### The loader's reading before the port's grant -/

theorem portGrant_of_no_lane {s : State} (h : lanesFirst s = []) : portGrant s = portTaken s := by
  rw [portGrant, h]
  rfl

/-- Where the loader's request is granted no lane's of class 1 waits (R156). -/
theorem lanesFirst_of_loader_granted {s : State} (h : s.grants .profileLoader = true) : lanesFirst s = [] :=
  List.eq_nil_iff_forall_not_mem.2 fun l hl => by
    obtain ⟨hmem, hone⟩ := mem_lanesFirst.1 hl
    have hfive : 5 ≤ composerClass s l := (grants_loader.1 h).1 _ hmem
    omega

theorem mem_stillWaiting {s t : State} {w : List Requester} {r : Requester} (h : r ∈ stillWaiting s t w) : r ∈ w := by
  unfold stillWaiting at h
  split at h
  · exact h
  · exact List.mem_of_mem_filter h

theorem stillWaiting_filter (s t : State) (w : List Requester) (p : Requester → Bool) :
    (stillWaiting s t w).filter p = stillWaiting s t (w.filter p) := by
  unfold stillWaiting
  split
  · rfl
  · exact List.filter_comm ..

/-- The host's grant after the loader has read on: it is as without, but for the load, and for the loader's request where
a word was read (R156, R162). -/
theorem portGrant_loaderReadsOn (s : State) : portGrant (loaderReadsOn s) =
    { portGrant s with loader := (loaderReadsOn s).loader, free := (loaderReadsOn s).free
                       waiting := stillWaiting s (loaderReadsOn s) (portGrant s).waiting } := by
  cases hg : s.grants .profileLoader with
  | false =>
    rw [loaderReadsOn_blocked hg, stillWaiting, if_pos rfl, ← portGrant_loader s, ← portGrant_free s]
  | true =>
    have hnone : lanesFirst s = [] := lanesFirst_of_loader_granted hg
    have hwaiting : (loaderReadsOn s).waiting = stillWaiting s (loaderReadsOn s) s.waiting := loaderReadsOn_waiting s
    have hnone' : lanesFirst (loaderReadsOn s) = [] := by
      refine List.eq_nil_iff_forall_not_mem.2 fun l hl => ?_
      obtain ⟨hmem, hone⟩ := mem_lanesFirst.1 hl
      rw [composer_mem_requests, hwaiting] at hmem
      rw [loaderReadsOn_eq] at hone
      have hin : l ∈ lanesFirst s := mem_lanesFirst.2 ⟨composer_mem_requests.2 (mem_stillWaiting hmem), hone⟩
      rw [hnone] at hin
      cases hin
    have hclass : requestClass (loaderReadsOn s) = requestClass s := by
      rw [loaderReadsOn_eq]
      rfl
    rw [portGrant_of_no_lane hnone, portGrant_of_no_lane hnone', portTaken, hclass, hwaiting, stillWaiting_filter]
    conv_lhs => rw [loaderReadsOn_eq]
    rfl

/-! ### A write of the record -/

section
variable {s : State} {a : Nat} {be : Enables}

theorem touchesCommit_iff : touchesCommit a be = true ↔ a = 0xFF8 ∧ be &&& 0xF0 ≠ 0 := by
  simp [touchesCommit, commitBeat]

/-- A write of the record, before what the commit word adds (R150, R155, R162). -/
def State.recordWritten (s : State) (a : Nat) (be : Enables) (d : Beat) : State :=
  { portGrant s with
    mem := mergeBeat s.mem a be d
    badWords := if be = BitVec.allOnes 8 then s.badWords.filter (fun w => w != a / 8) else s.badWords
    responses := s.responses ++ [.ok], loader := (loaderReadsOn s).loader, free := (loaderReadsOn s).free
    waiting := stillWaiting s (loaderReadsOn s) (portGrant s).waiting }

/-- The record's bytes written after the loader has read on (R162, R164). -/
theorem profileWrite_loaderReadsOn (s : State) (a : Nat) (be : Enables) (d : Beat) :
    profileWrite a be d (portGrant (loaderReadsOn s)) =
      if s.engine = .passThrough ∧ touchesCommit a be then startLoad .commit (s.recordWritten a be d)
      else s.recordWritten a be d := by
  have hwritten : respond .ok (storeBeat a be d (portGrant (loaderReadsOn s))) = s.recordWritten a be d := by
    rw [portGrant_loaderReadsOn, State.recordWritten, ← portGrant_mem s, ← portGrant_badWords s, ← portGrant_responses s]
    rfl
  have hengine : (portGrant (loaderReadsOn s)).engine = s.engine := by simp
  rw [profileWrite, hwritten, hengine]

theorem hostWrite_record (hh : s.held = none) (hbe : be ≠ 0) (ha : a < 0x1000) (d : Beat) : hostWrite a be d s =
    if writePerformed a be s then profileWrite a be d (portGrant (loaderReadsOn s)) else respond .error (portGrant s) := by
  rw [hostWrite_taken hh hbe, writeClass_of_both (regionOf_profileRecord ha) rfl rfl]
  rfl

/-- A part of a word with an uncorrectable error is not written, and answered with an error (R155). -/
theorem hostWrite_record_failed (hh : s.held = none) (hbe : be ≠ 0) (ha : a < 0x1000) (hpart : be ≠ BitVec.allOnes 8)
    (hbad : s.badWords.contains (a / 8) = true) (d : Beat) :
    hostWrite a be d s = { portGrant s with responses := s.responses ++ [.error] } := by
  have hnot : ¬ writePerformed a be s = true := fun h => by
    rcases writePerformed_iff.1 h with h | h
    · exact hpart h
    · rw [hbad] at h
      cases h
  rw [hostWrite_record hh hbe ha, if_neg hnot, ← portGrant_responses s]
  rfl

end

/-- Where the loader's request waits no more for a word read, a load was under way and its request was granted (R156). -/
theorem stillWaiting_loaderReadsOn (s : State) (w : List Requester) :
    stillWaiting s (loaderReadsOn s) w = w ∨ s.loader ≠ none ∧ s.grants .profileLoader = true ∧
      stillWaiting s (loaderReadsOn s) w = w.filter (· != .profileLoader) := by
  rcases loaderReadsOn_cases s with ⟨e, -⟩ | ⟨ld, -, hl, hg, -⟩
  · rw [e]
    exact .inl (if_pos rfl)
  · by_cases h : (loaderReadsOn s).loader = s.loader
    · exact .inl (if_pos h)
    · exact .inr ⟨by rw [hl]; exact Option.some_ne_none ld, hg, if_neg h⟩

/-- Settles O14: the record written after the loader's reading on, with the load that the commit word starts. -/
theorem commitWriteStartsLoad : Obligations.CommitWriteStartsLoad := by
  refine ⟨fun s be d hh hc => ?_, ?_⟩
  · have hbe : be ≠ 0 := by
      rintro rfl
      exact hc rfl
    refine ⟨fun hp => ?_, fun hpart hbad => ?_⟩
    · have hexec : exec (.profileCommitWrite be d) s = .next (profileWrite 0xFF8 be d (portGrant (loaderReadsOn s))) :=
        congrArg _ ((hostWrite_record hh hbe (by decide) d).trans (if_pos (writePerformed_iff.2 hp)))
      rw [profileWrite_loaderReadsOn] at hexec
      by_cases he : s.engine = .passThrough
      · rw [if_pos ⟨he, touchesCommit_iff.2 ⟨rfl, hc⟩⟩] at hexec
        exact ⟨_, hexec, rfl, rfl, rfl, stillWaiting_loaderReadsOn s _, fun _ => rfl,
          fun ha => absurd (he.symm.trans ha) nofun⟩
      · rw [if_neg fun h => he h.1] at hexec
        exact ⟨_, hexec, rfl, rfl, rfl, stillWaiting_loaderReadsOn s _, fun h => absurd h he,
          fun _ hl => (congrArg State.loader (loaderReadsOn_idle hl)).trans hl⟩
    · exact congrArg _ (hostWrite_record_failed hh hbe (by decide) hpart hbad d)
  · intro s a be d hh hbe b hb hother
    refine ⟨fun hp => ?_, fun hpart hbad => congrArg _ (hostWrite_record_failed hh hbe hb hpart hbad d)⟩
    have hplain : ¬ (s.engine = .passThrough ∧ touchesCommit b be = true) := by rwa [touchesCommit_iff]
    have hexec : exec (.passingAccess (.write a be d)) s = .next (s.recordWritten b be d) := by
      refine congrArg _ ((hostWrite_record hh hbe hb d).trans ((if_pos (writePerformed_iff.2 hp)).trans ?_))
      rw [profileWrite_loaderReadsOn, if_neg hplain]
    refine ⟨_, hexec, rfl, fun hl => ?_, loaderReadOn_of_loader rfl⟩
    change (loaderReadsOn s).free = s.free
    rw [loaderReadsOn_idle hl]

end Sys2Proof.Machine
end

section
/-! ## Host writes of the count words -/

namespace Sys2Proof.Machine

/-- A write of one of the count words that the memory port performs (R149, R155). -/
theorem hostWrite_performed {s : State} {a : Nat} {be : Enables} {c : WriteClass} {r : Region} (hh : s.held = none)
    (hbe : be ≠ 0) (hp : be = BitVec.allOnes 8 ∨ s.badWords.contains (a / 8) = false) (hr : regionOf a = r)
    (ha : activeWrite s r = c) (ht : passThroughWrite r = c) (hc : c = .consumedCount ∨ c = .overflowWord)
    (d : Beat) : hostWrite a be d s = performWrite c a be d (portGrant s) := by
  have hpass : passWrite c a be d s = performWrite c a be d (portGrant s) := by
    refine (if_pos (writePerformed_iff.2 hp)).trans ?_
    rcases hc with rfl | rfl <;> rfl
  rw [hostWrite_taken hh hbe, writeClass_of_both hr ha ht, ← hpass]
  rcases hc with rfl | rfl <;> rfl

/-- The watch on the consumed count word: a value accepted becomes the copy, and ATTN is judged again (R172, R174). -/
theorem watchConsumed_eq (be : Enables) (d : Beat) (s : State) : watchConsumed be d s =
    if be &&& 0x0F#8 = 0x0F#8 ∧ (s.writeCount - d.extractLsb' 0 32).toNat ≤ 256 then
      { s with consumed := d.extractLsb' 0 32, attn := s.writeCount - d.extractLsb' 0 32 != 0 }
    else s := rfl

theorem ne_zero_iff_toNat_pos (v : Count) : (v != 0) = true ↔ 0 < v.toNat := by
  rw [bne_iff_ne, Nat.pos_iff_ne_zero, ne_eq, ne_eq, BitVec.toNat_eq]
  rfl

/-- What a write of a word leaves beside the host's grant: its bytes, its ECC and the answer (R150, R155). -/
theorem respond_storeBeat_portGrant (a : Nat) (be : Enables) (d : Beat) (s : State) :
    respond .ok (storeBeat a be d (portGrant s)) =
      { portGrant s with
        mem := (storeBeat a be d s).mem, badWords := (storeBeat a be d s).badWords
        responses := s.responses ++ [.ok] } := by
  rw [storeBeat, storeBeat, ← portGrant_mem s, ← portGrant_badWords s, ← portGrant_responses s]
  rfl

/-- Settles O13: both words are written like plain memory, and the watch and the flag follow. -/
theorem countWordWritesAreWatched : Obligations.CountWordWritesAreWatched := by
  refine ⟨fun s be d hh hbe hp => ?_, fun s be d hh hbe hp => ?_⟩
  · have hexec : exec (.consumedCountWrite be d) s =
        .next (watchConsumed be d (respond .ok (storeBeat 0x102008 be d (portGrant s)))) := by
      refine congrArg _
        ((hostWrite_performed hh hbe hp (regionOf_consumedCount (by decide) (by decide)) rfl rfl (.inl rfl) d).trans ?_)
      change respond .ok (watchConsumed be d _) = _
      simp only [watchConsumed_eq, apply_ite (respond .ok)]
      rfl
    have hcount : (portGrant s).writeCount = s.writeCount := by simp
    rw [respond_storeBeat_portGrant, watchConsumed_eq] at hexec
    split at hexec
    · next hwatch =>
      refine ⟨_, hexec, rfl, rfl, rfl, fun _ _ => ⟨rfl, ?_⟩, fun hn => absurd (hcount ▸ hwatch) hn⟩
      rw [← hcount]
      exact ne_zero_iff_toNat_pos _
    · next hn =>
      rw [← hcount]
      exact ⟨_, hexec, rfl, rfl, rfl, fun he hv => absurd ⟨he, hv⟩ hn,
        fun _ => ⟨portGrant_consumed s, portGrant_attn s⟩⟩
  · have hexec : exec (.overflowWordWrite be d) s =
        .next { respond .ok (storeBeat 0x102010 be d (portGrant s)) with overflowFlag := false } :=
      congrArg _
        (hostWrite_performed hh hbe hp (regionOf_overflowWord (by decide) (by decide)) rfl rfl (.inr rfl) d)
    rw [hexec, respond_storeBeat_portGrant]
    rfl

end Sys2Proof.Machine
end

section
/-! ## The report writer's turn -/

namespace Sys2Proof.Machine

/-! ### Numbers in bytes -/

theorem length_leBytes (n v : Nat) : (leBytes n v).length = n := by
  induction n generalizing v with
  | zero => rfl
  | succ n ih => exact congrArg Nat.succ (ih _)

/-- The number that the first bytes of a number make. -/
theorem leNat_leBytes (n v : Nat) : leNat (leBytes n v) = v % 256 ^ n := by
  induction n generalizing v with
  | zero => exact (Nat.mod_one v).symm
  | succ n ih =>
    have hcons : leNat (leBytes (n + 1) v) = v % 256 + 256 * leNat (leBytes n (v / 256)) := by
      rw [← BitVec.toNat_ofNat (w := 8)]
      rfl
    rw [hcons, ih, pow_succ', Nat.mod_mul]

/-- A number that fits its bytes is read back from them. -/
theorem leNat_leBytes_of_lt {n v : Nat} (h : v < 256 ^ n) : leNat (leBytes n v) = v := by
  rw [leNat_leBytes, Nat.mod_eq_of_lt h]

/-! ### When the report writer is granted -/

theorem requestClass_eq_six {s : State} {q : Requester} : requestClass s q = 6 ↔ q = .reportWriter := by
  cases q with
  | composer l => rcases composerClass_cases s l with h | h <;> simp [requestClass, h]
  | _ => simp [requestClass]

theorem requestClass_le_six (s : State) (q : Requester) : requestClass s q ≤ 6 := by
  have := requestClass_mem s q
  simp only [List.mem_cons, List.not_mem_nil, or_false] at this
  omega

/-- In class 6 the report writer's request is granted (R156). -/
theorem grantInClass_six {s : State} {w : List Requester} (h : .reportWriter ∈ w) :
    grantInClass s 6 w = some .reportWriter := by
  obtain ⟨r, hr⟩ := Option.isSome_iff_exists.1 (grantInClass_isSome (s := s) h)
  have hr6 := requestClass_eq_six.1 (grantInClass_mem hr).2
  rw [← hr6]
  exact hr

/-- The report writer's request, of the lowest class, is granted where no other waits (R156). -/
theorem grants_reportWriter {s : State} : s.grants .reportWriter = true ↔ ∀ q ∈ s.requests, q = .reportWriter := by
  have hclass : requestClass s .reportWriter = 6 := rfl
  have hsix (q : Requester) : 6 ≤ requestClass s q ↔ q = .reportWriter :=
    (requestClass_le_six s q).ge_iff_eq'.trans (eq_comm.trans requestClass_eq_six)
  unfold State.grants
  rw [beq_iff_eq, arbiterGrant_eq_some, hclass]
  simp only [hsix]
  by_cases hm : .reportWriter ∈ s.requests
  · rw [if_pos (by simpa using hm), and_iff_left (grantInClass_six hm)]
  · rw [if_neg (by simpa using hm), and_iff_left (grantInClass_six (by simp))]
    simp [or_imp]

/-! ### Its two writes -/

/-- The overflow word written reads 1 (R173). -/
theorem memRead_overflowWritten {s : State} (h : Memory.wf s.mem = true) (x : Nat) :
    memRead (writeCountWord overflowAddr 1 s).mem x =
      if x = 0x102010 then 1 else if 0x102010 < x ∧ x < 0x102018 then 0 else memRead s.mem x := by
  rw [memRead_writeCountWord _ _ h]
  have hbytes : leBytes 8 (1 : Count).toNat = 1 :: leBytes 7 0 := rfl
  rw [hbytes, overflowAddr]
  by_cases hx : x = 0x102010
  · subst hx
    simp
  · by_cases hrest : 0x102010 < x ∧ x < 0x102018
    · obtain ⟨k, rfl⟩ := Nat.exists_eq_add_of_lt hrest.1
      rw [if_pos (by omega), if_neg hx, if_pos hrest, Nat.add_assoc, Nat.add_sub_cancel_left]
      exact leBytes_zero_getD 7 k
    · rw [if_neg (by omega), if_neg hx, if_neg hrest]

theorem mem_badWords_writeCountWord {w a : Nat} {v : Count} {s : State} :
    w ∈ (writeCountWord (8 * a) v s).badWords ↔ w ∈ s.badWords ∧ w ≠ a := by
  have hlen : (leBytes 8 v.toNat).length = 8 := length_leBytes _ _
  rw [writeCountWord, writeWords, hlen]
  simp
  omega

theorem writeOwed_waits {s : State} (h : s.grants .reportWriter = false) : writeOwed s = s :=
  if_neg fun hw => by simp [h] at hw

theorem writeOwed_none {s : State} (h : s.overflowOwed = 0) : writeOwed s = s :=
  if_neg fun hw => by simp [h] at hw

/-- The overflow word written, which of the rest changes only what waits (R173). -/
theorem writeOwed_granted {s : State} (hwf : Memory.wf s.mem = true) (ho : 0 < s.overflowOwed)
    (hg : s.grants .reportWriter = true) : ∃ m b,
    writeOwed s = { s with mem := m, badWords := b, overflowOwed := s.overflowOwed - 1
                           waiting := s.waiting.filter (· != .reportWriter) } ∧
      (∀ w, w ∈ b ↔ w ∈ s.badWords ∧ w ≠ 0x20402) ∧ ∀ x, memRead m x =
        if x = 0x102010 then 1 else if 0x102010 < x ∧ x < 0x102018 then 0 else memRead s.mem x :=
  ⟨_, _, if_pos ⟨ho, hg⟩, fun _ => mem_badWords_writeCountWord (a := 0x20402),
    memRead_overflowWritten (s := s.served .reportWriter) hwf⟩

/-- One record more is unconsumed, where there is room for it (R171). -/
theorem unconsumed_succ {n c : Count} (h : (n - c).toNat < 256) : (n + 1 - c).toNat = (n - c).toNat + 1 := by
  bv_omega

/-- What a record written changes beside memory (R171, R174). -/
theorem writeRecord_eq (r : Report) {s : State} (h : s.unconsumed.toNat < 256) : writeRecord r s =
    { s with mem := (writeRecord r s).mem, badWords := (writeRecord r s).badWords, writeCount := s.writeCount + 1
             attn := true } := by
  have hsucc := unconsumed_succ h
  have hattn : (s.writeCount + 1 - s.consumed != 0) = true := (ne_zero_iff_toNat_pos _).2 (by omega)
  simp only [writeRecord, judgeAttn, writeCountWord, writeWords, State.unconsumed, hattn]

/-- A record's writes bring no error (R155). -/
theorem mem_badWords_of_writeRecord {r : Report} {s : State} {w : Nat} (h : w ∈ (writeRecord r s).badWords) :
    w ∈ s.badWords := List.mem_of_mem_filter (List.mem_of_mem_filter h)

theorem entryAddr_add_le (n : Count) : entryAddr n + 32 ≤ 0x102000 := by
  unfold entryAddr reportRingBase
  omega

/-- The record stands at its entry (R171). -/
theorem memRead_writeRecord_entry (r : Report) {s : State} (h : Memory.wf s.mem = true) {i : Nat} (hi : i < 32) :
    memRead (writeRecord r s).mem (entryAddr s.writeCount + i) = (recordBytes r).getD i 0 := by
  have hend := entryAddr_add_le s.writeCount
  have hcount : ¬ (writeCountAddr ≤ entryAddr s.writeCount + i ∧ entryAddr s.writeCount + i < writeCountAddr + 8) := by
    unfold writeCountAddr
    omega
  rw [writeRecord_mem, memRead_writeCountWord _ _ (wf_writeWords h _ _), if_neg hcount, memRead_writeWords h,
    length_recordBytes, if_pos (by omega), Nat.add_sub_cancel_left]

/-- The write count word reads the count of records written (R171). -/
theorem leNat_writeRecord_count (r : Report) {s : State} (h : Memory.wf s.mem = true) :
    leNat (memReadBytes (writeRecord r s).mem 0x102000 8) = (s.writeCount + 1).toNat := by
  have hbytes : memReadBytes (writeRecord r s).mem 0x102000 8 = leBytes 8 (s.writeCount + 1).toNat := by
    refine List.ext_getElem (by simp [memReadBytes, length_leBytes]) fun i hi hi' => ?_
    rw [length_leBytes] at hi'
    have hin : writeCountAddr ≤ 0x102000 + i ∧ 0x102000 + i < writeCountAddr + 8 := by
      unfold writeCountAddr
      omega
    simp only [memReadBytes, List.getElem_map, List.getElem_range]
    rw [writeRecord_mem, memRead_writeCountWord _ _ (wf_writeWords h _ _), if_pos hin, writeCountAddr,
      Nat.add_sub_cancel_left, List.getD_eq_getElem _ _ (by rwa [length_leBytes])]
  rw [hbytes, leNat_leBytes_of_lt ((s.writeCount + 1).isLt.trans (by decide))]

/-! ### The turn -/

section
variable {s : State} {r : Report} {rs : List Report}

theorem reportWrite_of_owed (ho : 0 < s.overflowOwed) : reportWrite s = writeOwed s :=
  congrArg writeOwed (if_neg (by omega))

theorem reportWrite_of_none_owed (ho : s.overflowOwed = 0) : reportWrite s = writeOwed (handleHead s) :=
  congrArg writeOwed (if_pos ho)

theorem handleHead_empty (hr : s.reports = []) : handleHead s = s := by
  rw [handleHead, hr]

/-- With room in the ring the head report is written once the writer is granted (R171). -/
theorem handleHead_room (hr : s.reports = r :: rs) (hroom : s.unconsumed.toNat < 256) : handleHead s =
    if s.grants .reportWriter then writeRecord r { s.served .reportWriter with reports := rs } else s := by
  rw [handleHead, hr]
  exact if_pos hroom

/-- With 256 records unconsumed the head report is dropped (R171). -/
theorem handleHead_full (hr : s.reports = r :: rs) (hfull : s.unconsumed.toNat = 256) :
    handleHead s = noteDrop { s with reports := rs } := by
  rw [handleHead, hr]
  exact if_neg (by omega)

/-- The turn in which the head report is written: its record, the write count and its word, and ATTN (R171, R174). -/
theorem reportWrite_record (hwf : Memory.wf s.mem = true) (ho : s.overflowOwed = 0) (hr : s.reports = r :: rs)
    (hroom : s.unconsumed.toNat < 256) (hg : s.grants .reportWriter = true) : ∃ m b,
    reportWrite s = { s with mem := m, badWords := b, reports := rs, writeCount := s.writeCount + 1, attn := true
                             waiting := s.waiting.filter (· != .reportWriter) } ∧
      (∀ i, i < 32 → memRead m (entryAddr s.writeCount + i) = (recordBytes r).getD i 0) ∧
      leNat (memReadBytes m 0x102000 8) = (s.writeCount + 1).toNat ∧
      (∀ x, ¬ (entryAddr s.writeCount ≤ x ∧ x < entryAddr s.writeCount + 32) →
        ¬ (writeCountAddr ≤ x ∧ x < writeCountAddr + 8) → memRead m x = memRead s.mem x) ∧
      ∀ w ∈ b, w ∈ s.badWords := by
  let u := { s.served .reportWriter with reports := rs }
  have he : writeRecord r u = _ := writeRecord_eq r hroom
  have howed : (writeRecord r u).overflowOwed = 0 := (congrArg State.overflowOwed he).trans ho
  refine ⟨(writeRecord r u).mem, (writeRecord r u).badWords, ?_, fun i hi => memRead_writeRecord_entry (s := u) r hwf hi,
    leNat_writeRecord_count (s := u) r hwf, fun x hentry hcount => writeRecord_bytes (s := u) r hwf hcount hentry,
    fun w hw => mem_badWords_of_writeRecord hw⟩
  rw [reportWrite_of_none_owed ho, handleHead_room hr hroom, if_pos hg, writeOwed_none howed]
  exact he

end

/-- Settles O20: the writer's turn by what it finds, and the record's layout from its definition. -/
theorem reportIsWrittenOrDropped : Obligations.ReportIsWrittenOrDropped := by
  intro s hwf
  refine ⟨grants_reportWriter, fun ho => ⟨fun hg => ?_, fun hg => ?_⟩,
    fun r rs ho hr hroom => ⟨fun hg => ?_, fun hg => ?_⟩,
    fun r rs ho hr hfull => ?_, fun ho hr => ?_, fun r => ?_⟩
  · exact congrArg _ ((reportWrite_of_owed ho).trans (writeOwed_waits hg))
  · obtain ⟨m, b, he, hb, hm⟩ := writeOwed_granted hwf ho hg
    exact ⟨_, congrArg Host.Outcome.next ((reportWrite_of_owed ho).trans he), rfl, hb, hm⟩
  · have hwaits : handleHead s = s := (handleHead_room hr hroom).trans (if_neg (by simp [hg]))
    refine congrArg _ ((reportWrite_of_none_owed ho).trans ?_)
    rw [hwaits, writeOwed_waits hg]
  · obtain ⟨m, b, he, hentry, hcount, hrest, hbad⟩ := reportWrite_record hwf ho hr hroom hg
    exact ⟨_, congrArg Host.Outcome.next he, rfl, hentry, hcount, hrest, hbad, (unconsumed_succ hroom).trans_le hroom⟩
  · have hdrop : exec .reportWrite s = .next (writeOwed (noteDrop { s with reports := rs })) :=
      congrArg _ ((reportWrite_of_none_owed ho).trans (congrArg writeOwed (handleHead_full hr hfull)))
    have hnoted : s.overflowFlag = false → noteDrop { s with reports := rs } =
        { s with reports := rs, overflowFlag := true, overflowOwed := 1 } := fun hf => by
      rw [noteDrop, if_neg (by simp [hf])]
      simp [ho]
    rw [hdrop]
    refine ⟨fun hf => ?_, fun hf hg => ?_, fun hf hg => ?_⟩
    · rw [noteDrop, if_pos hf]
      exact congrArg _ (writeOwed_none ho)
    · rw [hnoted hf]
      exact congrArg _ (writeOwed_waits hg)
    · rw [hnoted hf]
      obtain ⟨m, b, he, -, hm⟩ :=
        writeOwed_granted (s := { s with reports := rs, overflowFlag := true, overflowOwed := 1 }) hwf Nat.one_pos hg
      refine ⟨_, congrArg Host.Outcome.next he, ?_, hm⟩
      simp [ho]
  · refine congrArg _ ((reportWrite_of_none_owed ho).trans ?_)
    rw [handleHead_empty hr, writeOwed_none ho]
  · have hnum (n : Nat) {w : Nat} (v : BitVec w) (hw : 2 ^ w ≤ 256 ^ n) : leNat (leBytes n v.toNat) = v.toNat :=
      leNat_leBytes_of_lt (v.isLt.trans_le hw)
    exact ⟨rfl, rfl, rfl, hnum 2 r.tag (by decide), hnum 4 r.stamp (by decide), rfl, rfl, rfl, rfl,
      hnum 4 r.detailA (by decide), hnum 4 r.detailB (by decide), hnum 4 r.detailC (by decide),
      hnum 4 r.detailD (by decide), rfl⟩

end Sys2Proof.Machine
end

section
/-! ## Lanes: what every choice and lane event keeps of records, ring, tables and waiting requests -/

namespace Sys2Proof.Machine

/-! ### Changes beside the promises -/

/-- The state without what `RecordsSafe`, `RingSafe`, `TablesSafe` and `WaitingSafe` do not speak of. -/
def State.promised (s : State) : State :=
  { s with
    pending := [], badWords := [], arbLast1 := 0, arbLast4 := 0, clock := 0, engine := .passThrough, profile := none
    held := none, responses := [], discarded := 0, slotPointer := 0, proof := none, assembly := [], inHand := none
    overflowFlag := false, overflowOwed := 0, free := 0 }

/-- A page record without what the promises do not speak of, and without its state and its photos. -/
def Page.core (p : Page) : Page :=
  { p with
    state := .opened, localFlag := false, screenSlot := 0, version := 0, lockCount := 0, photos := [], photoFill := 0
    deferred := [], purgePending := none, openStamp := 0, closeStamp := none }

/-- A page record changed in nothing the promises speak of but its photos; it may become CLOSED. -/
structure Page.Kin (p q : Page) : Prop where
  core : q.core = p.core
  closed : p.state = .closed → q.state = .closed

/-- A page record changed in nothing the promises speak of; it may become CLOSED. -/
structure Page.Alike (p q : Page) : Prop extends Page.Kin p q where
  photos : q.photos = p.photos

/-- No request for words of a lane's rows asks for more than 8 (R156). -/
def Lane.rowsWithin (L : Lane) : Prop :=
  ∀ c, L.frontCtx = some c ∨ L.backCtx = some c → ∀ w ∈ c.row, w.read.asked ≤ 8

/-- Contexts that are a lane's own or have no row in composition. -/
theorem Lane.rowsWithin.of {L M : Lane} (h : L.rowsWithin)
    (hc : ∀ c, M.frontCtx = some c ∨ M.backCtx = some c → (L.frontCtx = some c ∨ L.backCtx = some c) ∨ c.row = []) :
    M.rowsWithin := fun c hm w hw => by
  rcases hc c hm with hl | he
  · exact h c hl w hw
  · rw [he] at hw
    cases hw

/-- A property kept by changes beside the Unpacker's work: reports, memory in its form, changes of a lane whose rows ask
for no more, and changes of a page record beside the promises. -/
structure LanesKeep (P : State → Prop) : Prop where
  same : ∀ {s t}, t.promised = s.promised → P s → P t
  tells : ∀ {s} r, P s → P (submit r s)
  memory : ∀ {s} m, (Memory.wf s.mem = true → Memory.wf m = true) → P s → P { s with mem := m }
  lane : ∀ {s} l {g : Lane → Lane}, ((s.lane l).rowsWithin → (g (s.lane l)).rowsWithin) → P s → P (modLane l g s)
  page : ∀ {s} f {g}, (∀ p : Page, p.Alike (g p)) → P s → P (modPage f g s)

section
variable {P : State → Prop} (k : LanesKeep P)
include k

/-! ### Memory -/

/-- A change beside the promises. -/
theorem LanesKeep.beside {s t : State} (h : P s) (e : t.promised = s.promised) : P t := k.same e h

theorem LanesKeep.withMemory {s v : State} (hw : Memory.wf s.mem = true → Memory.wf v.mem = true) (h : P s) :
    P (s.withMemory v) := k.beside (k.memory v.mem hw h) rfl

omit k in
theorem wf_writeStretches (ws : List (Nat × List Byte)) {s : State} (h : Memory.wf s.mem = true) :
    Memory.wf (writeStretches ws s).mem = true := by
  induction ws generalizing s with
  | nil => exact h
  | cons w ws ih => exact ih (s := writeWords w.1 w.2 s) (wf_writeWords h _ _)

theorem LanesKeep.writeStretches {s : State} (ws : List (Nat × List Byte)) (h : P s) : P (writeStretches ws s) := by
  rw [writeStretches_eq]
  exact k.withMemory (wf_writeStretches ws) h

theorem LanesKeep.writeWords {s : State} (a : Nat) (bs : List Byte) (h : P s) : P (writeWords a bs s) :=
  k.withMemory (v := Machine.writeWords a bs s) (fun hw => wf_writeWords hw a bs) h

theorem LanesKeep.storeRing {s : State} (o : Nat) (bs : List Byte) (h : P s) : P (storeRing o bs s) := by
  rw [storeRing_eq]
  exact k.withMemory (wf_storeRing o bs) h

theorem LanesKeep.strayRingWrite {s : State} (b : Body) (h : P s) : P (strayRingWrite b s) := by
  rw [strayRingWrite_eq]
  exact k.beside (k.memory _ (wf_strayRingWrite b) h) rfl

/-! ### Choices -/

theorem LanesKeep.modPlate {s : State} (l : LaneId) (tag : Tag) (g : Plate → Plate) (h : P s) :
    P (modPlate l tag g s) :=
  k.lane l (fun hr => hr) h

theorem LanesKeep.sendMsg {s : State} (l : LaneId) (m : SetterMsg) (h : P s) : P (sendMsg l m s) :=
  k.lane l (fun hr => hr) h

theorem LanesKeep.setHeld {s : State} (l : LaneId) (tag : Tag) (r : Option HeldReason) (h : P s) :
    P (setHeld l tag r s) := by
  unfold Machine.setHeld
  split
  · exact k.modPlate l tag _ h
  · exact h

theorem LanesKeep.choiceEmpty {s : State} (l : LaneId) (h : P s) : P (choiceEmpty l s) := by
  unfold Machine.choiceEmpty
  split
  · exact k.lane l (fun hr => hr) h
  · split
    · exact h
    · split
      · exact h
      · exact k.lane l (fun hr => hr) (k.tells _ h)

theorem LanesKeep.takeLock {s : State} (f : Nat) (h : P s) : P (takeLock f s) :=
  k.page f (fun _ => ⟨⟨rfl, id⟩, rfl⟩) h

theorem LanesKeep.releaseLock {s : State} (key : Key) (h : P s) : P (releaseLock key s) := by
  unfold Machine.releaseLock
  split
  · exact k.page _ (fun _ => ⟨⟨rfl, id⟩, rfl⟩) h
  · exact h

theorem LanesKeep.beginLoading {s : State} (l : LaneId) (p : Plate) (f : Nat) (h : P s) : P (beginLoading l p f s) := by
  unfold Machine.beginLoading
  split
  · refine k.lane l (fun hr => hr.of fun c hc => ?_) (k.modPlate l _ _ (k.takeLock f h))
    rcases hc with hc | hc
    · exact .inl (.inl hc)
    · obtain rfl := Option.some.inj hc
      exact .inr rfl
  · exact h

theorem LanesKeep.chooseFrom {l : LaneId} (ps : List Plate) {s : State} (h : P s) : P (chooseFrom l ps s) := by
  induction ps generalizing s with
  | nil => exact k.choiceEmpty l h
  | cons p ps ih =>
    unfold Machine.chooseFrom
    split
    · exact k.beginLoading l p _ h
    · exact ih (k.setHeld l _ _ h)

theorem LanesKeep.choose {s : State} (l : LaneId) (h : P s) : P (choose l s) := by
  unfold Machine.choose
  split
  · exact k.chooseFrom _ h
  · exact h

theorem LanesKeep.announce {s : State} (h : P s) : P (announce s) :=
  k.choose 3 (k.choose 2 (k.choose 1 (k.choose 0 h)))

theorem LanesKeep.announceIf {s : State} (b : Bool) (h : P s) : P (announceIf b s) := by
  cases b
  · exact h
  · exact k.announce h

/-! ### START and lateness -/

theorem LanesKeep.sendStart {s : State} {l : LaneId} {p : Plate} {c : Latched} (hs : startReady s l = some (p, c))
    (h : P s) : P (sendStart l p c s) := by
  obtain ⟨-, hctx, -⟩ := startReady_eq_some.1 hs
  refine k.lane l (fun hr => hr.of fun d hd => .inl (.inr ?_)) (k.modPlate l _ _ (k.sendMsg l _ h))
  rw [Machine.modPlate, lane_modLane, Machine.sendMsg, lane_modLane]
  rcases hd with hd | hd
  · exact hctx.trans hd
  · cases hd

theorem LanesKeep.tryStart {s : State} (l : LaneId) (h : P s) : P (tryStart l s) := by
  unfold Machine.tryStart
  split
  · next hs => exact k.choose l (k.sendStart hs h)
  · exact h

theorem LanesKeep.startThenChoose {s : State} (l : LaneId) (h : P s) : P (startThenChoose l s) := by
  unfold Machine.startThenChoose
  split
  · next hs => exact k.choose l (k.sendStart hs h)
  · exact k.choose l h

theorem LanesKeep.lateTest {s : State} (l : LaneId) (tag : Tag) (h : P s) : P (lateTest l tag s) := by
  rcases lateTest_cases l tag s with ht | ⟨p, ht⟩ <;> rw [ht]
  · exact h
  · exact k.modPlate l tag _ (k.tells _ h)

/-! ### Plates that leave their place -/

omit k in
theorem rowsWithin_dropFront {L : Lane} (h : L.rowsWithin) {M : Lane} (hf : M.frontCtx = none)
    (hb : M.backCtx = L.backCtx) : M.rowsWithin :=
  h.of fun c hc => .inl (.inr (hc.elim (fun e => by rw [hf] at e; cases e) fun e => by rwa [hb] at e))

theorem LanesKeep.dropFront {s : State} (l : LaneId) (h : P s) : P (dropFront l s) :=
  k.lane l (fun hr => rowsWithin_dropFront hr rfl rfl) h

theorem LanesKeep.dropBack {s : State} (l : LaneId) (h : P s) : P (dropBack l s) :=
  k.lane l (fun hr => hr.of fun _ hc => .inl (hc.imp_right fun e => nomatch e)) h

theorem LanesKeep.endPlate {s : State} (p : Plate) (e : PlateEnd) (h : P s) : P (endPlate p e s) := by
  unfold Machine.endPlate removePlate
  refine k.lane _ (fun hr => hr) ?_
  split
  · exact k.releaseLock _ (k.tells _ h)
  · exact k.tells _ h

theorem LanesKeep.returnPlate {s : State} (p : Plate) (n : Nat) (h : P s) : P (returnPlate p n s) := by
  refine k.lateTest _ _ (k.lane _ (fun hr => hr) ?_)
  split
  · exact k.releaseLock _ h
  · exact h

theorem LanesKeep.giveBack {s : State} (l : LaneId) (h : P s) : P (giveBack l s) := by
  unfold Machine.giveBack
  split
  · exact k.returnPlate _ _ (k.dropBack l h)
  · exact h

theorem LanesKeep.spoil {s : State} (p : Plate) (c : SpoilCause) (h : P s) : P (spoil p c s) :=
  k.lane _ (fun hr => rowsWithin_dropFront hr rfl rfl) (k.modPlate _ _ _ (k.tells _ h))

theorem LanesKeep.cancelFront {s : State} (p : Plate) (h : P s) : P (cancelFront p s) :=
  k.dropFront _ (k.modPlate _ _ _ (k.sendMsg _ _ h))

theorem LanesKeep.resolveFront {s : State} (l : LaneId) (h : P s) : P (resolveFront l s) := by
  have hd := k.dropFront l h
  unfold Machine.resolveFront
  split
  · exact h
  · simp only
    split
    · exact k.tells _ (k.endPlate _ _ hd)
    · split
      · exact k.returnPlate _ _ hd
      · exact k.endPlate _ _ hd

theorem LanesKeep.leaveFront {s : State} (l : LaneId) (before : State) (h : P s) : P (leaveFront l before s) := by
  unfold Machine.leaveFront
  split
  · exact k.startThenChoose l h
  · exact k.tryStart l h

/-- Every QUEUED plate of a page withdrawn by its purge (R127). -/
theorem LanesKeep.withdrawAll {s : State} (key : Key) (h : P s) : P (withdrawAll key s) := by
  have fold (ps : List Plate) :
      ∀ {t : State}, P t → P (ps.foldl (fun t p => Machine.endPlate p .withdrawnByPurge t) t) := by
    induction ps with
    | nil => exact id
    | cons p ps ih => exact fun ht => ih (k.endPlate p _ ht)
  exact fold _ (fold _ (fold _ (fold _ h)))

/-! ### Setter messages, feeding and rows -/

theorem LanesKeep.takeMessage {s : State} (l : LaneId) (h : P s) : P (takeMessage l s) := by
  unfold Machine.takeMessage
  simp only
  split
  · exact k.tells _ (k.lane l (fun hr => hr) (k.lane l (fun hr => hr) h))
  · exact k.lane l (fun hr => hr) h

theorem LanesKeep.feed {l : LaneId} (n : Nat) {s : State} (h : P s) : P (feed l n s) := by
  induction n generalizing s with
  | zero => exact h
  | succ n ih =>
    unfold Machine.feed
    split
    · next p r rest _ _ =>
      split
      · have hsent : P (sendRow l r rest s) := k.lane l (fun hr => hr) (k.sendMsg l _ h)
        simp only
        split
        · exact k.lane l (fun hr => hr) (k.modPlate l _ _ (k.sendMsg l _ hsent))
        · exact ih hsent
      · exact h
    · exact h

theorem LanesKeep.readyTaken {s : State} (l : LaneId) (h : P s) : P (readyTaken l s) := by
  unfold Machine.readyTaken
  split
  · exact k.tryStart l (k.lane l (fun hr => hr) h)
  · exact k.tells _ h

theorem LanesKeep.pullTaken {s : State} (l : LaneId) (n : BitVec 16) (h : P s) : P (pullTaken l n s) := by
  unfold Machine.pullTaken
  split
  · next p hp =>
    split
    · exact k.tells _ h
    · split
      · split
        · unfold underrun
          rw [hp]
          exact k.cancelFront p (k.spoil p _ h)
        · exact k.feed _ (k.lane l (fun hr => hr) h)
      · split
        · exact h
        · exact k.tells _ h
  · exact k.tells _ h

theorem LanesKeep.exposeFront {s : State} (l : LaneId) (p : Plate) (h : P s) : P (exposeFront l p s) := by
  have he := k.endPlate p .exposed (k.dropFront l h)
  unfold Machine.exposeFront
  simp only
  split
  · exact k.tells _ he
  · exact he

theorem LanesKeep.faultFront {s : State} (l : LaneId) (h : P s) : P (faultFront l s) := by
  unfold Machine.faultFront
  split
  · split
    · exact k.resolveFront l h
    · exact k.resolveFront l (k.spoil _ _ h)
  · exact h

theorem LanesKeep.lossFront {s : State} (l : LaneId) (h : P s) : P (lossFront l s) := by
  unfold Machine.lossFront
  split
  · split
    · exact k.resolveFront l h
    · exact k.resolveFront l (k.spoil _ _ h)
  · exact h

theorem LanesKeep.placeRow {s : State} (l : LaneId) (m : RowMark) (c : Latched) (bytes : List Byte) (h : P s) :
    P (placeRow l m c bytes s) := by
  refine k.lane l (fun hr => hr.of fun d hd => ?_) h
  cases m with
  | front =>
    rcases hd with hd | hd
    · obtain rfl := Option.some.inj hd
      exact .inr rfl
    · exact .inl (.inr hd)
  | back =>
    rcases hd with hd | hd
    · exact .inl (.inl hd)
    · obtain rfl := Option.some.inj hd
      exact .inr rfl

theorem LanesKeep.rowPlaced {s : State} (l : LaneId) (m : RowMark) (h : P s) : P (rowPlaced l m s) := by
  cases m
  · exact k.feed _ h
  · exact k.tryStart l h

end

/-! ### Properties of the same kind -/

/-- The Unpacker's page and its work, the tables, and what waits are beside what the lanes do. -/
theorem lanesKeep_unpackerPage (o : Option Nat) : LanesKeep fun s => s.unpackerPage = o where
  same e h := (congrArg State.unpackerPage e).trans h
  tells r h := (submit_unpackerPage r _).trans h
  memory _ _ h := h
  lane _ _ _ h := h
  page f _ _ h := (modPage_unpackerPage f _ _).trans h

theorem LanesKeep.and {P Q : State → Prop} (k : LanesKeep P) (j : LanesKeep Q) : LanesKeep fun s => P s ∧ Q s where
  same e h := ⟨k.same e h.1, j.same e h.2⟩
  tells r h := ⟨k.tells r h.1, j.tells r h.2⟩
  memory m hm h := ⟨k.memory m hm h.1, j.memory m hm h.2⟩
  lane l _ hg h := ⟨k.lane l hg h.1, j.lane l hg h.2⟩
  page f _ hg h := ⟨k.page f hg h.1, j.page f hg h.2⟩

/-- The state with the Unpacker at rest: it has nothing in hand, and no page. -/
def State.rested (s : State) : State := { s with unpacker := .idle, unpackerPage := none }

theorem rested_submit (r : Report) (s : State) : (submit r s).rested = submit r s.rested := by
  unfold submit noteDrop
  split
  · next h => exact (if_pos h).symm
  · next h =>
    refine Eq.trans ?_ (if_neg h).symm
    split
    · next h => exact (if_pos h).symm
    · next h => exact (if_neg h).symm

theorem rested_modPage (f : Nat) (g : Page → Page) (s : State) : (modPage f g s).rested = modPage f g s.rested := by
  have hp : s.rested.page f = s.page f := rfl
  unfold modPage
  rw [hp]
  cases s.page f <;> rfl

/-- What the lanes do is kept beside the Unpacker's work. -/
theorem LanesKeep.rested {P : State → Prop} (k : LanesKeep P) : LanesKeep fun s => P s.rested where
  same {s t} e h := k.same (s := s.rested) (t := t.rested) (congrArg State.rested e) h
  tells r h := by
    rw [rested_submit]
    exact k.tells r h
  memory {s} m hm h := k.memory (s := s.rested) m hm h
  lane {s} l _ hg h := k.lane (s := s.rested) l hg h
  page f _ hg h := by
    rw [rested_modPage]
    exact k.page f hg h

end Sys2Proof.Machine
end

section
/-! ## Segments: what the changes of a page's content keep -/

namespace Sys2Proof.Machine

/-! ### Tiles whose damage may change -/

/-- A page record of the same size whose damage may differ in some tiles, its count left as it was. -/
structure Page.Reflagged (ts : List (Nat × Nat)) (p q : Page) : Prop where
  tw : q.tw = p.tw
  th : q.th = p.th
  damaged : q.damaged = p.damaged
  closed : p.state = .closed → q.state = .closed
  others : ∀ ps f x y, p.holds x y = true → (x, y) ∉ ts → tileDamaged ps f q x y = tileDamaged ps f p x y

theorem tileDamaged_modFlagsOf_other {ps : List PatchEntry} {f : Nat} {p : Page} {ts : List (Nat × Nat)} {x y : Nat}
    (g : TileFlags → TileFlags) (h : p.holds x y = true) (hn : (x, y) ∉ ts) :
    tileDamaged ps f (p.modFlagsOf g ts) x y = tileDamaged ps f p x y := by
  have hflags := modFlagsOf_flags_other p g h hn
  have hh : (p.modFlagsOf g ts).holds x y = p.holds x y := by
    rw [modFlagsOf_eq]
    rfl
  have hc : (p.modFlagsOf g ts).stripCondition y = p.stripCondition y := by
    rw [modFlagsOf_eq]
    rfl
  simp only [tileDamaged, hh, hc, hflags]

/-- Flags of some tiles changed (R71, R72). -/
theorem Page.Reflagged.modFlagsOf (p : Page) (g : TileFlags → TileFlags) (ts : List (Nat × Nat)) :
    Page.Reflagged ts p (p.modFlagsOf g ts) where
  tw := by rw [modFlagsOf_eq]
  th := by rw [modFlagsOf_eq]
  damaged := by rw [modFlagsOf_eq]
  closed h := by
    rw [modFlagsOf_eq]
    exact h
  others _ _ _ _ h hn := tileDamaged_modFlagsOf_other g h hn

/-- A page record changed in photos and PHOTO flags (R53, R54, R62). -/
theorem Page.Reflagged.photosRevised (p : Page) (photos : List PhotoRecord) (fill : Nat) (flag : Bool)
    (ts : List (Nat × Nat)) : Page.Reflagged ts p (p.photosRevised photos fill flag ts) where
  tw := (Page.Reflagged.modFlagsOf p _ ts).tw
  th := (Page.Reflagged.modFlagsOf p _ ts).th
  damaged := (Page.Reflagged.modFlagsOf p _ ts).damaged
  closed := (Page.Reflagged.modFlagsOf p _ ts).closed
  others := (Page.Reflagged.modFlagsOf p _ ts).others

/-- The strip condition of a tile row goes by the states of its own strips (R70). -/
theorem tileDamaged_strips_other {ps : List PatchEntry} {f : Nat} {p : Page} {strips : List StripState} {x y : Nat}
    (h : ∀ i, i < 16 → strips.getD (16 * y + i) .absent = p.strips.getD (16 * y + i) .absent) :
    tileDamaged ps f { p with strips := strips } x y = tileDamaged ps f p x y := by
  have hc : ({ p with strips := strips } : Page).stripCondition y = p.stripCondition y := by
    rw [Bool.eq_iff_iff, Page.stripCondition, Page.stripCondition, List.any_eq_true, List.any_eq_true]
    refine exists_congr fun i => and_congr_right fun hi => ?_
    rw [h i (List.mem_range.1 hi)]
  simp only [tileDamaged, hc]
  rfl

/-- A strip's state set (R7, R52). -/
theorem Page.Reflagged.setStrip (p : Page) (i : Nat) (v : StripState) :
    Page.Reflagged (rowTiles p.tw (i / 16)) p { p with strips := p.strips.set i v } where
  tw := rfl
  th := rfl
  damaged := rfl
  closed := id
  others ps f x y hh hn := tileDamaged_strips_other fun j hj => by
    have hy : y ≠ i / 16 := fun e => hn (mem_rectTiles.2 (by
      have hx : x < p.tw ∧ y < p.th := by simpa [Page.holds] using hh
      omega))
    rw [List.getD_eq_getElem?_getD, List.getD_eq_getElem?_getD, List.getElem?_set_ne (by omega)]

/-- Every tile of a page may change. -/
theorem Page.Reflagged.strips (p : Page) (strips : List StripState) :
    Page.Reflagged (allTiles p.tw p.th) p { p with strips := strips } where
  tw := rfl
  th := rfl
  damaged := rfl
  closed := id
  others _ _ _ _ hh hn := absurd (mem_allTiles.2 hh) hn

/-! ### A page's content at the Unpacker's rest -/

theorem LanesKeep.submitFor {P : State → Prop} (k : LanesKeep P) {s : State} (f : Nat) (r : Page → Report) (h : P s) :
    P (submitFor f r s) := by
  unfold Machine.submitFor
  split
  · exact k.tells _ h
  · exact h

/-- A page becomes CLOSED (R21, R58). -/
theorem LanesKeep.closes {P : State → Prop} (k : LanesKeep P) {s : State} (f : Nat) (c : Option Tick) (h : P s) :
    P (modPage f (fun p => { p with state := .closed, closeStamp := c }) s) :=
  k.page f (fun _ => ⟨⟨rfl, fun _ => rfl⟩, rfl⟩) h


/-- A property kept by what a segment does to its page's content, the Unpacker's work apart. -/
structure ContentKeep (P : State → Prop) : Prop extends LanesKeep P where
  flags : ∀ {s} f {ts} {g : Page → Page}, ts.Nodup → (∀ p, s.page f = some p → p.Reflagged ts (g p)) → P s →
    P (recount f ts s (modPage f g s))
  photos : ∀ {s} f {g}, (∀ p : Page, p.Kin (g p)) → P s → P (modPage f g s)

section
variable {P : State → Prop} (k : ContentKeep P)
include k

theorem ContentKeep.flagsTold {s : State} (f : Nat) {ts : List (Nat × Nat)} {g : Page → Page} (hn : ts.Nodup)
    (hg : ∀ p, s.page f = some p → p.Reflagged ts (g p)) (h : P s) : P (recountTell f ts s (modPage f g s)) :=
  k.announceIf _ (k.flags f hn hg h)

theorem ContentKeep.changeStrip {s : State} {f : Nat} {p : Page} (hp : s.page f = some p) (i : Nat) (v : StripState)
    (h : P s) : P (changeStrip f p.tw i v s) := by
  refine k.flagsTold f (nodup_rectTiles _ _ _ _) (fun q hq => ?_) h
  obtain rfl := Option.some.inj (hp.symm.trans hq)
  exact .setStrip p i v

theorem ContentKeep.placePhoto {s : State} (f : Nat) (r : PhotoRecord) (fill : Nat) (h : P s) :
    P (placePhoto f r fill s) := by
  rw [placePhoto_eq]
  exact k.flagsTold f (nodup_rectTiles _ _ _ _) (fun p _ => .photosRevised p _ _ _ _) h

theorem ContentKeep.flagMissing {s : State} (f : Nat) (r : PhotoRecord) (a b : Nat) (h : P s) :
    P (flagMissing f r a b s) := by
  unfold Machine.flagMissing
  split
  · exact k.flags f (nodup_rectTiles _ _ _ _) (fun p _ => .modFlagsOf p _ _) h
  · exact h

theorem ContentKeep.putPhoto {s : State} (f : Nat) (r : PhotoRecord) (h : P s) :
    P (modPage f (fun p => { p with photos := putPhoto r p.photos }) s) := k.photos f (fun _ => ⟨rfl, id⟩) h

theorem ContentKeep.endPhotos {s : State} (f : Nat) (p : Page) (h : P s) : P (endPhotos f p s) := by
  unfold Machine.endPhotos
  generalize p.photos = rs
  induction rs generalizing s with
  | nil => exact h
  | cons r rs ih =>
    refine ih (s := endPhoto f s r) ?_
    unfold endPhoto
    split
    · exact k.putPhoto f _ (k.flagMissing f r _ _ h)
    · exact h

theorem ContentKeep.endStrips {s : State} {f : Nat} {p : Page} (hp : s.page f = some p) (h : P s) :
    P (endStrips f p s) := by
  refine k.flags f (nodup_rectTiles _ _ _ _) (fun q hq => ?_) h
  obtain rfl := Option.some.inj (hp.symm.trans hq)
  exact .strips p _

theorem ContentKeep.closePage {s : State} {f : Nat} {p : Page} (hp : s.page f = some p) (h : P s) :
    P (closePage f p s) :=
  k.announce (k.submitFor f _ (k.closes f _ (k.endPhotos f p (k.endStrips hp h))))

theorem ContentKeep.endRevision {s : State} (f : Nat) (p : Page) (h : P s) : P (endRevision f p s) :=
  k.announceIf _ (k.submitFor f _ (k.endPhotos f p h))

end

end Sys2Proof.Machine
end

section
/-! ## The changes of commands, and what every segment keeps with them -/

namespace Sys2Proof.Machine

/-- The ring space that the Lander's reservation holds (R33, R40). -/
def Lander.span : Lander → List (Nat × Nat)
  | .body b => b.start.toList.map fun o => (o, totalOf b.header.length)
  | .header _ => []
  | .seek _ => []

/-- An Unpacker at work on a remake from its claim on: claimed, stalled on PATCHES, or with its slot taken (R46, R60). -/
def Unpacker.remaking (u : Unpacker) : Prop :=
  ∃ g, (u = .working g .claimed ∧ g.header.kind = kindRemake) ∨ (∃ n, u = .working g (.decoding n)) ∨
    ∃ o b, u = .stalled g .patches o b

/-- No request of the Unpacker's waits that it is not to make (R44): where it has nothing to read, none. -/
def State.unread (s : State) : Prop := .unpacker ∈ s.waiting → unpackerReads s = false

/-- A record of a page without damage (R2, R76). -/
def Page.undamaged (p : Page) : Prop :=
  p.damaged = 0 ∧ ∀ x y, p.stripCondition y = false ∧ p.flags x y = ⟨false, false⟩

/-- The state without a page, its patches and their slots, as a purge leaves it (R19, R68). -/
def State.withoutPage (s : State) (f : Nat) : State :=
  { s with
    pages := s.pages.set f none, patches := s.patches.filter fun e => e.frame != f
    slotsInUse := s.slotsInUse.filter fun n => !(s.patches.any fun e => e.frame == f && e.slot == n) }

/-- The state with a remake's slot taken and its payload being decoded (R60). -/
def State.beginsDecoding (s : State) (g : Segment) (n : Nat) : State :=
  { takeSlot n s with unpacker := .working g (.decoding n) }

/-- The state with a remake's entry made, its slots settled and its tile recounted (R61, R67). -/
def State.remade (s : State) (f tx ty n : Nat) : State :=
  recount f [(tx, ty)] s (modPage f (fun p => { p with version := nextVersion p.version })
    { freeOld f tx ty s with patches := putPatch f tx ty n s.patches })

/-- A property kept by each of the changes that commands and ticks are made of. -/
structure ChangesKeep (P : State → Prop) : Prop extends LanesKeep P where
  -- Resets (R167, R168).
  reset : P State.reset
  warm : ∀ {s}, P s → P (warm s)
  -- Reports and orders (R153, R170 to R172).
  shorter : ∀ {s} rs, rs.length ≤ s.reports.length → P s → P { s with reports := rs }
  record : ∀ {s} r, s.unconsumed.toNat < 256 → P s → P (writeRecord r s)
  watched : ∀ {s} be d, P s → P (watchConsumed be d s)
  orders : ∀ {s} q, (s.orderQueue.length ≤ 32 → q.length ≤ 32) → P s → P { s with orderQueue := q }
  -- The inflow ring (R32 to R40).
  lander : ∀ {s} x, x.span = s.lander.span → P s → P { s with lander := x }
  admits : ∀ {s b}, s.lander = .body b → b.start = none → canAdmit s (totalOf b.header.length) = true → P s →
    P (makeAdmission b s)
  lands : ∀ {s b start}, s.lander = .body b → b.start = some start → P s →
    P { s with lander := .seek [], landed := s.landed ++ [⟨⟨start, b.header, b.stamp⟩, .landed⟩] }
  unwinds : ∀ {s b}, s.lander = .body b → P s → P { unwindAdmission b s with lander := .seek [], discarded := 0 }
  entries : ∀ {s} (g : LandedEntry → LandedEntry), (∀ e, (g e).seg = e.seg) → P s →
    P { s with landed := s.landed.map g }
  reclaims : ∀ {s}, P s → P (reclaim s)
  -- Pages and patches (R1, R19, R52 to R58, R64 to R77).
  flags : ∀ {s} f {ts} {g : Page → Page}, ts.Nodup → (∀ p, s.page f = some p → p.Reflagged ts (g p)) →
    s.unread ∨ (∀ p, (g p).photos = p.photos) → P s → P (recount f ts s (modPage f g s))
  photos : ∀ {s} f {g}, (∀ p : Page, p.Kin (g p)) → s.unread → P s → P (modPage f g s)
  spoils : ∀ {s} f tx ty n, P s → P (raiseSpoilt f tx ty n s)
  creates : ∀ {s} f {p}, s.page f = none → p.undamaged → P s → P (setPage f (some p) s)
  purges : ∀ {s} f, s.unpackerPage ≠ some f → P s → P (s.withoutPage f)
  slot : ∀ {s f g n}, s.unpacker.remaking → (∀ h m, s.unpacker ≠ .working h (.decoding m)) →
    s.unpackerPage = some f → remakeSlot s f g.header.locator g.header.arg = some n → s.unread → P s →
    P (s.beginsDecoding g n)
  undecodes : ∀ {s g n}, s.unpacker = .working g (.decoding n) → .unpacker ∉ s.waiting → P s →
    P (freeSlots [n] s).rested
  remakes : ∀ {s g f n}, s.unpacker = .working g (.decoding n) → s.unpackerPage = some f →
    .unpacker ∉ s.waiting → P s → P (s.remade f g.header.locator g.header.arg n).rested
  -- The Unpacker's work, and what waits at the memory port (R44, R156, R162).
  work : ∀ {s} u o, (∀ g n, s.unpacker ≠ .working g (.decoding n)) → s.unread → (∀ g n, u ≠ .working g (.decoding n)) →
    (u.remaking → ∀ f, o = some f →
      (∃ p, s.page f = some p ∧ p.state = .closed) ∨ s.unpacker.remaking ∧ s.unpackerPage = some f) →
    P s → P { s with unpacker := u, unpackerPage := o }
  reading : ∀ {s} r, r.asked ≤ 8 → s.unread → P s → P { s with payloadRead := r }
  fewer : ∀ {s} w, w.Sublist s.waiting → P s → P { s with waiting := w }
  starts : ∀ {s} c, P s → P (startLoad c s)
  readsOn : ∀ {s}, P s → P (loaderReadsOn s)
  judged : ∀ {s}, .profileLoader ∉ s.waiting → P s → P { s with loader := none }
  grant : ∀ {s}, P s → P (portGrant s)
  ticks : ∀ {s}, P s → P (tick s)

/-! ### An Unpacker with nothing to read -/

theorem State.unread_of_not_mem {s : State} (h : .unpacker ∉ s.waiting) : s.unread := fun hm => absurd hm h

theorem State.unread_of_none {s : State} (h : payloadInHand s = none) : s.unread := fun _ => by
  simp [unpackerReads, payloadWords, h]

theorem unread_rested (s : State) : s.rested.unread := State.unread_of_none rfl

theorem unread_idle {s : State} (h : s.unpacker = .idle) : s.unread := State.unread_of_none (by simp [payloadInHand, h])

theorem unread_taken {s : State} {g : Segment} (h : s.unpacker = .working g .taken) : s.unread :=
  State.unread_of_none (by simp [payloadInHand, h])

theorem unread_stalled {s : State} {g : Segment} {c : StallCause} {o : Option OpenFields} {b : Bool}
    (h : s.unpacker = .stalled g c o b) : s.unread := State.unread_of_none (by simp [payloadInHand, h])

theorem unread_judged {s : State} {g : Segment} {o : OpenFields} (h : s.unpacker = .working g (.judged o)) : s.unread :=
  State.unread_of_none (by simp [payloadInHand, h])

theorem unread_applied {s : State} {g : Segment} (h : s.unpacker = .working g .applied) : s.unread :=
  State.unread_of_none (by simp [payloadInHand, h])

/-- A claimed segment whose payload is not to be read next (R43). -/
theorem unread_claimed {s : State} {g : Segment} (h : s.unpacker = .working g .claimed) (hn : payloadNext s g = false) :
    s.unread := State.unread_of_none (by simp [payloadInHand, h, hn])

/-- A payload read leaves no request of the Unpacker's waiting (R156). -/
theorem not_mem_payloadDone (g : Segment) (s : State) : .unpacker ∉ (payloadDone g s).waiting := fun h => by
  simp [payloadDone, State.served] at h

theorem unread_payloadDone (g : Segment) (s : State) : (payloadDone g s).unread :=
  State.unread_of_not_mem (not_mem_payloadDone g s)

theorem not_remaking_idle : ¬ Unpacker.idle.remaking := by
  simp [Unpacker.remaking]

theorem not_remaking_working {g : Segment} {ph : UnpackPhase} (hc : ph = .claimed → g.header.kind ≠ kindRemake)
    (hd : ∀ n, ph ≠ .decoding n) : ¬ (Unpacker.working g ph).remaking := by
  rintro ⟨g', ⟨h, hk⟩ | ⟨n, h⟩ | ⟨o, b, h⟩⟩
  · obtain ⟨rfl, hph⟩ := Unpacker.working.inj h
    exact hc hph hk
  · exact hd n (Unpacker.working.inj h).2
  · cases h

section
variable {P : State → Prop} (k : ChangesKeep P)
include k

/-! ### The Unpacker's work -/

/-- The Unpacker goes to work that is not on a remake. -/
theorem ChangesKeep.works {s : State} {u : Unpacker} (o : Option Nat) (hd : ∀ g n, s.unpacker ≠ .working g (.decoding n))
    (hr : s.unread) (hu : ¬ u.remaking) (h : P s) : P { s with unpacker := u, unpackerPage := o } :=
  k.work u o hd hr (fun g n e => hu ⟨g, .inr (.inl ⟨n, e⟩)⟩) (fun e => absurd e hu) h

theorem ChangesKeep.rests {s : State} (hd : ∀ g n, s.unpacker ≠ .working g (.decoding n)) (hr : s.unread) (h : P s) :
    P s.rested := k.works none hd hr not_remaking_idle h

theorem ChangesKeep.markDone {s : State} (o : Nat) (h : P s) : P (markDone o s) :=
  k.reclaims (k.entries _ (fun e => by split <;> rfl) h)

theorem ChangesKeep.takeUp {s : State} (e : LandedEntry) (hu : s.unpacker = .idle) (h : P s) : P (takeUp e s) := by
  have hr := unread_idle hu
  have hw : P { s with unpacker := .working e.seg .taken } :=
    k.works s.unpackerPage (by simp [hu]) hr (not_remaking_working nofun nofun) h
  have ht : P { s with unpacker := .working e.seg .taken, payloadRead := Reading.start } :=
    k.reading Reading.start (Nat.zero_le _) (unread_taken rfl) hw
  unfold Machine.takeUp undefer
  split
  · exact k.page _ (fun _ => ⟨⟨rfl, id⟩, rfl⟩) ht
  · exact ht

omit k in
/-- What a granted claim found: the page of the frame, which the header fits (R14, R46). -/
theorem headerTest_of_granted {s : State} {h : SegHeader} {f : Nat} (hg : headerClaim s h = .granted f) :
    ∃ p, s.page f = some p ∧ headerTest p h = true := by
  unfold headerClaim at hg
  split at hg
  · cases hg
  · next n p hp =>
    split at hg
    · next ht =>
      split at hg
      · obtain rfl := ClaimAnswer.granted.inj hg
        exact ⟨p, (present_eq_some.1 hp).2, ht⟩
      · cases hg
    · cases hg

omit k in
/-- A remake's page is CLOSED (R46). -/
theorem closed_of_headerTest {p : Page} {h : SegHeader} (hk : h.kind = kindRemake) (ht : headerTest p h = true) :
    p.state = .closed := by
  simp [headerTest, hk, kindRemake, kindStrip, kindPhotoHead, kindPhotoPart, kindPageClose] at ht
  exact ht.2.1.1

theorem ChangesKeep.grantClaim {s : State} {g : Segment} {f : Nat} (hu : s.unpacker = .working g .taken)
    (hg : headerClaim s g.header = .granted f) (h : P s) : P (grantClaim g f s) := by
  refine k.work _ _ (by simp [hu]) (unread_taken hu) nofun (fun hr i hi => .inl ?_) h
  obtain rfl := Option.some.inj hi
  obtain ⟨p, hp, ht⟩ := headerTest_of_granted hg
  obtain ⟨g', ⟨e, hk⟩ | ⟨n, e⟩ | ⟨o, b, e⟩⟩ := hr
  · obtain ⟨rfl, -⟩ := Unpacker.working.inj e
    exact ⟨p, hp, closed_of_headerTest hk ht⟩
  · cases e
  · cases e

theorem ChangesKeep.claimNow {s : State} (h : P s) : P (claimNow s) := by
  unfold Machine.claimNow
  split
  · next hu =>
    split
    · next hg => exact k.grantClaim hu hg h
    · exact h
    · exact h
  · exact h

omit k in
theorem chosen_idle {s : State} {e : LandedEntry} (h : chosen s = some e) : s.unpacker = .idle := by
  unfold chosen at h
  split at h
  · assumption
  · cases h
  · cases h

theorem ChangesKeep.lanesThenWork {s : State} (b : Bool) (h : P s) : P (lanesThenWork b s) := by
  unfold Machine.lanesThenWork
  simp only
  split
  · exact k.announceIf b h
  · next hc => exact k.announceIf _ (k.takeUp _ (chosen_idle hc) (k.announceIf b h))

theorem ChangesKeep.takeWork {s : State} (b : Bool) (h : P s) : P (takeWork b s) := by
  have hfree : P (useFree s) := k.beside h rfl
  unfold Machine.takeWork
  split
  · exact k.announceIf b h
  · next hc =>
    split
    · split
      · exact k.announce (k.claimNow (k.takeUp _ (s := useFree s) (chosen_idle hc) hfree))
      · exact k.lanesThenWork b hfree
    · exact k.lanesThenWork b h

theorem ChangesKeep.settleLocks {s : State} (before released : State) (h : P s) :
    P (settleLocks before released s) := by
  unfold Machine.settleLocks
  simp only
  split
  · exact k.takeWork false (k.announceIf _ h)
  · exact k.announceIf _ h

/-! ### The end of a segment -/

/-- The end of a segment goes by the state with the Unpacker at rest. -/
theorem ChangesKeep.ends {s : State} (g : Segment) (h : P s.rested) : P (endSegment g s) := by
  unfold endSegment
  split
  · exact k.works (s := s.rested) s.unpackerPage nofun (unread_rested s)
      (not_remaking_working nofun nofun) h
  · exact k.takeWork _ (k.markDone _ h)

theorem ChangesKeep.endSegment {s : State} (g : Segment) (hd : ∀ g n, s.unpacker ≠ .working g (.decoding n))
    (hr : s.unread) (h : P s) : P (endSegment g s) := k.ends g (k.rests hd hr h)

theorem ChangesKeep.refuses {s : State} (n : NoticeKind) (g : Segment) (d : Nat) (h : P s.rested) :
    P (refuseSegment n g d s) := k.ends g (k.toLanesKeep.rested.tells _ h)

theorem ChangesKeep.enterStall {s : State} (g : Segment) (c : StallCause) (o : Option OpenFields)
    (hd : ∀ g n, s.unpacker ≠ .working g (.decoding n)) (hr : s.unread) (hc : c = .patches → s.unpacker.remaking)
    (h : P s) : P (enterStall g c o s) := by
  refine k.tells _ (k.work _ s.unpackerPage hd hr nofun (fun hs f hf => .inr ⟨hc ?_, hf⟩) h)
  obtain ⟨g', ⟨e, -⟩ | ⟨n, e⟩ | ⟨o', b, e⟩⟩ := hs
  · cases e
  · cases e
  · exact (Unpacker.stalled.inj e).2.1

/-! ### The payload read -/

theorem ChangesKeep.payloadDone {s : State} (g : Segment) (h : P s) : P (payloadDone g s) :=
  k.reading _ (Nat.zero_le _) (s := s.served .unpacker)
    (State.unread_of_not_mem fun hm => by simp [State.served] at hm) (k.fewer _ List.filter_sublist h)

/-- A segment that waits for its reads, or goes on with its payload read (R44, R156). -/
theorem ChangesKeep.whenRead {s : State} {next : State → State} (g : Segment) (n : Nat)
    (hn : P (Machine.payloadDone g s) → P (next (Machine.payloadDone g s))) (h : P s) : P (whenRead g n next s) := by
  unfold Machine.whenRead
  split
  · exact hn (k.payloadDone g h)
  · exact h

/-- The same for a segment that ends when it has read its payload. -/
theorem ChangesKeep.whenReadEnds {s : State} {next : State → State} (g : Segment) (n : Nat)
    (hd : ∀ g n, s.unpacker ≠ .working g (.decoding n))
    (hn : P (Machine.payloadDone g s).rested → P (next (Machine.payloadDone g s))) (h : P s) :
    P (Machine.whenRead g n next s) :=
  k.whenRead g n (fun ht => hn (k.rests hd (unread_payloadDone g s) ht)) h

/-- What a segment does to its page's content is kept at the Unpacker's rest. -/
theorem ChangesKeep.content : ContentKeep fun s => P s.rested where
  toLanesKeep := k.toLanesKeep.rested
  flags {s} f ts g hn hg h := by
    have e : (recount f ts s (modPage f g s)).rested = recount f ts s.rested (modPage f g s.rested) := by
      rw [← rested_modPage]
      exact rested_modPage f _ (modPage f g s)
    rw [e]
    exact k.flags f hn hg (.inl (unread_rested s)) h
  photos {s} f g hg h := by
    rw [rested_modPage]
    exact k.photos f hg (unread_rested s) h

end

end Sys2Proof.Machine
end

section
/-! ## Segments: what each kind keeps of records, ring, tables and waiting requests -/

namespace Sys2Proof.Machine

/-- A new page has no damage where its strips are not BAD (R2, R76). -/
theorem undamaged_newPage (key : Key) (st : PageState) (loc : Bool) (tw th slot : Nat) {strip : StripState} (c : Tick)
    (h : strip ≠ .bad) : (newPage key st loc tw th slot strip c).undamaged := by
  have hfill {α : Type} (n i : Nat) (a d : α) :
      (List.replicate n a).getD i d = a ∨ (List.replicate n a).getD i d = d := by
    rw [List.getD_eq_getElem?_getD, List.getElem?_replicate]
    split
    · exact .inl rfl
    · exact .inr rfl
  refine ⟨rfl, fun x y => ⟨?_, ?_⟩⟩
  · rw [Page.stripCondition, List.any_eq_false]
    intro i _ hbad
    have hb := beq_iff_eq.1 hbad
    rcases hfill (th * 16) (16 * y + i) strip .absent with e | e
    · exact h (e.symm.trans hb)
    · exact nomatch e.symm.trans hb
  · rcases hfill (tw * th) (y * tw + x) (⟨false, false⟩ : TileFlags) ⟨false, false⟩ with e | e <;> exact e

section
variable {P : State → Prop} (k : ChangesKeep P)
include k

/-! ### Claims and deferral -/

theorem ChangesKeep.deferSegment {s : State} {g : Segment} (f : Nat) (hu : s.unpacker = .working g .taken) (h : P s) :
    P (deferSegment g f s) := by
  have hd : ∀ g n, s.unpacker ≠ .working g (.decoding n) := by simp [hu]
  unfold Machine.deferSegment
  split
  · split
    · have hidle : P { s with unpacker := .idle } := k.works s.unpackerPage hd (unread_taken hu) not_remaking_idle h
      exact k.takeWork false (k.page f (fun _ => ⟨⟨rfl, id⟩, rfl⟩) (k.entries _ (fun e => by split <;> rfl) hidle))
    · exact k.enterStall g _ _ hd (unread_taken hu) nofun h
  · exact h

/-- A segment kind's command keeps what its own rule keeps from the claim on (R43). -/
theorem ChangesKeep.handleKind {s : State} {kind : Byte} {apply : Segment → Nat → State → State} (upTo : SegPart)
    (ha : ∀ {g f t}, t.unpacker = .working g .claimed → t.unpackerPage = some f → g.header.kind = kind → P t →
      P (apply g f t)) (h : P s) : P (handleKind kind upTo apply s) := by
  unfold Machine.handleKind
  split
  · next g hu =>
    split
    · next hk =>
      unfold claimThen
      split
      · exact k.refuses _ g _ (k.rests (by simp [hu]) (unread_taken hu) h)
      · exact k.deferSegment _ hu h
      · next hg =>
        have hc := k.grantClaim hu hg h
        split
        · exact hc
        · exact ha rfl rfl hk hc
    · exact h
  · next hu =>
    split
    · next hk =>
      split
      · next hf => exact ha hu hf hk.1 h
      · exact h
    · exact h
  · exact h

/-! ### PAGE OPEN -/

theorem ChangesKeep.createRequest {s : State} (g : Segment) (o : OpenFields) (stalled : Bool)
    (hd : ∀ g n, s.unpacker ≠ .working g (.decoding n)) (hr : s.unread) (h : P s) :
        P (createRequest g o stalled s) := by
  have hrest := k.rests hd hr h
  unfold Machine.createRequest
  split
  · exact k.refuses _ g _ hrest
  · split
    · split
      · exact h
      · exact k.enterStall g _ _ hd hr nofun h
    · next f hf =>
      exact k.ends g (k.creates (s := s.rested) f (page_of_freeFrame hf) (undamaged_newPage _ _ _ _ _ _ _ nofun) hrest)

theorem ChangesKeep.openRead {s : State} (g : Segment) (upTo : SegPart)
    (hd : ∀ g n, s.unpacker ≠ .working g (.decoding n)) (hr : s.unread) (h : P s) : P (openRead g upTo s) := by
  have hrest := k.rests hd hr h
  unfold Machine.openRead
  split
  · exact k.refuses _ g _ hrest
  · split
    · exact k.refuses _ g _ hrest
    · split
      · exact k.works s.unpackerPage hd hr (not_remaking_working nofun nofun) h
      · exact k.createRequest g _ _ hd hr h

theorem ChangesKeep.handleOpen {s : State} (upTo : SegPart) (h : P s) : P (handleOpen upTo s) := by
  have hread {t : State} {g : Segment} (hu : t.unpacker = .working g .opening) (ht : P t) :
      P (Machine.whenRead g 0 (Machine.openRead g upTo) t) :=
    k.whenRead g 0 (k.openRead g upTo (s := Machine.payloadDone g t) (by
      intro g n
      change t.unpacker ≠ _
      simp [hu]) (unread_payloadDone g t)) ht
  unfold Machine.handleOpen
  split
  · next g hu =>
    split
    · unfold openTaken
      have hd : ∀ g n, s.unpacker ≠ .working g (.decoding n) := by simp [hu]
      split
      · exact k.refuses _ g _ (k.rests hd (unread_taken hu) h)
      · exact hread rfl (k.works s.unpackerPage hd (unread_taken hu) (not_remaking_working nofun nofun) h)
    · exact h
  · next hu => exact hread hu h
  · next hu =>
    split
    · exact k.createRequest _ _ _ (by simp [hu]) (unread_judged hu) h
    · exact h
  · exact h

theorem ChangesKeep.framesStallEnd {s : State} (h : P s) : P (framesStallEnd s) := by
  unfold Machine.framesStallEnd
  split
  · next hu => exact k.createRequest _ _ _ (by simp [hu]) (unread_stalled hu) h
  · exact h

/-! ### STRIP and photos -/

section
variable {s : State} {g : Segment} (f : Nat) (hu : s.unpacker = .working g .claimed) (h : P s)
include hu h

omit k h in
theorem not_decoding_of_claimed (g' : Segment) (n : Nat) : s.unpacker ≠ .working g' (.decoding n) := by
  simp [hu]

/-- A claimed segment whose page is gone ends at once. -/
theorem ChangesKeep.endsWithoutPage (hp : s.unpackerPage.bind s.page = none) : P (Machine.endSegment g s) :=
  k.endSegment g (not_decoding_of_claimed hu) (unread_claimed hu (by simp [payloadNext, hp])) h

theorem ChangesKeep.applyStrip (hf : s.unpackerPage = some f) : P (applyStrip g f s) := by
  unfold Machine.applyStrip
  split
  · next hp => exact k.endsWithoutPage hu h (by simp [hf, hp])
  · next p hp =>
    refine k.whenReadEnds g _ (not_decoding_of_claimed hu) (fun ht => ?_) h
    generalize hs : Machine.payloadDone g s = t at ht ⊢
    have hpt : t.page f = some p := by
      rw [← hs]
      exact hp
    split
    · refine k.refuses _ g _ ?_
      split
      · exact k.content.changeStrip hpt _ _ ht
      · exact ht
    · have hrows (y : Nat) (rows : List (List Bool)) : P (writePageRows f p.tw y rows t).rested ∧
          (writePageRows f p.tw y rows t).page f = some p := by
        rw [writePageRows_eq]
        refine ⟨k.content.writeStretches _ ht, ?_⟩
        rw [writeStretches_eq]
        exact hpt
      unfold writeStrip
      simp only
      split
      · exact k.refuses _ g _ (k.content.changeStrip (hrows _ _).2 _ _ (hrows _ _).1)
      · exact k.ends g (k.content.changeStrip (hrows _ _).2 _ _ (hrows _ _).1)

theorem ChangesKeep.applyPhotoHead (hf : s.unpackerPage = some f) : P (applyPhotoHead g f s) := by
  unfold Machine.applyPhotoHead
  split
  · next hp => exact k.endsWithoutPage hu h (by simp [hf, hp])
  · refine k.whenReadEnds g _ (not_decoding_of_claimed hu) (fun ht => ?_) h
    split
    · exact k.refuses _ g _ ht
    · split
      · exact k.refuses _ g _ ht
      · unfold takePhoto
        split
        · split
          · exact k.ends g (k.content.placePhoto f _ _ ht)
          · exact k.refuses _ g _ ht
        · split
          · exact k.refuses _ g _ ht
          · split
            · rw [refusePhoto_eq]
              exact k.refuses _ g _
                (k.content.flagsTold f (nodup_rectTiles _ _ _ _) (fun p _ => .photosRevised p _ _ _ _) ht)
            · exact k.ends g (k.content.placePhoto f _ _ ht)

omit hu h in
theorem ChangesKeep.applyRows {t : State} (r : PhotoRecord) (ht : P t.rested) : P (applyRows g f r t) := by
  have hrows {u : State} (b : Bool) (q : PhotoRecord) (a : Nat) (bs : List Byte) (hu : P u.rested) :
      P (Machine.announceIf b (modPage f (fun p => { p with photos := putPhoto q p.photos })
        (Machine.writeWords a bs u))).rested :=
    k.content.announceIf b (k.content.putPhoto f q (k.content.writeWords a bs hu))
  have hmissing := k.content.flagMissing f r r.nextRow g.header.arg ht
  unfold Machine.applyRows
  simp only
  split
  · exact k.refuses _ g _ (hrows _ _ _ _ hmissing)
  · exact k.ends g (hrows _ _ _ _ hmissing)

theorem ChangesKeep.applyPhotoPart (hf : s.unpackerPage = some f) (hk : g.header.kind = kindPhotoPart) :
    P (applyPhotoPart g f s) := by
  unfold Machine.applyPhotoPart
  split
  · next hp => exact k.endsWithoutPage hu h (by simp [hf, hp])
  · next p hp =>
    split
    · next hr =>
      have hn : payloadNext s g = false := by simp [payloadNext, hf, hp, hk, hr]
      exact k.refuses _ g _ (k.rests (not_decoding_of_claimed hu) (unread_claimed hu hn) h)
    · refine k.whenReadEnds g _ (not_decoding_of_claimed hu) (fun ht => ?_) h
      split
      · exact k.refuses _ g _ ht
      · exact k.applyRows f _ ht

/-! ### PAGE CLOSE -/

theorem ChangesKeep.applyPageClose (hf : s.unpackerPage = some f) : P (applyPageClose g f s) := by
  unfold Machine.applyPageClose
  split
  · next hp => exact k.endsWithoutPage hu h (by simp [hf, hp])
  · next p hp =>
    refine k.whenReadEnds g _ (not_decoding_of_claimed hu) (fun ht => ?_) h
    split
    · exact k.refuses _ g _ ht
    · split
      · exact k.ends g (k.content.closePage (s := Machine.payloadDone g s) hp ht)
      · exact k.ends g (k.content.endRevision f p ht)

end

/-! ### REMAKE TILE -/

theorem ChangesKeep.decodeRemake {s : State} {g : Segment} {f n : Nat} (hu : s.unpacker = .working g (.decoding n))
    (hf : s.unpackerPage = some f) (hw : .unpacker ∉ s.waiting) (h : P s) : P (decodeRemake g f n s) := by
  have hrows (y : Nat) (rows : List (List Bool)) : ∃ t, Machine.writeSlotRows n y rows
      (if payloadBad s g then useFree s else s) = t ∧ t.unpacker = .working g (.decoding n) ∧
        t.unpackerPage = some f ∧ .unpacker ∉ t.waiting ∧ P t := by
    refine ⟨_, rfl, ?_⟩
    rw [writeSlotRows_eq]
    have hfree : P (if payloadBad s g then useFree s else s) := by
      split
      · exact k.beside h rfl
      · exact h
    refine ⟨?_, ?_, ?_, k.writeStretches _ hfree⟩
    · rw [writeStretches_eq]
      split
      · exact hu
      · exact hu
    · rw [writeStretches_eq]
      split
      · exact hf
      · exact hf
    · rw [writeStretches_eq]
      split
      · exact hw
      · exact hw
  unfold Machine.decodeRemake
  obtain ⟨t, e, hut, hft, hwt, ht⟩ := hrows 0 (lineDecode 256 256 (remakeBytes s g)).rows
  simp only [e]
  split
  · exact k.refuses _ g _ (k.undecodes hut hwt ht)
  · split
    · exact k.refuses _ g _ (k.undecodes hut hwt ht)
    · exact k.ends g (k.content.announceIf _ (k.remakes hut hft hwt ht))

theorem ChangesKeep.tryRemake {s lacking : State} {g : Segment} {f : Nat} (hu : s.unpacker.remaking)
    (hd : ∀ g n, s.unpacker ≠ .working g (.decoding n)) (hr : s.unread) (hf : s.unpackerPage = some f)
    (hl : P lacking) (h : P s) : P (tryRemake g f lacking s) := by
  unfold Machine.tryRemake
  split
  · next n hn =>
    exact k.whenRead g _ (k.decodeRemake (s := Machine.payloadDone g (s.beginsDecoding g n)) rfl hf
      (not_mem_payloadDone g _))
      (k.slot hu hd hf hn hr h)
  · split
    · exact k.endSegment g hd hr h
    · exact hl

theorem ChangesKeep.applyRemake {s : State} {g : Segment} {f : Nat} (hu : s.unpacker = .working g .claimed)
    (hf : s.unpackerPage = some f) (hk : g.header.kind = kindRemake) (h : P s) : P (applyRemake g f s) := by
  have hd := not_decoding_of_claimed hu
  have hrem : s.unpacker.remaking := ⟨g, .inl ⟨hu, hk⟩⟩
  have hr : s.unread := unread_claimed hu (by
    unfold payloadNext
    split
    · simp [hk]
    · rfl)
  unfold Machine.applyRemake
  split
  · exact k.tryRemake hrem hd hr hf (k.enterStall g _ _ hd hr (fun _ => hrem) h) h
  · exact k.endSegment g hd hr h

theorem ChangesKeep.handleRemake {s : State} (upTo : SegPart) (h : P s) : P (handleRemake upTo s) := by
  unfold Machine.handleRemake
  split
  · next hu hf =>
    split
    · exact k.whenRead _ _ (k.decodeRemake (s := Machine.payloadDone _ s) hu hf (not_mem_payloadDone _ s)) h
    · exact h
  · exact k.handleKind upTo k.applyRemake h

theorem ChangesKeep.patchesStallEnd {s : State} (h : P s) : P (patchesStallEnd s) := by
  unfold Machine.patchesStallEnd
  split
  · next g o b f hu hf =>
    split
    · exact k.tryRemake ⟨g, .inr (.inr ⟨o, b, hu⟩)⟩ (by simp [hu]) (unread_stalled hu) hf h h
    · exact h
  · exact h

/-! ### The other kinds and the DEFERRAL stall -/

theorem ChangesKeep.deferralStallEnd {s : State} (h : P s) : P (deferralStallEnd s) := by
  unfold Machine.deferralStallEnd
  split
  · next hu =>
    split
    · exact k.takeWork false (k.works s.unpackerPage (by simp [hu]) (unread_stalled hu) not_remaking_idle h)
    · exact h
  · exact h

theorem ChangesKeep.filler {s : State} (isKind : Byte → Bool) (h : P s) : P (handlePlain isKind (fun _ t => t) s) := by
  unfold handlePlain
  split
  · next hu =>
    split
    · exact k.endSegment _ (by simp [hu]) (unread_taken hu) h
    · exact h
  · exact h

theorem ChangesKeep.unknownKind {s : State} (isKind : Byte → Bool) (n : NoticeKind) (d : Segment → Nat) (h : P s) :
    P (handlePlain isKind (fun g t => notice n g (d g) t) s) := by
  unfold handlePlain
  split
  · next g hu =>
    split
    · exact k.refuses n g _ (k.rests (by simp [hu]) (unread_taken hu) h)
    · exact h
  · exact h

end

end Sys2Proof.Machine
end

section
/-! ## Orders, inflow, host requests and ticks: what every step keeps of records, ring, tables and waiting requests -/

namespace Sys2Proof.Machine

/-- What both branches of a choice have, the choice has. -/
theorem ite_prop {P : State → Prop} {c : Prop} [Decidable c] {s t : State} (hs : P s) (ht : P t) :
    P (if c then s else t) := by
  split
  · exact hs
  · exact ht

section
variable {P : State → Prop} (k : ChangesKeep P)
include k

/-! ### Lane events that release locks -/

theorem ChangesKeep.exposedTaken {s : State} (l : LaneId) (tag : Tag) (h : P s) : P (exposedTaken l tag s) := by
  unfold Machine.exposedTaken
  split
  · split
    · exact k.settleLocks _ _ (k.tryStart l (k.exposeFront l _ h))
    · exact k.tells _ h
  · exact k.tells _ h

theorem ChangesKeep.ejectedTaken {s : State} (l : LaneId) (tag : Tag) (h : P s) : P (ejectedTaken l tag s) := by
  unfold Machine.ejectedTaken
  split
  · split
    · exact k.settleLocks _ _ (k.leaveFront l s (k.resolveFront l h))
    · exact k.tells _ h
  · exact k.tells _ h

theorem ChangesKeep.faultTaken {s : State} (l : LaneId) (c : FaultCause) (h : P s) : P (faultTaken l c s) := by
  have hf := k.faultFront l h
  unfold Machine.faultTaken
  refine k.settleLocks _ _ (k.tells _ (k.lane l (fun hr => hr) ?_))
  split
  · exact k.leaveFront l s hf
  · exact hf

theorem ChangesKeep.takeLoss {s : State} (l : LaneId) (h : P s) : P (takeLoss l s) :=
  k.settleLocks _ _ (k.lane l (fun hr => hr)
    (k.lossFront l (k.giveBack l (k.tells _ (k.lane l (fun hr => hr) h)))))

theorem ChangesKeep.storeError {s : State} (l : LaneId) (m : RowMark) (h : P s) : P (storeError l m s) := by
  unfold Machine.storeError
  split
  · split
    · split
      · exact k.cancelFront _ (k.spoil _ _ h)
      · exact h
    · exact h
  · exact k.settleLocks _ _ (k.choose l (k.giveBack l h))

/-! ### Rows composed -/

theorem ChangesKeep.raiseFlag? {s : State} (r : Option FlagRequest) (h : P s) : P (raiseFlag? r s) := by
  have store (f tx ty : Nat) : P (raiseStore f tx ty s) :=
    k.flags f (List.nodup_singleton _) (fun p _ => .modFlagsOf p _ [(tx, ty)]) (.inr fun _ => rfl) h
  cases r with
  | none => exact h
  | some q =>
    unfold Machine.raiseFlag? raiseFlag
    simp only
    split
    · split
      · split
        · exact store _ _ _
        · exact store _ _ _
        · exact k.spoils _ _ _ _ h
      · exact h
    · exact h

theorem ChangesKeep.composeRow {s : State} (c : Context) (y : Nat) (row : List SpanWork) (h : P s) :
    P (composeRow c y row s).state := by
  have fold (ts : List Nat) : ∀ {r : RowResult}, P r.state → P (ts.foldl (addSpan c y row) r).state := by
    induction ts with
    | nil => exact id
    | cons tx ts ih =>
      refine fun hr => ih ?_
      unfold addSpan
      split
      · exact k.raiseFlag? _ hr
      · exact hr
  exact fold (List.range c.tw) (r := ⟨s, [], false⟩) h

omit k in
theorem LanesKeep.noteGrant {P : State → Prop} (k : LanesKeep P) {s : State} (l : LaneId) (h : P s) :
    P (noteGrant l s) := by
  unfold Machine.noteGrant
  split
  · exact k.beside h rfl
  · exact k.beside h rfl

theorem ChangesKeep.rowComposed {s : State} (l : LaneId) (h : P s) : P (rowComposed l s) := by
  unfold Machine.rowComposed
  split
  · next m c _ =>
    split
    · exact h
    · have hgrant : P (noteRowGrant l c s) := by
        unfold noteRowGrant
        split
        · exact k.fewer (s := Machine.noteGrant l s) _ List.filter_sublist (k.noteGrant l h)
        · exact h
      have hp := fun bytes => k.placeRow l m c bytes (k.composeRow c.ctx c.composed c.row hgrant)
      unfold composeNext
      simp only
      split
      · exact k.storeError l m (hp _)
      · exact k.rowPlaced l m (hp _)
  · exact h

/-! ### Orders -/

theorem ChangesKeep.takeOrder {s : State} (h : P s) : P (takeOrder s) := by
  unfold Machine.takeOrder
  split
  · next o os _ hq =>
    have htail : s.orderQueue.length ≤ 32 → os.length ≤ 32 := by
      rw [hq]
      exact fun hl => (Nat.le_succ _).trans hl
    exact k.beside (k.orders os htail h) rfl
  · exact h

theorem ChangesKeep.finishOrder {s : State} (h : P s) : P (finishOrder s) := k.takeOrder (k.beside h rfl)

theorem ChangesKeep.answer {s : State} (o : Order) (oc : OrderOutcome) (h : P s) : P (answer o oc s) := k.tells _ h

theorem ChangesKeep.handleOrder {kind : Byte} {decideIt : Order → State → State} {s : State}
    (hd : ∀ o, P (decideIt o s)) (h : P s) : P (handleOrder kind decideIt s) := by
  unfold Machine.handleOrder
  split
  · split
    · exact k.finishOrder (hd _)
    · exact h
  · exact h

theorem ChangesKeep.queueRecord {s : State} (hq : s.orderQueue.length < 32) (h : P s) : P (queueRecord s) := by
  refine k.takeOrder (k.beside (k.orders (s.orderQueue ++ [orderOf s.assembly]) (fun _ => ?_) h) rfl)
  rw [List.length_append]
  exact hq

theorem ChangesKeep.assembleBytes (bs : List Byte) {s : State} (h : P s) : P (assembleBytes bs s).2 := by
  induction bs generalizing s with
  | nil => exact h
  | cons b bs ih =>
    have hb : P { s with assembly := s.assembly ++ [b] } := k.beside h rfl
    unfold Machine.assembleBytes
    split
    · exact ih hb
    · split
      · next hq => exact ih (k.queueRecord hq hb)
      · exact hb

theorem ChangesKeep.offerOrder {s : State} (a : Addr) (bs : List Byte) (h : P s) : P (offerOrder a bs s) := by
  have ha := k.assembleBytes bs h
  unfold Machine.offerOrder settleOrder
  simp only
  split
  · exact k.beside ha rfl
  · exact k.beside ha rfl

theorem ChangesKeep.recordQueued {s : State} (h : P s) : P (recordQueued s) := by
  unfold Machine.recordQueued
  split
  · split
    · next hq => exact k.offerOrder _ _ (k.queueRecord hq.2 h)
    · exact h
  · exact h

theorem ChangesKeep.orderTimeout {s : State} (h : P s) : P (orderTimeout s) := by
  unfold Machine.orderTimeout
  split
  · split
    · exact k.tells _ (k.beside h rfl)
    · exact h
  · exact h

theorem ChangesKeep.decideQueue {s : State} (o : Order) (h : P s) : P (decideQueue o s) := by
  unfold Machine.decideQueue
  split
  · exact k.answer _ _ h
  · next l _ =>
    iterate 3 refine ite_prop (k.answer _ _ h) ?_
    exact k.choose l (k.lateTest l _ (k.tells _ (k.lane l (fun hr => hr) h)))

theorem ChangesKeep.decideWithdraw {s : State} (o : Order) (h : P s) : P (decideWithdraw o s) := by
  unfold Machine.decideWithdraw
  split
  · exact k.answer _ _ h
  · next l p _ =>
    have hpend := k.modPlate l p.tag (fun x => { x with withdrawPending := true }) h
    unfold withdrawLive
    split
    · exact k.answer _ _ h
    · split
      · exact k.answer _ _ (k.endPlate p _ h)
      · exact k.settleLocks _ _ (k.choose l (k.answer _ _ (k.endPlate p _ (k.dropBack l h))))
      · exact k.cancelFront p hpend
      · exact k.cancelFront p hpend
      · exact hpend

/-! ### Pages by order -/

omit k in
theorem setPage_submit (f : Nat) (p : Option Page) (r : Report) (s : State) :
    setPage f p (submit r s) = submit r (setPage f p s) := by
  unfold submit noteDrop
  split
  · next h => exact (if_pos h).symm
  · next h =>
    refine Eq.trans ?_ (if_neg h).symm
    split
    · next h => exact (if_pos h).symm
    · next h => exact (if_neg h).symm

omit k in
theorem set_none_of_free {s : State} {f : Nat} (h : s.page f = none) : s.pages.set f none = s.pages := by
  refine List.ext_getElem? fun i => ?_
  by_cases hi : f = i
  · subst hi
    rw [List.getElem?_set_self']
    cases hf : s.pages[f]? with
    | none => rfl
    | some r =>
      rw [State.page, List.getD_eq_getElem?_getD, hf] at h
      exact congrArg some h.symm
  · rw [List.getElem?_set_ne hi]

theorem ChangesKeep.dropDeferred {s : State} (f : Nat) (h : P s) : P (dropDeferred f s) := by
  have hdone (ds : List Nat) : ∀ {t : State}, P t → P (ds.foldl (fun t o => setEntry o .done t) t) := by
    induction ds with
    | nil => exact id
    | cons d ds ih => exact fun ht => ih (k.entries _ (fun e => by split <;> rfl) ht)
  unfold Machine.dropDeferred
  split
  · exact k.reclaims (k.page f (fun _ => ⟨⟨rfl, id⟩, rfl⟩) (hdone _ h))
  · exact h

omit k in
theorem dropDeferred_unpackerPage (f : Nat) (s : State) : (dropDeferred f s).unpackerPage = s.unpackerPage := by
  unfold dropDeferred
  split
  · rw [foldl_setEntry, reclaim_eq]
    simp
  · rfl

/-- Steps 3 to 6 of a purge (R19). -/
theorem ChangesKeep.freeRecord {s : State} {f : Nat} (hu : s.unpackerPage ≠ some f) (h : P s) :
    P (freeRecord f (unbindProof f (dropPatches f s))) := by
  have hpage : (unbindProof f (dropPatches f s)).page f = s.page f := by
    rw [unbindProof_eq]
    rfl
  have hgone : P (setPage f none (unbindProof f (dropPatches f s))) := by
    rw [unbindProof_eq, dropPatches_eq]
    exact k.beside (k.purges f hu h) rfl
  unfold Machine.freeRecord
  rw [hpage]
  split
  · rw [setPage_submit]
    exact k.tells _ hgone
  · next hp =>
    have hsame : setPage f none (unbindProof f (dropPatches f s)) = unbindProof f (dropPatches f s) := by
      rw [setPage, set_none_of_free (hpage.trans hp)]
    rwa [← hsame]

theorem ChangesKeep.completePurge {s : State} (key : Key) {f : Nat} (tag : Tag) (hu : s.unpackerPage ≠ some f)
    (h : P s) : P (completePurge key f tag s) := by
  obtain ⟨hw, hpage⟩ := (k.toLanesKeep.and (lanesKeep_unpackerPage s.unpackerPage)).withdrawAll key ⟨h, rfl⟩
  refine k.tells _ (k.freeRecord ?_ (k.dropDeferred f hw))
  rw [dropDeferred_unpackerPage, hpage]
  exact hu

/-- A purge with the segment it waited for (R14, R18, R19). -/
theorem ChangesKeep.purgeEnds {s : State} (key : Key) (f : Nat) (tag : Tag) (o : Nat)
    (hd : ∀ g n, s.unpacker ≠ .working g (.decoding n)) (hr : s.unread) (h : P s) :
    P (Machine.takeWork true (Machine.completePurge key f tag
      (Machine.markDone o { s with unpacker := .idle, unpackerPage := none }))) := by
  have hu : (Machine.markDone o s.rested).unpackerPage ≠ some f := by
    rw [markDone_eq]
    exact nofun
  exact k.takeWork true (k.completePurge key tag hu (k.markDone o (k.rests hd hr h)))

omit k in
theorem stalledOn_eq_some {s : State} {f : Nat} {g : Segment} (h : stalledOn s f = some g) :
    ∃ o b, s.unpacker = .stalled g .patches o b := by
  unfold stalledOn at h
  split at h
  · split at h
    · next hu =>
      obtain rfl := Option.some.inj h
      exact ⟨_, _, hu⟩
    · cases h
  · cases h

theorem ChangesKeep.decidePurge {s : State} (o : Order) (h : P s) : P (decidePurge o s) := by
  unfold Machine.decidePurge
  split
  · exact k.answer _ _ h
  · iterate 2 refine ite_prop (k.answer _ _ h) ?_
    split
    · next hs =>
      obtain ⟨fields, b, hu⟩ := stalledOn_eq_some hs
      exact k.purgeEnds _ _ _ _ (by simp [hu]) (unread_stalled hu) h
    · split
      · exact k.page _ (fun _ => ⟨⟨rfl, id⟩, rfl⟩) h
      · next hne => exact k.completePurge _ _ hne h

theorem ChangesKeep.purgeComplete {s : State} (h : P s) : P (purgeComplete s) := by
  unfold Machine.purgeComplete
  split
  · next hu _ =>
    split
    · split
      · exact k.purgeEnds _ _ _ _ (by simp [hu]) (unread_applied hu) h
      · exact h
    · exact h
  · exact h

theorem ChangesKeep.decideOpenLocal {s : State} (o : Order) (h : P s) : P (decideOpenLocal o s) := by
  unfold Machine.decideOpenLocal
  refine ite_prop (k.answer _ _ h) ?_
  split
  · exact k.answer _ _ h
  · next hf =>
    refine ite_prop (k.answer _ _ ?_) (k.answer _ _ h)
    exact k.creates _ (page_of_freeFrame hf) (undamaged_newPage _ _ _ _ _ _ _ nofun) h

theorem ChangesKeep.decideCloseLocal {s : State} (o : Order) (h : P s) : P (decideCloseLocal o s) := by
  unfold Machine.decideCloseLocal
  split
  · exact k.answer _ _ h
  · exact ite_prop (k.announce (k.answer _ _ (k.submitFor _ _ (k.closes _ _ h)))) (k.answer _ _ h)

theorem ChangesKeep.decideProof {s : State} (o : Order) (h : P s) : P (decideProof o s) := by
  unfold Machine.decideProof
  refine ite_prop (k.answer _ _ (k.beside h rfl)) ?_
  split
  · exact k.answer _ _ (k.beside h rfl)
  · exact k.answer _ _ h

theorem ChangesKeep.decideRun {s : State} (o : Order) (h : P s) : P (decideRun o s) := by
  unfold Machine.decideRun
  split
  · exact k.answer _ _ h
  · next l _ =>
    split
    · exact k.answer _ _ h
    · exact k.startThenChoose l (k.answer _ _ (k.tells _ (k.lane l (fun hr => hr) h)))
    · exact k.answer _ _ h

theorem ChangesKeep.decideStop {s : State} (o : Order) (h : P s) : P (decideStop o s) := by
  unfold Machine.decideStop
  split
  · exact k.answer _ _ h
  · next l _ =>
    split
    · exact k.answer _ _ (k.tells _ (k.lane l (fun hr => hr) h))
    · exact k.answer _ _ h
    · exact k.answer _ _ h

theorem ChangesKeep.unknownOrder {s : State} (h : P s) : P (unknownOrder s) := by
  unfold Machine.unknownOrder
  split
  · exact ite_prop (k.finishOrder (k.answer _ _ h)) h
  · exact h

/-! ### Profile loads -/

theorem ChangesKeep.reloadTaken {s : State} (h : P s) : P (reloadTaken s) := by
  unfold Machine.reloadTaken
  split
  · exact ite_prop (k.starts _ h) h
  · exact h

theorem ChangesKeep.answerReload {s : State} (oc : OrderOutcome) (reason offset : Nat) (h : P s) :
    P (answerReload oc reason offset s) := by
  unfold Machine.answerReload
  split
  · exact ite_prop (k.finishOrder (k.tells _ h)) h
  · exact h

theorem ChangesKeep.applyJudgement {s : State} (c : LoadCause) (j : Judgement) (h : P { s with loader := none }) :
    P (applyJudgement c j s) := by
  cases j with
  | valid p =>
    have hp : P { s with loader := none, profile := some p } := k.beside h rfl
    have htold := k.tells (profileLoadedReport c p.generation) hp
    cases c with
    | commit => exact k.beside htold rfl
    | warmReset => exact k.beside htold rfl
    | reload => exact k.tryStart 3 (k.tryStart 2 (k.tryStart 1 (k.tryStart 0 (k.answerReload _ _ _ htold))))
  | invalid reason offset =>
    have htold := k.tells (profileRejectedReport c reason offset) h
    cases c with
    | commit => exact htold
    | warmReset => exact htold
    | reload => exact k.answerReload _ _ _ htold

theorem ChangesKeep.loadJudged {s : State} (h : P s) : P (loadJudged s) := by
  rcases loadJudged_cases s with ⟨e, -⟩ | ⟨ld, -, -, e⟩ <;> rw [e]
  · exact h
  · exact k.applyJudgement _ _ (k.judged (s := s.served .profileLoader) (by simp [State.served])
      (k.fewer _ List.filter_sublist h))

/-! ### The Lander -/

theorem ChangesKeep.examineGroups (gs : List (List Byte)) {s : State} (hs : s.lander.span = []) (h : P s) :
    P (examineGroups gs s) := by
  induction gs generalizing s with
  | nil => exact k.lander _ hs.symm h
  | cons g gs ih =>
    unfold Machine.examineGroups
    split
    · exact k.lander _ hs.symm h
    · exact ih (s := discard 4 s) hs (k.beside h rfl)

theorem ChangesKeep.seekAdmission {s : State} (h : P s) : P (seekAdmission s) := by
  unfold Machine.seekAdmission
  split
  · next hl =>
    split
    · next hb =>
      split
      · next hc => exact k.admits hl hb hc h
      · exact h
    · exact h
  · exact h
  · exact h

theorem ChangesKeep.acceptHeader (bs : List Byte) {s : State} (hs : s.lander.span = []) (h : P s) :
    P (acceptHeader bs s) := by
  have accepted {t : State} (ht : t.lander.span = []) (h : P t) :
      P { t with discarded := 0, lander := .body ⟨bs, headerOf bs, s.clock, none, 0, none⟩ } :=
    k.beside (k.lander (.body ⟨bs, headerOf bs, s.clock, none, 0, none⟩) ht.symm h) rfl
  unfold Machine.acceptHeader
  simp only
  split
  · exact accepted (by rwa [submit_lander]) (k.tells _ h)
  · exact accepted hs h

theorem ChangesKeep.takeByte (b : Byte) {s : State} (h : P s) : P (takeByte b s) := by
  unfold Machine.takeByte
  split
  · next hl =>
    have hs : s.lander.span = [] := by rw [hl]; rfl
    split
    · exact k.lander _ hs.symm h
    · exact k.examineGroups _ hs h
  · next hl =>
    have hs : s.lander.span = [] := by rw [hl]; rfl
    split
    · exact k.lander _ hs.symm h
    · unfold testHeader
      split
      · exact k.seekAdmission (k.acceptHeader _ hs h)
      · exact k.examineGroups _ (s := discard 4 s) hs (k.beside h rfl)
  · exact h

theorem ChangesKeep.takeBytes (bs : List Byte) {s : State} (h : P s) : P (takeBytes bs s).2 := by
  induction bs generalizing s with
  | nil => exact h
  | cons b bs ih =>
    unfold Machine.takeBytes
    split
    · exact h
    · exact ih (k.takeByte b h)
    · exact ih (k.takeByte b h)

theorem ChangesKeep.issueRequest {s : State} (h : P s) : P (issueRequest s) := by
  unfold Machine.issueRequest
  split
  · next b hl =>
    split
    · split
      · refine k.lander _ ?_ (k.readsOn h)
        rw [loaderReadsOn_lander, hl]
        rfl
      · exact h
    · exact h
  · exact h
  · exact h

theorem ChangesKeep.offerInflow {s : State} (a : Addr) (bs : List Byte) (h : P s) : P (offerInflow a bs s) := by
  have ht := k.takeBytes bs h
  unfold Machine.offerInflow settleInflow
  simp only
  split
  · exact k.issueRequest (k.beside ht rfl)
  · exact k.issueRequest (k.beside ht rfl)

theorem ChangesKeep.continueInflow {s : State} (n : Nat) (h : P s) : P (continueInflow n s) :=
  ite_prop (k.issueRequest h) (k.offerInflow _ _ h)

theorem ChangesKeep.ringWriteDone {s : State} (h : P s) : P (ringWriteDone s) := by
  unfold Machine.ringWriteDone
  split
  · next b hl =>
    split
    · next start q hb _ _ =>
      have hl' : (Machine.storeRing q.offset q.bytes s).lander = .body b := by
        rw [storeRing_eq]
        exact hl
      have hstored := k.storeRing q.offset q.bytes h
      simp only
      split
      · have hlanded := k.lands hl' hb hstored
        exact k.continueInflow _ (k.takeWork false hlanded)
      · refine k.continueInflow _ (k.lander _ ?_ hstored)
        rw [hl']
        rfl
    · exact h
  · exact h
  · exact h

theorem ChangesKeep.admission {s : State} (h : P s) : P (admission s) := by
  unfold Machine.admission
  split
  · next b hl =>
    split
    · next hb =>
      split
      · next hc =>
        refine k.issueRequest ?_
        have hm := k.admits hl hb hc h
        unfold restartHold
        split
        · exact ite_prop (k.beside hm rfl) hm
        · exact hm
      · exact h
    · exact h
  · exact h
  · exact h

theorem ChangesKeep.inflowTimeout {s : State} (h : P s) : P (inflowTimeout s) := by
  have hh : P (respond .error { s with held := none }) := k.beside h rfl
  refine ite_prop ?_ h
  unfold cutSegment
  split
  · next b hl =>
    refine k.tells _ (k.unwinds (s := Machine.strayRingWrite b _) ?_ (k.strayRingWrite b hh))
    rw [strayRingWrite_eq]
    exact hl
  · exact hh
  · exact hh

/-! ### Host requests and the report writer -/

theorem ChangesKeep.portTaken {s : State} (h : P s) : P (portTaken s) := k.fewer _ List.filter_sublist h

theorem ChangesKeep.storeBeat {s : State} (a : Nat) (be : Enables) (d : Beat) (h : P s) : P (storeBeat a be d s) :=
  k.beside (k.memory (mergeBeat s.mem a be d) (fun hw => wf_mergeBeat a be d hw) h) rfl

theorem ChangesKeep.performWrite {s : State} (c : WriteClass) (a : Nat) (be : Enables) (d : Beat) (h : P s) :
    P (performWrite c a be d s) := by
  have hs := k.storeBeat a be d h
  have hanswered : P (respond .ok (Machine.storeBeat a be d s)) := k.beside hs rfl
  unfold Machine.performWrite
  split
  · exact ite_prop (k.starts _ hanswered) hanswered
  · exact k.beside (k.watched be d hs) rfl
  · exact k.beside hs rfl
  · exact hanswered

theorem ChangesKeep.passWrite {s : State} (c : WriteClass) (a : Nat) (be : Enables) (d : Beat) (h : P s) :
    P (passWrite c a be d s) := by
  have hr : P (recordRead c s) := ite_prop (k.readsOn h) h
  exact ite_prop (k.performWrite c a be d (k.grant hr)) (k.beside (k.grant h) rfl)

theorem ChangesKeep.hostWrite {s : State} (a : Nat) (be : Enables) (d : Beat) (h : P s) : P (hostWrite a be d s) := by
  have ht := k.portTaken h
  refine ite_prop h (ite_prop (k.beside ht rfl) ?_)
  unfold takeWrite
  split
  · exact k.offerInflow _ _ ht
  · exact k.offerOrder _ _ ht
  · exact k.tells _ (k.beside ht rfl)
  · exact k.beside ht rfl
  · exact k.passWrite _ _ _ _ h

theorem ChangesKeep.proofRead {s : State} (o : Nat) (h : P s) : P (proofRead o s) := by
  have ht := k.portTaken h
  unfold Machine.proofRead
  split
  · split
    · split
      · exact k.beside (k.raiseFlag? _ (ite_prop (k.grant h) ht)) rfl
      · exact k.beside ht rfl
    · exact k.beside ht rfl
  · exact k.beside ht rfl

theorem ChangesKeep.hostRead {s : State} (a : Nat) (h : P s) : P (hostRead a s) := by
  have ht := k.portTaken h
  refine ite_prop h ?_
  split
  · exact ite_prop (k.beside (k.grant h) rfl) (k.beside (k.grant h) rfl)
  · exact k.beside ht rfl
  · exact k.proofRead _ h
  · exact k.beside ht rfl

theorem ChangesKeep.hostAccess {s : State} (r : Access) (h : P s) : P (hostAccess r s) := by
  cases r with
  | read a => exact k.hostRead _ h
  | write a be d => exact k.hostWrite _ _ _ h

theorem ChangesKeep.noteDrop {s : State} (h : P s) : P (noteDrop s) := ite_prop h (k.beside h rfl)

theorem ChangesKeep.handleHead {s : State} (h : P s) : P (handleHead s) := by
  unfold Machine.handleHead
  split
  · exact h
  · next r rs hr =>
    have hrs : P { s with reports := rs } := k.shorter rs (by rw [hr]; exact Nat.le_succ _) h
    simp only
    split
    · next hroom =>
      refine ite_prop (k.record r hroom ?_) h
      exact k.fewer (s := { s with reports := rs }) _ List.filter_sublist hrs
    · exact k.noteDrop hrs

theorem ChangesKeep.writeOwed {s : State} (h : P s) : P (writeOwed s) :=
  ite_prop (k.beside (k.writeWords overflowAddr (leBytes 8 (1 : Count).toNat)
    (k.fewer (s := s) _ List.filter_sublist h)) rfl) h

theorem ChangesKeep.reportWrite {s : State} (h : P s) : P (reportWrite s) := by
  refine k.writeOwed ?_
  split
  · exact k.handleHead h
  · exact h

/-! ### Every command and every step -/

/-- Every command keeps what its changes keep. -/
theorem ChangesKeep.exec {s t : State} (c : Instr) (h : P s) (e : Machine.exec c s = .next t) : P t := by
  have hm : ∀ l, P (Machine.takeMessage l s) := fun l => k.takeMessage l h
  cases c with
  | inflowChuteWrite off be d => exact of_next (k.hostWrite _ be d h) e
  | admission => exact of_next (k.admission h) e
  | ringWriteDone => exact of_next (k.ringWriteDone h) e
  | inflowHoldTimeout => exact of_next (k.inflowTimeout h) e
  | filler => exact of_next (k.filler _ h) e
  | unknownKind => exact of_next (k.unknownKind _ _ _ h) e
  | pageOpen upTo => exact of_next (k.handleOpen upTo h) e
  | framesStallEnd => exact of_next (k.framesStallEnd h) e
  | strip upTo => exact of_next (k.handleKind upTo (fun hu hf _ ht => k.applyStrip _ hu ht hf) h) e
  | photoHead upTo => exact of_next (k.handleKind upTo (fun hu hf _ ht => k.applyPhotoHead _ hu ht hf) h) e
  | photoPart upTo => exact of_next (k.handleKind upTo (fun hu hf hk ht => k.applyPhotoPart _ hu ht hf hk) h) e
  | pageClose upTo => exact of_next (k.handleKind upTo (fun hu hf _ ht => k.applyPageClose _ hu ht hf) h) e
  | remakeTile upTo => exact of_next (k.handleRemake upTo h) e
  | patchesStallEnd => exact of_next (k.patchesStallEnd h) e
  | deferralStallEnd => exact of_next (k.deferralStallEnd h) e
  | orderChuteWrite off be d => exact of_next (k.hostWrite _ be d h) e
  | orderRecordQueued => exact of_next (k.recordQueued h) e
  | orderHoldTimeout => exact of_next (k.orderTimeout h) e
  | queuePlate => exact of_next (k.handleOrder (fun o => k.decideQueue o h) h) e
  | withdrawPlate => exact of_next (k.handleOrder (fun o => k.decideWithdraw o h) h) e
  | purgePage => exact of_next (k.handleOrder (fun o => k.decidePurge o h) h) e
  | purgeComplete => exact of_next (k.purgeComplete h) e
  | openLocalPage => exact of_next (k.handleOrder (fun o => k.decideOpenLocal o h) h) e
  | closeLocalPage => exact of_next (k.handleOrder (fun o => k.decideCloseLocal o h) h) e
  | setProof => exact of_next (k.handleOrder (fun o => k.decideProof o h) h) e
  | runLane => exact of_next (k.handleOrder (fun o => k.decideRun o h) h) e
  | stopLane => exact of_next (k.handleOrder (fun o => k.decideStop o h) h) e
  | reloadProfile => exact of_next (k.reloadTaken h) e
  | unknownOrder => exact of_next (k.unknownOrder h) e
  | profileLoadJudged => exact of_next (k.loadJudged h) e
  | profileCommitWrite be d => exact of_next (k.hostWrite _ be d h) e
  | plateLate tag =>
    refine of_next ?_ e
    split
    · exact k.lateTest _ tag h
    · exact h
  | laneRowComposed l => exact of_next (k.rowComposed l h) e
  | ready l => exact of_next (k.readyTaken l (hm l)) e
  | pull l n => exact of_next (k.pullTaken l n (hm l)) e
  | exposed l tag => exact of_next (k.exposedTaken l tag (hm l)) e
  | ejected l tag => exact of_next (k.ejectedTaken l tag (hm l)) e
  | setterFault l cause => exact of_next (k.faultTaken l cause (hm l)) e
  | setterIdle l => exact of_next (hm l) e
  | linkLoss l => exact of_next (ite_prop (k.takeLoss l h) h) e
  | laneIdleSend l => exact of_next (ite_prop (k.sendMsg l .idle h) h) e
  | proofRead off => exact of_next (k.hostRead _ h) e
  | passingAccess r => exact of_next (k.hostAccess r h) e
  | chuteRead c off => exact of_next (k.hostRead _ h) e
  | unmappedAccess r => exact of_next (k.hostAccess r h) e
  | droppedWrite a be d => exact of_next (k.hostWrite _ be d h) e
  | consumedCountWrite be d => exact of_next (k.hostWrite _ be d h) e
  | overflowWordWrite be d => exact of_next (k.hostWrite _ be d h) e
  | reportWrite => exact of_next (k.reportWrite h) e
  | powerOnReset => exact of_next (s := powerOn s) (k.beside k.reset rfl) e
  | warmReset => exact of_next (k.warm h) e

/-- Every step keeps what the commands' changes and a tick keep. -/
theorem ChangesKeep.step {s t : State} (h : P s) (e : Machine.step s = .next t) : P t := by
  unfold Machine.step at e
  split at e
  · exact of_next (k.ticks h) e
  · next c cs _ =>
    have hp : P (s.withPending cs) := k.beside h rfl
    exact k.exec c hp e

end

end Sys2Proof.Machine
end

section
/-! ## Records and ring: each change keeps them safe -/

namespace Sys2Proof.Machine

/-! ### Records -/

/-- The records go by memory, reports, counts, ATTN, the page table's size and the order queue. -/
theorem RecordsSafe.congr {s t : State} (h : RecordsSafe s) (hmem : t.mem = s.mem) (hreports : t.reports = s.reports)
    (hcount : t.unconsumed = s.unconsumed) (hattn : t.attn = s.attn) (hpages : t.pages.length = s.pages.length)
    (horders : t.orderQueue = s.orderQueue) : RecordsSafe t where
  memory := hmem ▸ h.memory
  pendingReports := hreports ▸ h.pendingReports
  unconsumed := hcount ▸ h.unconsumed
  attn := by rw [hattn, hcount, h.attn]
  pages := hpages.trans h.pages
  orders := horders ▸ h.orders

theorem RecordsSafe.submit {s : State} (h : RecordsSafe s) (r : Report) : RecordsSafe (submit r s) := by
  rcases submit_cases r s with ⟨hl, e⟩ | ⟨-, e⟩ <;> rw [e]
  · have hlen : (s.reports ++ [{ r with stamp := s.clock }]).length ≤ 64 := by
      rw [List.length_append]
      exact hl
    exact ⟨h.memory, hlen, h.unconsumed, h.attn, h.pages, h.orders⟩
  · exact h.congr (by simp) (by simp) (by simp [State.unconsumed]) (by simp) (by simp) (by simp)

theorem length_pages_modPage (f : Nat) (g : Page → Page) (s : State) :
    (modPage f g s).pages.length = s.pages.length := by
  unfold modPage
  split
  · exact List.length_set
  · rfl

theorem RecordsSafe.modPage {s : State} (h : RecordsSafe s) (f : Nat) (g : Page → Page) : RecordsSafe (modPage f g s) :=
  h.congr (by simp) (by simp) (by simp [State.unconsumed]) (by simp) (length_pages_modPage f g s) (by simp)

/-- What a record written where there is room for it changes (R171, R174). -/
theorem writeRecord_changes (r : Report) {s : State} (hroom : s.unconsumed.toNat < 256) : ∃ m b,
    (Memory.wf s.mem = true → Memory.wf m = true) ∧
      writeRecord r s = { s with mem := m, badWords := b, writeCount := s.writeCount + 1, attn := true } := by
  refine ⟨_, _, fun h => ?_, writeRecord_eq r hroom⟩
  rw [writeRecord_mem]
  exact wf_writeCountWord _ _ (wf_writeWords h _ _)

theorem RecordsSafe.writeRecord {s : State} (h : RecordsSafe s) (r : Report) (hroom : s.unconsumed.toNat < 256) :
    RecordsSafe (writeRecord r s) := by
  have hsucc := unconsumed_succ hroom
  obtain ⟨m, b, hm, e⟩ := writeRecord_changes r hroom
  rw [e]
  exact ⟨hm h.memory, h.pendingReports, hsucc.trans_le hroom,
    ((ne_zero_iff_toNat_pos _).2 (lt_of_lt_of_eq (Nat.succ_pos _) hsucc.symm)).symm, h.pages, h.orders⟩

theorem RecordsSafe.watchConsumed {s : State} (h : RecordsSafe s) (be : Enables) (d : Beat) :
    RecordsSafe (watchConsumed be d s) := by
  rw [watchConsumed_eq]
  split
  · next hw => exact ⟨h.memory, h.pendingReports, hw.2, rfl, h.pages, h.orders⟩
  · exact h

theorem wf_warm {s : State} (h : Memory.wf s.mem = true) : Memory.wf (warm s).mem = true :=
  wf_writeCountWord _ _ (wf_writeCountWord _ _
    (s := clearedKeepingMemory (abandonRingWrite (abandonWrites s)))
    (abandonRingWrite_bytes (abandonWrites_bytes h).1).1)

theorem RecordsSafe.warm {s : State} (h : RecordsSafe s) : RecordsSafe (warm s) := by
  have hmem := wf_warm h.memory
  generalize hm : (Machine.warm s).mem = m at hmem
  rw [warm_eq, hm]
  exact ⟨hmem, reset_recordsSafe.pendingReports, reset_recordsSafe.unconsumed, reset_recordsSafe.attn,
    reset_recordsSafe.pages, reset_recordsSafe.orders⟩

theorem PortMoves.recordsSafe {s t : State} (h : PortMoves s t) (hs : RecordsSafe s) : RecordsSafe t := by
  rw [h.state]
  exact hs.congr rfl rfl rfl rfl rfl rfl

theorem recordsSafe_lanesKeep : LanesKeep RecordsSafe where
  same e h := h.congr (congrArg State.mem e :) (congrArg State.reports e :) (congrArg State.unconsumed e :)
    (congrArg State.attn e :) (congrArg (fun u : State => u.pages.length) e :) (congrArg State.orderQueue e :)
  tells r h := h.submit r
  memory _ hm h := { h with memory := hm h.memory }
  lane _ _ _ h := h.congr rfl rfl rfl rfl rfl rfl
  page f g _ h := h.modPage f g

theorem recordsSafe_changesKeep : ChangesKeep RecordsSafe where
  toLanesKeep := recordsSafe_lanesKeep
  reset := reset_recordsSafe
  warm h := h.warm
  shorter _ hl h := { h with pendingReports := hl.trans h.pendingReports }
  record r hr h := h.writeRecord r hr
  watched be d h := h.watchConsumed be d
  orders _ hq h := { h with orders := hq h.orders }
  lander _ _ h := h.congr rfl rfl rfl rfl rfl rfl
  admits _ _ _ h := h.congr rfl rfl rfl rfl rfl rfl
  lands _ _ h := h.congr rfl rfl rfl rfl rfl rfl
  unwinds _ h := by
    rw [unwindAdmission_eq]
    exact h.congr rfl rfl rfl rfl rfl rfl
  entries _ _ h := h.congr rfl rfl rfl rfl rfl rfl
  reclaims h := by
    rw [reclaim_eq]
    exact h.congr rfl rfl rfl rfl rfl rfl
  flags f _ g _ _ _ h := (h.modPage f g).modPage f _
  photos f g _ _ h := h.modPage f g
  spoils {s} f tx ty n h :=
    (h.congr (t := { s with patches := spoilPatch f tx ty n s.patches }) rfl rfl rfl rfl rfl rfl).modPage f _
  creates _ _ _ _ h := h.congr rfl rfl rfl rfl List.length_set rfl
  purges _ _ h := h.congr rfl rfl rfl rfl List.length_set rfl
  slot _ _ _ _ _ h := h.congr rfl rfl rfl rfl rfl rfl
  undecodes _ _ h := h.congr rfl rfl rfl rfl rfl rfl
  remakes {s g f n} _ _ _ h := by
    have hfreed : RecordsSafe { freeOld f g.header.locator g.header.arg s with
        patches := putPatch f g.header.locator g.header.arg n s.patches } := by
      rw [freeOld_eq]
      exact h.congr rfl rfl rfl rfl rfl rfl
    exact ((hfreed.modPage f _).modPage f _).congr rfl rfl rfl rfl rfl rfl
  work _ _ _ _ _ _ h := h.congr rfl rfl rfl rfl rfl rfl
  reading _ _ _ h := h.congr rfl rfl rfl rfl rfl rfl
  fewer _ _ h := h.congr rfl rfl rfl rfl rfl rfl
  starts _ h := h.congr rfl rfl rfl rfl rfl rfl
  readsOn h := h.congr (by simp) (by simp) (by simp [State.unconsumed]) (by simp) (by simp) (by simp)
  judged _ h := h.congr rfl rfl rfl rfl rfl rfl
  grant {s} h := (portGrant_moves s).1.recordsSafe h
  ticks {s} h := ((portRuns_moves s).recordsSafe h).congr rfl rfl rfl rfl rfl rfl

/-! ### The ring -/

theorem ringSpans_eq (s : State) :
    ringSpans s = s.landed.map (fun e => (e.seg.offset, e.seg.total)) ++ s.lander.span := by
  unfold ringSpans Lander.span
  cases s.lander <;> rfl

/-- The ring goes by its head, tail, occupancy and spans. -/
theorem RingSafe.congr {s t : State} (h : RingSafe s) (hh : t.ringHead = s.ringHead) (ht : t.ringTail = s.ringTail)
    (hu : t.ringUsed = s.ringUsed) (hs : ringSpans t = ringSpans s) : RingSafe t where
  head := hh ▸ h.head
  chain := by rw [hs, hh, ht]; exact h.chain
  used := by rw [hs, hu]; exact h.used
  room := hu ▸ h.room
  places := hs ▸ h.places

theorem endToEnd_append {z a : Nat} {es fs : List (Nat × Nat)} :
    endToEnd z a (es ++ fs) ↔ ∃ m, endToEnd m a es ∧ endToEnd z m fs := by
  induction es generalizing a with
  | nil => exact ⟨fun h => ⟨a, rfl, h⟩, fun ⟨m, e, h⟩ => by rwa [show a = m from e]⟩
  | cons e es ih =>
    constructor
    · rintro ⟨ho, h⟩
      obtain ⟨m, he, hf⟩ := ih.1 h
      exact ⟨m, ⟨ho, he⟩, hf⟩
    · rintro ⟨m, ⟨ho, he⟩, hf⟩
      exact ⟨ho, ih.2 ⟨m, he, hf⟩⟩

theorem endToEnd_lt {z a : Nat} {es : List (Nat × Nat)} (ha : a < ringSize) (h : endToEnd z a es) : z < ringSize := by
  induction es generalizing a with
  | nil => exact (show a = z from h) ▸ ha
  | cons e es ih => exact ih (Nat.mod_lt _ (by decide)) h.2

/-- The head of the ring for the entries left is where their spans begin (R32, R39). -/
theorem headOf_eq {s : State} {es : List LandedEntry} {m : Nat}
    (h : endToEnd s.ringTail m (es.map (fun e => (e.seg.offset, e.seg.total)) ++ s.lander.span)) : headOf es s = m := by
  cases es with
  | cons e es => exact h.1
  | nil =>
    change s.reserved.getD s.ringTail = m
    unfold State.reserved
    cases hl : s.lander with
    | seek g => rw [hl] at h; exact (show m = s.ringTail from h).symm
    | header g => rw [hl] at h; exact (show m = s.ringTail from h).symm
    | body b =>
      rw [hl] at h
      cases hb : b.start with
      | none =>
        simp only [Lander.span, hb] at h ⊢
        exact (show m = s.ringTail from h).symm
      | some o =>
        simp only [Lander.span, hb] at h ⊢
        exact h.1

/-- Reclaim takes DONE entries off the front (R39). -/
theorem RingSafe.reclaim {s : State} (h : RingSafe s) : RingSafe (reclaim s) := by
  let gone := s.landed.takeWhile LandedEntry.isDone
  let left := s.landed.dropWhile LandedEntry.isDone
  let spans := fun es : List LandedEntry => es.map fun e => (e.seg.offset, e.seg.total)
  have hall : ringSpans s = spans gone ++ (spans left ++ s.lander.span) := by
    rw [ringSpans_eq, ← List.append_assoc, ← List.map_append, List.takeWhile_append_dropWhile]
  unfold Machine.reclaim
  split
  · exact h
  · have hchain := h.chain
    have hused := h.used
    have hplaces := h.places
    rw [hall] at hchain hused hplaces
    obtain ⟨m, hgone, hleft⟩ := endToEnd_append.1 hchain
    have hhead : headOf left s = m := headOf_eq hleft
    have hbytes : totalBytes gone = ((spans gone).map Prod.snd).sum := by
      simp [totalBytes, spans, List.map_map, Function.comp_def]
    rw [List.map_append, List.sum_append] at hused
    rw [List.length_append] at hplaces
    have hroom := h.room
    refine ⟨?_, ?_, ?_, ?_, ?_⟩
    · change headOf left s < ringSize
      rw [hhead]
      exact endToEnd_lt h.head hgone
    · rw [ringSpans_eq]
      change endToEnd s.ringTail (headOf left s) _
      rw [hhead]
      exact hleft
    · rw [ringSpans_eq]
      change s.ringUsed - totalBytes gone = ((spans left ++ s.lander.span).map Prod.snd).sum
      omega
    · change s.ringUsed - totalBytes gone ≤ ringSize
      omega
    · rw [ringSpans_eq]
      change (spans left ++ s.lander.span).length ≤ 1024
      omega

/-- An admission puts the reservation at the tail (R33). -/
theorem RingSafe.makeAdmission {s : State} (h : RingSafe s) {b : Body} (hl : s.lander = .body b) (hb : b.start = none)
    (hc : canAdmit s (totalOf b.header.length) = true) : RingSafe (makeAdmission b s) := by
  obtain ⟨hplace, hroom⟩ := (canAdmit_iff hl hb _).1 hc
  have hspans : ringSpans s = s.landed.map fun e => (e.seg.offset, e.seg.total) := by
    rw [ringSpans_eq, hl, Lander.span, hb]
    exact List.append_nil _
  have hnew : ringSpans (Machine.makeAdmission b s) = ringSpans s ++ [(s.ringTail, totalOf b.header.length)] := by
    rw [hspans, ringSpans_eq]
    rfl
  have hsize := h.room
  refine ⟨h.head, ?_, ?_, ?_, ?_⟩
  · rw [hnew]
    exact endToEnd_append.2 ⟨s.ringTail, h.chain, rfl, rfl⟩
  · rw [hnew, List.map_append, List.sum_append, ← h.used]
    simp [Machine.makeAdmission]
  · change s.ringUsed + totalOf b.header.length ≤ ringSize
    simp only [ringSize] at hsize ⊢
    omega
  · rw [hnew, hspans, List.length_append, List.length_map]
    exact hplace

/-- A cut gives the reservation at the tail back (R36). -/
theorem RingSafe.unwindAdmission {s : State} (h : RingSafe s) {b : Body} (hl : s.lander = .body b) :
    RingSafe { unwindAdmission b s with lander := .seek [], discarded := 0 } := by
  have hspans := ringSpans_eq s
  rw [hl, Lander.span] at hspans
  unfold Machine.unwindAdmission
  cases hb : b.start with
  | none =>
    refine h.congr rfl rfl rfl ?_
    rw [hspans, ringSpans_eq, hb]
    rfl
  | some o =>
    have hnew : ringSpans { s with ringTail := o, ringUsed := s.ringUsed - totalOf b.header.length
                                   lander := .seek [], discarded := 0 } =
        s.landed.map fun e => (e.seg.offset, e.seg.total) := by
      rw [ringSpans_eq]
      exact List.append_nil _
    rw [hb] at hspans
    have hchain := h.chain
    have hused := h.used
    have hplaces := h.places
    have hroom := h.room
    rw [hspans] at hchain hused hplaces
    obtain ⟨m, hlanded, rfl, -⟩ := endToEnd_append.1 hchain
    rw [List.map_append, List.sum_append] at hused
    rw [List.length_append] at hplaces
    simp only [Option.toList_some, List.map_cons, List.map_nil, List.sum_cons, List.sum_nil, List.length_cons,
      List.length_nil] at hused hplaces
    refine ⟨h.head, hnew ▸ hlanded, ?_, ?_, ?_⟩
    · rw [hnew]
      change s.ringUsed - totalOf b.header.length = _
      omega
    · change s.ringUsed - totalOf b.header.length ≤ ringSize
      omega
    · rw [hnew]
      omega

theorem PortMoves.ringSafe {s t : State} (h : PortMoves s t) (hs : RingSafe s) : RingSafe t := by
  rw [h.state]
  exact hs.congr rfl rfl rfl rfl

/-- Reports and page records are beside the ring. -/
theorem ringSpans_congr {s t : State} (hl : t.landed = s.landed) (hr : t.lander = s.lander) :
    ringSpans t = ringSpans s := by
  rw [ringSpans_eq, ringSpans_eq, hl, hr]

theorem RingSafe.modPage {s : State} (h : RingSafe s) (f : Nat) (g : Page → Page) : RingSafe (modPage f g s) :=
  h.congr (by simp) (by simp) (by simp) (ringSpans_congr (by simp) (by simp))

theorem ringSafe_lanesKeep : LanesKeep RingSafe where
  same e h := h.congr (congrArg State.ringHead e :) (congrArg State.ringTail e :) (congrArg State.ringUsed e :)
    (ringSpans_congr (congrArg State.landed e :) (congrArg State.lander e :))
  tells r h := h.congr (by simp) (by simp) (by simp) (ringSpans_congr (by simp) (by simp))
  memory _ _ h := h.congr rfl rfl rfl rfl
  lane _ _ _ h := h.congr rfl rfl rfl rfl
  page f g _ h := h.modPage f g

theorem ringSafe_changesKeep : ChangesKeep RingSafe where
  toLanesKeep := ringSafe_lanesKeep
  reset := reset_ringSafe
  warm {s} _ := by
    rw [warm_eq]
    exact reset_ringSafe.congr rfl rfl rfl rfl
  shorter _ _ h := h.congr rfl rfl rfl rfl
  record r hr h := by
    obtain ⟨m, b, -, e⟩ := writeRecord_changes r hr
    rw [e]
    exact h.congr rfl rfl rfl rfl
  watched be d h := by
    rw [watchConsumed_eq]
    exact ite_prop (h.congr rfl rfl rfl rfl) h
  orders _ _ h := h.congr rfl rfl rfl rfl
  lander _ hx h := h.congr rfl rfl rfl (by rw [ringSpans_eq, ringSpans_eq, hx])
  admits hl hb hc h := h.makeAdmission hl hb hc
  lands {s b start} hl hb h := h.congr rfl rfl rfl (by
    rw [ringSpans_eq, ringSpans_eq, hl, Lander.span, Lander.span, hb, List.map_append, List.append_nil]
    rfl)
  unwinds hl h := h.unwindAdmission hl
  entries g hg h := h.congr rfl rfl rfl (by simp [ringSpans_eq, hg])
  reclaims h := h.reclaim
  flags f _ g _ _ _ h := (h.modPage f g).modPage f _
  photos f g _ _ h := h.modPage f g
  spoils {s} f tx ty n h :=
    (h.congr (t := { s with patches := spoilPatch f tx ty n s.patches }) rfl rfl rfl rfl).modPage f _
  creates _ _ _ _ h := h.congr rfl rfl rfl rfl
  purges _ _ h := h.congr rfl rfl rfl rfl
  slot _ _ _ _ _ h := h.congr rfl rfl rfl rfl
  undecodes _ _ h := h.congr rfl rfl rfl rfl
  remakes {s g f n} _ _ _ h := by
    have hfreed : RingSafe { freeOld f g.header.locator g.header.arg s with
        patches := putPatch f g.header.locator g.header.arg n s.patches } := by
      rw [freeOld_eq]
      exact h.congr rfl rfl rfl rfl
    exact ((hfreed.modPage f _).modPage f _).congr rfl rfl rfl rfl
  work _ _ _ _ _ _ h := h.congr rfl rfl rfl rfl
  reading _ _ _ h := h.congr rfl rfl rfl rfl
  fewer _ _ h := h.congr rfl rfl rfl rfl
  starts _ h := h.congr rfl rfl rfl rfl
  readsOn h := h.congr (by simp) (by simp) (by simp) (ringSpans_congr (by simp) (by simp))
  judged _ h := h.congr rfl rfl rfl rfl
  grant {s} h := (portGrant_moves s).1.ringSafe h
  ticks {s} h := ((portRuns_moves s).ringSafe h).congr rfl rfl rfl rfl

end Sys2Proof.Machine
end

section
/-! ## Pages and patches: each change keeps them safe -/

namespace Sys2Proof.Machine

/-! ### Damage -/

/-- A tile's damage goes by the page's size, strips and flags, and by the tile's entry (R76). -/
theorem tileDamaged_congr {ps ps' : List PatchEntry} {f : Nat} {p q : Page} {x y : Nat} (hc : q.core = p.core)
    (hf : findPatch ps' f x y = findPatch ps f x y) : tileDamaged ps' f q x y = tileDamaged ps f p x y := by
  have htw := congrArg Page.tw hc
  have hth := congrArg Page.th hc
  have hstrips := congrArg Page.strips hc
  have htiles := congrArg Page.tiles hc
  simp only [Page.core] at htw hth hstrips htiles
  simp only [tileDamaged, hf, Page.holds, Page.stripCondition, Page.flags, htw, hth, hstrips, htiles]

theorem damagedOf_core {s t : State} {f : Nat} {p q : Page} (hc : q.core = p.core)
    (hf : ∀ x y, findPatch t.patches f x y = findPatch s.patches f x y) :
    damagedOf t f (allTiles q.tw q.th) q = damagedOf s f (allTiles p.tw p.th) p := by
  have htw : q.tw = p.tw := (congrArg Page.tw hc :)
  have hth : q.th = p.th := (congrArg Page.th hc :)
  rw [htw, hth]
  exact List.countP_congr fun x _ => by rw [tileDamaged_congr hc (hf x.1 x.2)]

/-- A count moved by what some tiles are after a change less what they were before it is the count of the whole page,
where no other tile has changed (R77). -/
theorem count_moved {s t : State} {f : Nat} {p q : Page} {ts : List (Nat × Nat)} (hn : ts.Nodup) (htw : q.tw = p.tw)
    (hth : q.th = p.th) (hd : p.damaged = damagedOf s f (allTiles p.tw p.th) p)
    (ho : ∀ x y, p.holds x y = true → (x, y) ∉ ts → tileDamaged t.patches f q x y = tileDamaged s.patches f p x y) :
    p.damaged + damagedOf t f ts q - damagedOf s f ts p = damagedOf t f (allTiles q.tw q.th) q := by
  have hpart : damagedOf t f (allTiles p.tw p.th) q + damagedOf s f ts p =
      damagedOf s f (allTiles p.tw p.th) p + damagedOf t f ts q := by
    refine countP_part hn (nodup_rectTiles _ _ _ _) (fun _ _ hx => mem_allTiles.2 (holds_of_damaged hx))
      (fun x _ hx => ?_) fun x hx hnot => ho x.1 x.2 (mem_allTiles.1 hx) hnot
    have hq := mem_allTiles.2 (holds_of_damaged hx)
    rwa [htw, hth] at hq
  rw [htw, hth]
  omega

/-! ### The tables with the same entries -/

theorem findPatch_isSome_iff {ps : List PatchEntry} {f x y : Nat} :
    (findPatch ps f x y).isSome = true ↔ (f, x, y) ∈ ps.map PatchEntry.tile := by
  rw [findPatch, List.find?_isSome, List.mem_map]
  refine exists_congr fun e => and_congr_right fun _ => ?_
  simp [PatchEntry.tile, and_assoc]

theorem decodingSlot_congr {s t : State} (h : t.unpacker = s.unpacker) : t.decodingSlot = s.decodingSlot := by
  unfold State.decodingSlot
  rw [h]

theorem decodingSlot_eq_some {s : State} {n : Nat} :
    s.decodingSlot = some n ↔ ∃ g, s.unpacker = .working g (.decoding n) := by
  unfold State.decodingSlot
  split
  · next g m hu => simp [hu]
  · next g ph hph hu =>
    refine ⟨nofun, fun ⟨g', e⟩ => ?_⟩
    exact absurd (Unpacker.working.inj (hu.symm.trans e)).2 (hph n)
  · next hu => simp [hu]
  · next hu => simp [hu]

theorem decodingSlot_eq_none {s : State} (h : ∀ g n, s.unpacker ≠ .working g (.decoding n)) : s.decodingSlot = none :=
  Option.eq_none_iff_forall_ne_some.2 fun n e =>
    let ⟨g, hg⟩ := decodingSlot_eq_some.1 e
    h g n hg

/-- The tables go by the entries' tiles and slots, the slots in use, the Unpacker's work and the pages. -/
theorem TablesSafe.of_entries {s t : State} (h : TablesSafe s)
    (htiles : t.patches.map PatchEntry.tile = s.patches.map PatchEntry.tile)
    (hslots : t.patches.map PatchEntry.slot = s.patches.map PatchEntry.slot) (huse : t.slotsInUse = s.slotsInUse)
    (hu : t.unpacker = s.unpacker) (hup : t.unpackerPage = s.unpackerPage)
    (hclosed : ∀ f p, s.page f = some p → p.state = .closed → ∃ q, t.page f = some q ∧ q.state = .closed)
    (hdamage : ∀ f q, t.page f = some q → q.damaged = damagedOf t f (allTiles q.tw q.th) q) : TablesSafe t := by
  have hlen : t.patches.length = s.patches.length := by
    rw [← List.length_map (f := PatchEntry.tile), htiles, List.length_map]
  have hdec := decodingSlot_congr hu
  have hslot (n : Nat) : (∃ e ∈ t.patches, e.slot = n) ↔ ∃ e ∈ s.patches, e.slot = n := by
    rw [← List.mem_map, hslots, List.mem_map]
  have closes {f : Nat} : (∃ p, s.page f = some p ∧ p.state = .closed) → ∃ q, t.page f = some q ∧ q.state = .closed :=
    fun ⟨p, hp, hc⟩ => hclosed f p hp hc
  exact {
    tiles := htiles ▸ h.tiles
    slots := hslots ▸ h.slots
    entries := hlen ▸ h.entries
    closed := fun e he => by
      have hmem := List.mem_map_of_mem (f := PatchEntry.tile) he
      rw [htiles] at hmem
      obtain ⟨d, hd, hde⟩ := List.mem_map.1 hmem
      have hframe : d.frame = e.frame := (Prod.mk.inj hde).1
      exact hframe ▸ closes (h.closed d hd)
    inUse := huse ▸ h.inUse
    named := fun n => by rw [huse, hdec, hslot, h.named]
    apart := fun n hn e he hen => by
      obtain ⟨d, hd, hdn⟩ := (hslot n).1 ⟨e, he, hen⟩
      exact h.apart n (hdec ▸ hn) d hd hdn
    inUseBound := by
      rw [huse, hlen]
      exact h.inUseBound
    remake := fun g f hf hg => closes (h.remake g f (hup ▸ hf) (by rwa [hu] at hg))
    place := fun g f n hf hg => by
      rw [findPatch_isSome_iff, htiles, hlen, ← findPatch_isSome_iff]
      exact h.place g f n (hup ▸ hf) (hu ▸ hg)
    damage := hdamage }

/-- A change of nothing the tables speak of. -/
theorem TablesSafe.congr {s t : State} (h : TablesSafe s) (hp : t.patches = s.patches)
    (huse : t.slotsInUse = s.slotsInUse) (hu : t.unpacker = s.unpacker) (hup : t.unpackerPage = s.unpackerPage)
    (hpages : t.pages = s.pages) : TablesSafe t := by
  have hpage (f : Nat) : t.page f = s.page f := by rw [State.page, hpages]; rfl
  refine h.of_entries (by rw [hp]) (by rw [hp]) huse hu hup (fun f p hf hc => ⟨p, (hpage f).trans hf, hc⟩) fun f q hq => ?_
  rw [h.damage f q ((hpage f).symm.trans hq), damagedOf, damagedOf, hp]

/-- One page record changed, its count right afterwards. -/
theorem TablesSafe.modPage {s : State} (h : TablesSafe s) (f : Nat) {g : Page → Page}
    (hg : ∀ p, s.page f = some p → (p.state = .closed → (g p).state = .closed) ∧
      (g p).damaged = damagedOf s f (allTiles (g p).tw (g p).th) (g p)) : TablesSafe (modPage f g s) := by
  have hdam (i : Nat) (ts : List (Nat × Nat)) (q : Page) :
      damagedOf (Machine.modPage f g s) i ts q = damagedOf s i ts q := by
    rw [damagedOf, damagedOf, modPage_patches]
  refine h.of_entries (by simp) (by simp) (by simp) (by simp) (by simp) (fun i p hp hc => ?_) fun i q hq => ?_
  · by_cases hi : i = f
    · subst hi
      exact ⟨_, page_modPage g hp, (hg p hp).1 hc⟩
    · exact ⟨p, (page_modPage_ne g s hi).trans hp, hc⟩
  · rw [hdam]
    by_cases hi : i = f
    · subst hi
      cases hp : s.page i with
      | none =>
        simp only [Machine.modPage, hp] at hq
        cases hq
      | some p =>
        obtain rfl := Option.some.inj ((page_modPage g hp).symm.trans hq)
        exact (hg p hp).2
    · exact h.damage i q ((page_modPage_ne g s hi).symm.trans hq)

/-- A page record changed in nothing the tables speak of. -/
theorem TablesSafe.modPage_kin {s : State} (h : TablesSafe s) (f : Nat) {g : Page → Page} (hg : ∀ p : Page, p.Kin (g p)) :
    TablesSafe (Machine.modPage f g s) := by
  refine h.modPage f fun p hp => ⟨(hg p).closed, ?_⟩
  have hd : (g p).damaged = p.damaged := (congrArg Page.damaged (hg p).core :)
  rw [hd, h.damage f p hp]
  exact (damagedOf_core (hg p).core fun _ _ => rfl).symm

theorem modPage_of_none {s : State} {f : Nat} (h : s.page f = none) (g : Page → Page) : modPage f g s = s := by
  rw [modPage, h]

/-- Some tiles changed and recounted (R77). -/
theorem TablesSafe.recount {s : State} (h : TablesSafe s) (f : Nat) {ts : List (Nat × Nat)} {g : Page → Page}
    (hn : ts.Nodup) (hg : ∀ p, s.page f = some p → p.Reflagged ts (g p)) :
    TablesSafe (recount f ts s (Machine.modPage f g s)) := by
  cases hp : s.page f with
  | none =>
    rw [modPage_of_none hp, Machine.recount, modPage_of_none hp]
    exact h
  | some p =>
    have e : Machine.recount f ts s (Machine.modPage f g s) =
        Machine.modPage f (fun q => (g q).recounted q s f ts) s := by
      rw [recount_modPage hp (hg p hp).damaged, modPage_eq hp]
    rw [e]
    refine h.modPage f fun q hq => ⟨(hg q hq).closed, ?_⟩
    exact count_moved hn (hg q hq).tw (hg q hq).th (h.damage f q hq) ((hg q hq).others s.patches f)

/-! ### SPOILT -/

/-- SPOILT alone changes in the entries. -/
theorem map_spoilPatch {α : Type} {k : PatchEntry → α} (hk : ∀ e : PatchEntry, k { e with spoilt := true } = k e)
    (f tx ty n : Nat) (ps : List PatchEntry) : (spoilPatch f tx ty n ps).map k = ps.map k := by
  rw [spoilPatch, List.map_map]
  refine List.map_congr_left fun e _ => ?_
  rw [Function.comp_apply]
  split
  · exact hk e
  · rfl

/-- An entry SPOILT and its tile recounted (R73, R77). -/
theorem TablesSafe.raiseSpoilt {s : State} (h : TablesSafe s) (f tx ty n : Nat) :
    TablesSafe (raiseSpoilt f tx ty n s) := by
  have htiles := map_spoilPatch (k := PatchEntry.tile) (fun _ => rfl) f tx ty n s.patches
  have hslots := map_spoilPatch (k := PatchEntry.slot) (fun _ => rfl) f tx ty n s.patches
  have hother {t : State} (ht : t.patches = spoilPatch f tx ty n s.patches) {i : Nat} {q : Page} (hi : i ≠ f)
      (hq : s.page i = some q) : q.damaged = damagedOf t i (allTiles q.tw q.th) q := by
    rw [h.damage i q hq]
    refine (damagedOf_core rfl fun x y => ?_).symm
    rw [ht, findPatch_spoilPatch_other (fun hs => hi hs.1)]
  cases hp : s.page f with
  | none =>
    have e : Machine.raiseSpoilt f tx ty n s = { s with patches := spoilPatch f tx ty n s.patches } :=
      modPage_of_none (s := { s with patches := spoilPatch f tx ty n s.patches }) hp _
    rw [e]
    refine h.of_entries htiles hslots rfl rfl rfl (fun i p hi hc => ⟨p, hi, hc⟩) fun i q hq => ?_
    refine hother rfl (fun hi => ?_) hq
    rw [hi] at hq
    cases hp.symm.trans hq
  | some p =>
    let t : State := { s with patches := spoilPatch f tx ty n s.patches }
    have e : Machine.raiseSpoilt f tx ty n s = setPage f (some { p with
        damaged := p.damaged + damagedOf t f [(tx, ty)] p - damagedOf s f [(tx, ty)] p }) t := by
      change Machine.recount f [(tx, ty)] s t = _
      rw [Machine.recount, modPage_eq (s := t) hp, damagedAmong_eq hp, damagedAmong_eq (s := t) hp]
      rfl
    rw [e]
    have hlt : f < t.pages.length := page_lt hp
    refine h.of_entries htiles hslots rfl rfl rfl (fun i q hq hc => ?_) fun i q hq => ?_
    · by_cases hi : i = f
      · subst hi
        obtain rfl := Option.some.inj (hp.symm.trans hq)
        exact ⟨_, page_setPage _ t hlt, hc⟩
      · exact ⟨q, (page_setPage_ne _ t hi).trans hq, hc⟩
    · by_cases hi : i = f
      · subst hi
        obtain rfl := Option.some.inj ((page_setPage _ t hlt).symm.trans hq)
        refine (count_moved (s := s) (t := t) (q := p) (List.nodup_singleton _) rfl rfl (h.damage i p hp) ?_).trans ?_
        · intro x y _ hxy
          refine tileDamaged_congr rfl (findPatch_spoilPatch_other (fun hs => hxy ?_) n s.patches)
          rw [hs.2.1, hs.2.2]
          exact List.mem_singleton_self _
        · rfl
      · exact hother rfl hi ((page_setPage_ne _ t hi).symm.trans hq)

end Sys2Proof.Machine
end

section
/-! ## Pages made and purged, slots taken and settled: the tables stay safe -/

namespace Sys2Proof.Machine

/-! ### Pages made and purged -/

/-- A FREE frame's page has no entry (R66, R68). -/
theorem TablesSafe.findPatch_free {s : State} (h : TablesSafe s) {f : Nat} (hf : s.page f = none) (x y : Nat) :
    findPatch s.patches f x y = none := by
  cases he : findPatch s.patches f x y with
  | none => rfl
  | some e =>
    obtain ⟨p, hp, -⟩ := h.closed e (List.mem_of_find?_eq_some he)
    rw [(findPatch_tile he).1, hf] at hp
    cases hp

/-- A page without damage in a FREE frame (R2). -/
theorem TablesSafe.setPage_new {s : State} (h : TablesSafe s) {f : Nat} {p : Page} (hf : s.page f = none)
    (hp : p.undamaged) : TablesSafe (setPage f (some p) s) := by
  by_cases hlt : f < s.pages.length
  · refine h.of_entries rfl rfl rfl rfl rfl (fun i q hq hc => ⟨q, ?_, hc⟩) fun i q hq => ?_
    · refine (page_setPage_ne _ s fun hi => ?_).trans hq
      rw [hi, hf] at hq
      cases hq
    · by_cases hi : i = f
      · subst hi
        obtain rfl := Option.some.inj ((page_setPage _ s hlt).symm.trans hq)
        rw [hp.1, eq_comm, damagedOf, List.countP_eq_zero]
        intro t _
        obtain ⟨hstrips, hflags⟩ := hp.2 t.1 t.2
        simp [tileDamaged, h.findPatch_free hf, hstrips, hflags]
      · exact h.damage i q ((page_setPage_ne _ s hi).symm.trans hq)
  · have e : setPage f (some p) s = s := by
      rw [setPage, List.set_eq_of_length_le (by omega)]
    rwa [e]

/-- The slots in use are bounded where they are named (R60, R67). -/
theorem slotsInUse_le {slots : List Nat} {ps : List PatchEntry} {d : Option Nat} (hn : slots.Nodup)
    (h : ∀ n ∈ slots, (∃ e ∈ ps, e.slot = n) ∨ d = some n) : slots.length ≤ ps.length + 1 := by
  have hsub : slots ⊆ ps.map PatchEntry.slot ++ d.toList := fun n hm => by
    rcases h n hm with ⟨e, he, rfl⟩ | rfl
    · exact List.mem_append_left _ (List.mem_map_of_mem he)
    · exact List.mem_append_right _ (by simp)
  have hlen := (hn.subperm hsub).length_le
  have hd : d.toList.length ≤ 1 := by cases d <;> simp
  rw [List.length_append, List.length_map] at hlen
  omega

theorem findPatch_filter_frame {ps : List PatchEntry} {f i : Nat} (hi : i ≠ f) (x y : Nat) :
    findPatch (ps.filter fun e => e.frame != f) i x y = findPatch ps i x y := by
  rw [findPatch, findPatch, List.find?_filter]
  congr 1
  funext e
  by_cases he : e.frame = i
  · simp [he, hi, beq_eq_decide]
  · simp [he]

/-- Entries that name one slot are one. -/
theorem TablesSafe.eq_of_slot {s : State} (h : TablesSafe s) {d e : PatchEntry} (hd : d ∈ s.patches) (he : e ∈ s.patches)
    (hs : d.slot = e.slot) : d = e := List.inj_on_of_nodup_map h.slots hd he hs

theorem TablesSafe.eq_of_tile {s : State} (h : TablesSafe s) {d e : PatchEntry} (hd : d ∈ s.patches) (he : e ∈ s.patches)
    (ht : d.tile = e.tile) : d = e := List.inj_on_of_nodup_map h.tiles hd he ht

/-- The slots in use after a purge are those the entries left name, and that of a remake being decoded (R19, R60). -/
theorem TablesSafe.mem_slots_withoutPage {s : State} (h : TablesSafe s) (f n : Nat) :
    n ∈ (s.withoutPage f).slotsInUse ↔ (∃ e ∈ (s.withoutPage f).patches, e.slot = n) ∨ s.decodingSlot = some n := by
  have hmem {e : PatchEntry} : e ∈ (s.withoutPage f).patches ↔ e ∈ s.patches ∧ e.frame ≠ f := by
    simp [State.withoutPage]
  have hslot : n ∈ (s.withoutPage f).slotsInUse ↔
      n ∈ s.slotsInUse ∧ ∀ e ∈ s.patches, e.frame = f → e.slot ≠ n := by
    simp [State.withoutPage]
  rw [hslot]
  constructor
  · rintro ⟨hn, hnot⟩
    refine ((h.named n).1 hn).imp_left fun ⟨e, he, hen⟩ => ⟨e, hmem.2 ⟨he, fun hf => hnot e he hf hen⟩, hen⟩
  · rintro (⟨e, he, rfl⟩ | hd)
    · obtain ⟨he, hf⟩ := hmem.1 he
      refine ⟨(h.named _).2 (.inl ⟨e, he, rfl⟩), fun d hd hdf hds => hf ?_⟩
      rw [← h.eq_of_slot hd he hds, hdf]
    · exact ⟨(h.named n).2 (.inr hd), fun e he _ => h.apart n hd e he⟩

/-- A page purged that is not the Unpacker's (R19, R68). -/
theorem TablesSafe.withoutPage {s : State} (h : TablesSafe s) {f : Nat} (hu : s.unpackerPage ≠ some f) :
    TablesSafe (s.withoutPage f) := by
  have hpage {i : Nat} (hi : i ≠ f) : (s.withoutPage f).page i = s.page i := page_setPage_ne none s hi
  have hgone {i : Nat} {q : Page} (hq : (s.withoutPage f).page i = some q) : i ≠ f := fun hi => by
    subst hi
    rw [show (s.withoutPage i).page i = (setPage i none s).page i from rfl] at hq
    by_cases hlt : i < s.pages.length
    · rw [page_setPage _ _ hlt] at hq
      cases hq
    · exact hlt (List.length_set (as := s.pages) ▸ page_lt hq)
  have hmem {e : PatchEntry} : e ∈ (s.withoutPage f).patches ↔ e ∈ s.patches ∧ e.frame ≠ f := by
    simp [State.withoutPage]
  have hsub : (s.withoutPage f).patches.Sublist s.patches := List.filter_sublist
  have hother {i : Nat} (hi : i ≠ f) (x y : Nat) :
      findPatch (s.withoutPage f).patches i x y = findPatch s.patches i x y := findPatch_filter_frame hi x y
  exact {
    tiles := h.tiles.sublist (hsub.map _)
    slots := h.slots.sublist (hsub.map _)
    entries := hsub.length_le.trans h.entries
    closed := fun e he => by
      obtain ⟨he, hf⟩ := hmem.1 he
      rw [hpage hf]
      exact h.closed e he
    inUse := h.inUse.filter _
    named := h.mem_slots_withoutPage f
    apart := fun n hn e he => h.apart n hn e (hmem.1 he).1
    inUseBound := slotsInUse_le (h.inUse.filter _) fun n hn => (h.mem_slots_withoutPage f n).1 hn
    remake := fun g i hi hg => by
      rw [hpage fun hif => hu (hif ▸ hi)]
      exact h.remake g i hi hg
    place := fun g i n hi hg => by
      rw [hother fun hif => hu (hif ▸ hi)]
      exact (h.place g i n hi hg).imp_right hsub.length_le.trans_lt
    damage := fun i q hq => by
      have hi := hgone hq
      rw [h.damage i q ((hpage hi).symm.trans hq)]
      exact (damagedOf_core rfl (hother hi)).symm }

/-! ### Slots taken and given back -/

theorem insertSorted_perm {n : Nat} {ns : List Nat} (h : n ∉ ns) : (insertSorted n ns).Perm (n :: ns) := by
  induction ns with
  | nil => exact .refl _
  | cons m ms ih =>
    obtain ⟨hne, hm⟩ := not_or.1 (mt List.mem_cons.2 h)
    unfold insertSorted
    split
    · exact .refl _
    · exact ((ih hm).cons m).trans (.swap n m ms)

/-- The slot the pool gives out is not in use (R65). -/
theorem nextSlot_not_mem {s : State} {n : Nat} (h : s.nextSlot = some n) : n ∉ s.slotsInUse := by
  obtain ⟨_, _, _, hn, _⟩ := firstFree_eq_some h
  exact hn

/-- A page on which a remake is at work is CLOSED (R46). -/
theorem TablesSafe.closed_of_remaking {s : State} (h : TablesSafe s) {f : Nat} (hf : s.unpackerPage = some f)
    (hu : s.unpacker.remaking) : ∃ p, s.page f = some p ∧ p.state = .closed := by
  obtain ⟨g, hg⟩ := hu
  exact h.remake g f hf hg

/-- A remake takes its slot (R60). -/
theorem TablesSafe.beginsDecoding {s : State} (h : TablesSafe s) {f : Nat} {g : Segment} {n : Nat}
    (hu : s.unpacker.remaking) (hd : ∀ g n, s.unpacker ≠ .working g (.decoding n)) (hf : s.unpackerPage = some f)
    (hr : remakeSlot s f g.header.locator g.header.arg = some n) : TablesSafe (s.beginsDecoding g n) := by
  obtain ⟨hplace, hnext⟩ := remakeSlot_eq_some hr
  have hfree := nextSlot_not_mem hnext
  have hnone := decodingSlot_eq_none hd
  have hnew : (s.beginsDecoding g n).decodingSlot = some n := rfl
  have hnamed (m : Nat) : m ∈ insertSorted n s.slotsInUse ↔ (∃ e ∈ s.patches, e.slot = m) ∨ some n = some m := by
    rw [mem_insertSorted, h.named, hnone, Option.some_inj, eq_comm (a := n)]
    simp [or_comm]
  have hinUse := (insertSorted_perm hfree).nodup_iff.2 (List.nodup_cons.2 ⟨hfree, h.inUse⟩)
  exact { h with
    inUse := hinUse
    named := hnamed
    apart := fun m hm e he hem => by
      obtain rfl := Option.some.inj (hnew.symm.trans hm)
      exact hfree ((h.named _).2 (.inl ⟨e, he, hem⟩))
    inUseBound := slotsInUse_le hinUse fun m hm => (hnamed m).1 hm
    remake := fun g' i hi _ => h.closed_of_remaking hi hu
    place := fun g' i m hi hg => by
      obtain ⟨rfl, -⟩ := Unpacker.working.inj hg
      obtain rfl := Option.some.inj (hf.symm.trans hi)
      exact hplace }

/-- A remake that fails gives its slot back (R61). -/
theorem TablesSafe.undecoded {s : State} (h : TablesSafe s) {g : Segment} {n : Nat}
    (hu : s.unpacker = .working g (.decoding n)) : TablesSafe (freeSlots [n] s).rested := by
  have hdec := decodingSlot_eq_some.2 ⟨g, hu⟩
  rw [freeSlots_one]
  have hnamed (m : Nat) : m ∈ s.slotsInUse.filter (· != n) ↔ (∃ e ∈ s.patches, e.slot = m) ∨ none = some m := by
    rw [List.mem_filter, h.named, hdec]
    constructor
    · rintro ⟨he | hm, hne⟩
      · exact .inl he
      · exact absurd (Option.some.inj hm).symm (by simpa using hne)
    · rintro (⟨e, he, rfl⟩ | hm)
      · exact ⟨.inl ⟨e, he, rfl⟩, by simpa using h.apart n hdec e he⟩
      · cases hm
  exact { h with
    inUse := h.inUse.filter _
    named := hnamed
    apart := nofun
    inUseBound := slotsInUse_le (h.inUse.filter _) fun m hm => (hnamed m).1 hm
    remake := nofun
    place := nofun }

/-! ### A remake's success -/

/-- The entries after a remake: the tile's, which names the new slot, and those of the other tiles (R67). -/
theorem mem_putPatch {f tx ty n : Nat} {ps : List PatchEntry} {e : PatchEntry} :
    e ∈ putPatch f tx ty n ps ↔ e = ⟨f, tx, ty, n, false⟩ ∨ e ∈ ps ∧ e.tile ≠ (f, tx, ty) := by
  have htile (d : PatchEntry) : d.tile = (f, tx, ty) ↔ d.frame = f ∧ d.tx = tx ∧ d.ty = ty := by
    simp [PatchEntry.tile]
  rw [ne_eq, htile]
  unfold putPatch
  split
  · next d hd =>
    have hmem := List.mem_of_find?_eq_some hd
    have hdt := findPatch_tile hd
    rw [List.mem_map]
    constructor
    · rintro ⟨a, ha, rfl⟩
      by_cases hat : a.frame = f ∧ a.tx = tx ∧ a.ty = ty
      · obtain ⟨rfl, rfl, rfl⟩ := hat
        exact .inl (by simp)
      · rw [if_neg hat]
        exact .inr ⟨ha, hat⟩
    · rintro (rfl | ⟨he, hne⟩)
      · refine ⟨d, hmem, ?_⟩
        obtain ⟨rfl, rfl, rfl⟩ := hdt
        simp
      · exact ⟨e, he, if_neg hne⟩
  · next hnone =>
    rw [List.mem_append, List.mem_singleton, or_comm]
    refine or_congr_right ⟨fun he => ⟨he, fun hne => ?_⟩, And.left⟩
    exact List.find?_eq_none.1 hnone e he (by simpa [and_assoc] using hne)

/-- The tiles after a remake: the same, with the remake's if it had no entry. -/
theorem map_tile_putPatch (f tx ty n : Nat) (ps : List PatchEntry) : (putPatch f tx ty n ps).map PatchEntry.tile =
    if (findPatch ps f tx ty).isSome then ps.map PatchEntry.tile else ps.map PatchEntry.tile ++ [(f, tx, ty)] := by
  unfold putPatch
  split
  · next hd =>
    rw [if_pos (by rw [hd]; rfl), List.map_map]
    refine List.map_congr_left fun e _ => ?_
    simp only [Function.comp_apply]
    split <;> rfl
  · next hd =>
    rw [hd, List.map_append]
    rfl

theorem nodup_tiles_putPatch {ps : List PatchEntry} (h : (ps.map PatchEntry.tile).Nodup) (f tx ty n : Nat) :
    ((putPatch f tx ty n ps).map PatchEntry.tile).Nodup := by
  rw [map_tile_putPatch]
  split
  · exact h
  · next hs =>
    rw [findPatch_isSome_iff] at hs
    exact List.nodup_append.2 ⟨h, List.nodup_singleton _, fun a ha b hb hab =>
      hs (List.mem_singleton.1 hb ▸ hab ▸ ha)⟩

theorem length_putPatch_le {ps : List PatchEntry} {f tx ty : Nat} (hl : ps.length ≤ 4000)
    (h : (findPatch ps f tx ty).isSome ∨ ps.length < 4000) (n : Nat) : (putPatch f tx ty n ps).length ≤ 4000 := by
  rw [← List.length_map (f := PatchEntry.tile), map_tile_putPatch]
  split
  · rwa [List.length_map]
  · next hs =>
    have := h.resolve_left hs
    simp
    omega

/-- A remake's entry made and its slots settled, its page's count moved by the one tile (R61, R67, R77). -/
theorem remade_eq {s : State} {f : Nat} {p : Page} (hp : s.page f = some p) (tx ty n : Nat) :
    let u : State := { s with
      patches := putPatch f tx ty n s.patches, slotsInUse := slotsWithoutOld f tx ty s.patches s.slotsInUse }
    let q : Page := { p with version := nextVersion p.version }
    s.remade f tx ty n =
      setPage f (some { q with
        damaged := p.damaged + damagedOf u f [(tx, ty)] q - damagedOf s f [(tx, ty)] p }) u := by
  intro u q
  have hu : u.page f = some p := hp
  have hafter : damagedAmong (modPage f (fun p => { p with version := nextVersion p.version }) u) f [(tx, ty)] =
      damagedOf u f [(tx, ty)] q := by
    rw [damagedAmong_eq (page_modPage _ hu), damagedOf, damagedOf, modPage_patches]
  unfold State.remade
  rw [freeOld_eq]
  change recount f [(tx, ty)] s (modPage f _ u) = _
  rw [recount, modPage_modPage, modPage_eq hu, hafter, damagedAmong_eq hp]
  rfl

theorem nodup_slotsWithoutOld {slots : List Nat} (h : slots.Nodup) (f tx ty : Nat) (ps : List PatchEntry) :
    (slotsWithoutOld f tx ty ps slots).Nodup := by
  unfold slotsWithoutOld
  split
  · exact h.filter _
  · exact h

theorem tile_of_findPatch {ps : List PatchEntry} {f tx ty : Nat} {e : PatchEntry} (h : findPatch ps f tx ty = some e) :
    e ∈ ps ∧ e.tile = (f, tx, ty) := by
  obtain ⟨hf, hx, hy⟩ := findPatch_tile h
  exact ⟨List.mem_of_find?_eq_some h, by rw [PatchEntry.tile, hf, hx, hy]⟩

/-- The slots in use after a remake are those the entries name: the tile's is the one decoded into, in place of its old
one (R60, R67). -/
theorem TablesSafe.mem_slots_remade {s : State} (h : TablesSafe s) {n : Nat} (hdec : s.decodingSlot = some n)
    (f tx ty m : Nat) :
    m ∈ slotsWithoutOld f tx ty s.patches s.slotsInUse ↔ ∃ e ∈ putPatch f tx ty n s.patches, e.slot = m := by
  rw [mem_slotsWithoutOld, h.named, hdec]
  simp only [mem_putPatch]
  constructor
  · rintro ⟨⟨e, he, rfl⟩ | hm, hnot⟩
    · refine ⟨e, .inr ⟨he, fun ht => ?_⟩, rfl⟩
      obtain ⟨d, hd⟩ := Option.isSome_iff_exists.1
        (findPatch_isSome_iff.2 (ht ▸ List.mem_map_of_mem (f := PatchEntry.tile) he))
      obtain ⟨hds, hdt⟩ := tile_of_findPatch hd
      exact hnot d hd (congrArg PatchEntry.slot (h.eq_of_tile he hds (ht.trans hdt.symm)))
    · exact ⟨_, .inl rfl, Option.some.inj hm⟩
  · rintro ⟨e, rfl | ⟨he, ht⟩, rfl⟩
    · exact ⟨.inr rfl, fun e he hen => h.apart n hdec e (tile_of_findPatch he).1 hen.symm⟩
    · refine ⟨.inl ⟨e, he, rfl⟩, fun d hd hs => ht ?_⟩
      obtain ⟨hds, hdt⟩ := tile_of_findPatch hd
      rw [h.eq_of_slot he hds hs, hdt]

/-- No two entries name one slot after a remake (R67). -/
theorem TablesSafe.nodup_slots_putPatch {s : State} (h : TablesSafe s) {n : Nat} (hdec : s.decodingSlot = some n)
    (f tx ty : Nat) : ((putPatch f tx ty n s.patches).map PatchEntry.slot).Nodup := by
  refine (nodup_tiles_putPatch h.tiles f tx ty n).of_map.map_on fun d hd e he hs => ?_
  rcases mem_putPatch.1 hd with rfl | ⟨hd, -⟩ <;> rcases mem_putPatch.1 he with rfl | ⟨he, -⟩
  · rfl
  · exact absurd hs.symm (h.apart n hdec e he)
  · exact absurd hs (h.apart n hdec d hd)
  · exact h.eq_of_slot hd he hs

theorem TablesSafe.remade {s : State} (h : TablesSafe s) {f : Nat} {g : Segment} {n : Nat}
    (hu : s.unpacker = .working g (.decoding n)) (hf : s.unpackerPage = some f) :
    TablesSafe (s.remade f g.header.locator g.header.arg n).rested := by
  have hdec := decodingSlot_eq_some.2 ⟨g, hu⟩
  have hplace := h.place g f n hf hu
  obtain ⟨p, hp, hclosed⟩ := h.closed_of_remaking hf ⟨g, .inr (.inl ⟨n, hu⟩)⟩
  rw [remade_eq hp]
  generalize g.header.locator = tx at hplace ⊢
  generalize g.header.arg = ty at hplace ⊢
  let u : State := { s with
    patches := putPatch f tx ty n s.patches, slotsInUse := slotsWithoutOld f tx ty s.patches s.slotsInUse }
  let q : Page := { p with version := nextVersion p.version }
  let r : Page := { q with damaged := p.damaged + damagedOf u f [(tx, ty)] q - damagedOf s f [(tx, ty)] p }
  change TablesSafe (setPage f (some r) u).rested
  have hlt : f < u.pages.length := page_lt hp
  have hsame : (setPage f (some r) u).page f = some r := page_setPage _ _ hlt
  have hne {i : Nat} (hi : i ≠ f) : (setPage f (some r) u).page i = s.page i := page_setPage_ne _ _ hi
  have hinUse : u.slotsInUse.Nodup := nodup_slotsWithoutOld h.inUse f tx ty s.patches
  have hnamed := h.mem_slots_remade hdec f tx ty
  exact {
    tiles := nodup_tiles_putPatch h.tiles f tx ty n
    slots := h.nodup_slots_putPatch hdec f tx ty
    entries := length_putPatch_le h.entries hplace n
    closed := fun e he => by
      rcases mem_putPatch.1 he with rfl | ⟨he, -⟩
      · exact ⟨r, hsame, hclosed⟩
      · by_cases hi : e.frame = f
        · rw [hi]
          exact ⟨r, hsame, hclosed⟩
        · obtain ⟨q, hq, hc⟩ := h.closed e he
          exact ⟨q, (hne hi).trans hq, hc⟩
    inUse := hinUse
    named := fun m => (hnamed m).trans (or_iff_left nofun).symm
    apart := nofun
    inUseBound := slotsInUse_le (d := none) hinUse fun m hm => .inl ((hnamed m).1 hm)
    remake := nofun
    place := nofun
    damage := fun i v hv => by
      change (setPage f (some r) u).page i = some v at hv
      by_cases hi : i = f
      · subst hi
        obtain rfl := Option.some.inj (hsame.symm.trans hv)
        refine (count_moved (s := s) (t := u) (q := q) (List.nodup_singleton _) rfl rfl (h.damage i p hp) ?_).trans ?_
        · intro x y _ hxy
          refine tileDamaged_congr rfl (findPatch_putPatch_other (fun hs => hxy ?_) n s.patches)
          rw [hs.2.1, hs.2.2]
          exact List.mem_singleton_self _
        · rfl
      · rw [h.damage i v ((hne hi).symm.trans hv)]
        exact (damagedOf_core (s := s) (t := u) (p := v) (q := v) rfl fun x y =>
          findPatch_putPatch_other (fun hs => hi hs.1) n s.patches).symm }

/-! ### Every change -/

/-- The Unpacker's work changed, on no remake whose payload is being decoded (R46, R60). -/
theorem TablesSafe.work {s : State} (h : TablesSafe s) {u : Unpacker} {o : Option Nat}
    (hd : ∀ g n, s.unpacker ≠ .working g (.decoding n)) (hu : ∀ g n, u ≠ .working g (.decoding n))
    (hr : u.remaking → ∀ f, o = some f →
      (∃ p, s.page f = some p ∧ p.state = .closed) ∨ s.unpacker.remaking ∧ s.unpackerPage = some f) :
    TablesSafe { s with unpacker := u, unpackerPage := o } := by
  have hold := decodingSlot_eq_none hd
  have hnew : State.decodingSlot { s with unpacker := u, unpackerPage := o } = none := decodingSlot_eq_none hu
  exact { h with
    named := fun n => by
      rw [hnew, ← hold]
      exact h.named n
    apart := fun n hn => by
      rw [hnew] at hn
      cases hn
    remake := fun g f hf hg => (hr ⟨g, hg⟩ f hf).elim id fun ⟨hs, hsf⟩ => h.closed_of_remaking hsf hs
    place := fun g f n _ hg => absurd hg (hu g n) }

theorem PortMoves.tablesSafe {s t : State} (h : PortMoves s t) (hs : TablesSafe s) : TablesSafe t := by
  rw [h.state]
  exact hs.congr rfl rfl rfl rfl rfl

theorem tablesSafe_lanesKeep : LanesKeep TablesSafe where
  same e h := h.congr (congrArg State.patches e :) (congrArg State.slotsInUse e :) (congrArg State.unpacker e :)
    (congrArg State.unpackerPage e :) (congrArg State.pages e :)
  tells r h := h.congr (by simp) (by simp) (by simp) (by simp) (by simp)
  memory _ _ h := h.congr rfl rfl rfl rfl rfl
  lane _ _ _ h := h.congr rfl rfl rfl rfl rfl
  page f _ hg h := h.modPage_kin f fun p => (hg p).toKin

theorem tablesSafe_changesKeep : ChangesKeep TablesSafe where
  toLanesKeep := tablesSafe_lanesKeep
  reset := reset_tablesSafe
  warm {s} _ := by
    rw [warm_eq]
    exact reset_tablesSafe.congr rfl rfl rfl rfl rfl
  shorter _ _ h := h.congr rfl rfl rfl rfl rfl
  record r hr h := by
    obtain ⟨m, b, -, e⟩ := writeRecord_changes r hr
    rw [e]
    exact h.congr rfl rfl rfl rfl rfl
  watched be d h := by
    rw [watchConsumed_eq]
    exact ite_prop (h.congr rfl rfl rfl rfl rfl) h
  orders _ _ h := h.congr rfl rfl rfl rfl rfl
  lander _ _ h := h.congr rfl rfl rfl rfl rfl
  admits _ _ _ h := h.congr rfl rfl rfl rfl rfl
  lands _ _ h := h.congr rfl rfl rfl rfl rfl
  unwinds _ h := by
    rw [unwindAdmission_eq]
    exact h.congr rfl rfl rfl rfl rfl
  entries _ _ h := h.congr rfl rfl rfl rfl rfl
  reclaims h := by
    rw [reclaim_eq]
    exact h.congr rfl rfl rfl rfl rfl
  flags f _ _ hn hg _ h := h.recount f hn hg
  photos f _ hg _ h := h.modPage_kin f hg
  spoils f tx ty n h := h.raiseSpoilt f tx ty n
  creates _ _ hf hp h := h.setPage_new hf hp
  purges _ hu h := h.withoutPage hu
  slot hu hd hf hr _ h := h.beginsDecoding hu hd hf hr
  undecodes hu _ h := h.undecoded hu
  remakes hu hf _ h := h.remade hu hf
  work _ _ hd _ hu hr h := h.work hd hu hr
  reading _ _ _ h := h.congr rfl rfl rfl rfl rfl
  fewer _ _ h := h.congr rfl rfl rfl rfl rfl
  starts _ h := h.congr rfl rfl rfl rfl rfl
  readsOn h := h.congr (by simp) (by simp) (by simp) (by simp) (by simp)
  judged _ h := h.congr rfl rfl rfl rfl rfl
  grant {s} h := (portGrant_moves s).1.tablesSafe h
  ticks {s} h := ((portRuns_moves s).tablesSafe h).congr rfl rfl rfl rfl rfl

end Sys2Proof.Machine
end

section
/-! ## Requests that wait at the memory port -/

namespace Sys2Proof.Machine

/-! ### What the Unpacker has to read -/

/-- Where the Unpacker is to read a segment's payload next, it is to read it where its page's photos are the same. -/
theorem payloadNext_kept {s t : State} {g : Segment} (hup : t.unpackerPage = s.unpackerPage)
    (hp : ∀ f p, s.unpackerPage = some f → s.page f = some p → ∃ q, t.page f = some q ∧ q.photos = p.photos)
    (h : payloadNext s g = true) : payloadNext t g = true := by
  unfold payloadNext at h ⊢
  split at h
  · next p hb =>
    obtain ⟨f, hf, hfp⟩ := Option.bind_eq_some_iff.1 hb
    obtain ⟨q, hq, hphotos⟩ := hp f p hf hfp
    have hqb : t.unpackerPage.bind t.page = some q := by rw [hup, hf, Option.bind_some, hq]
    rw [hqb]
    simpa only [Page.partRecord, Page.photo, hphotos] using h
  · cases h

/-- The Unpacker has to read what it had, where its work, its reading and its page's photos are the same (R43, R44). -/
theorem unpackerReads_kept {s t : State} (hu : t.unpacker = s.unpacker) (hr : t.payloadRead.words = s.payloadRead.words)
    (hup : t.unpackerPage = s.unpackerPage)
    (hp : ∀ f p, s.unpackerPage = some f → s.page f = some p → ∃ q, t.page f = some q ∧ q.photos = p.photos)
    (h : unpackerReads s = true) : unpackerReads t = true := by
  have hnext {g : Segment} : payloadNext s g = true → payloadNext t g = true := payloadNext_kept hup hp
  have hand : payloadInHand s = none ∨ payloadInHand t = payloadInHand s := by
    unfold payloadInHand
    rw [hu]
    split
    case h_3 g _ =>
      by_cases hg : payloadNext s g = true
      · exact .inr (by rw [if_pos hg, if_pos (hnext hg)])
      · exact .inl (if_neg hg)
    all_goals exact .inr rfl
  rcases hand with hnone | hand
  · simp [unpackerReads, payloadWords, hnone] at h
  · rwa [unpackerReads, payloadWords, hand, hr]

theorem WaitingSafe.not_mem_of_unread {s : State} (h : WaitingSafe s) (hr : s.unread) : .unpacker ∉ s.waiting :=
  fun hm => Bool.false_ne_true ((hr hm).symm.trans (h.unpacker hm))

/-! ### Changes beside the requests -/

theorem WaitingSafe.fewer {s : State} (h : WaitingSafe s) {w : List Requester} (hw : w.Sublist s.waiting) :
    WaitingSafe { s with waiting := w } :=
  { h with
    once := h.once.sublist hw
    lander := fun hm => h.lander (hw.subset hm)
    unpacker := fun hm => h.unpacker (hw.subset hm)
    loader := fun hm => h.loader (hw.subset hm) }

/-- A change that keeps what requests wait, what the Unpacker and the profile loader are to read, and rows that ask for
no more than they may. -/
theorem WaitingSafe.of_pages {s t : State} (h : WaitingSafe s) (hw : t.waiting = s.waiting) (hl : t.loader = s.loader)
    (hu : t.unpacker = s.unpacker) (hup : t.unpackerPage = s.unpackerPage) (hr : t.payloadRead = s.payloadRead)
    (hp : .unpacker ∉ s.waiting ∨
      ∀ f p, s.unpackerPage = some f → s.page f = some p → ∃ q, t.page f = some q ∧ q.photos = p.photos)
    (hrows : ∀ l, (t.lane l).rowsWithin) : WaitingSafe t where
  once := hw ▸ h.once
  lander := hw ▸ h.lander
  unpacker hm := by
    rw [hw] at hm
    exact hp.elim (absurd hm) fun hp => unpackerReads_kept hu (congrArg _ hr) hup hp (h.unpacker hm)
  loader hm := hl ▸ h.loader (hw ▸ hm)
  payload := hr ▸ h.payload
  rows := hrows

/-- A change of nothing the requests go by. -/
theorem WaitingSafe.congr {s t : State} (h : WaitingSafe s) (hw : t.waiting = s.waiting) (hl : t.loader = s.loader)
    (hu : t.unpacker = s.unpacker) (hup : t.unpackerPage = s.unpackerPage) (hr : t.payloadRead = s.payloadRead)
    (hp : t.pages = s.pages) (hlanes : t.lanes = s.lanes) : WaitingSafe t :=
  h.of_pages hw hl hu hup hr (.inr fun f p _ hf => ⟨p, by rwa [State.page, hp], rfl⟩)
    fun l => lane_of_lanes hlanes l ▸ h.rows l

theorem WaitingSafe.modPage {s : State} (h : WaitingSafe s) (f : Nat) {g : Page → Page}
    (hg : .unpacker ∉ s.waiting ∨ ∀ p, (g p).photos = p.photos) : WaitingSafe (modPage f g s) := by
  refine h.of_pages (by simp) (by simp) (by simp) (by simp) (by simp) (hg.imp_right fun hg i p _ hp => ?_) fun l => ?_
  · by_cases hi : i = f
    · subst hi
      exact ⟨_, page_modPage g hp, hg p⟩
    · exact ⟨p, (page_modPage_ne g s hi).trans hp, rfl⟩
  · rw [lane_of_lanes (modPage_lanes f g s)]
    exact h.rows l

theorem WaitingSafe.recount {t : State} (h : WaitingSafe t) (f : Nat) (ts : List (Nat × Nat)) (s : State) :
    WaitingSafe (recount f ts s t) := h.modPage f (.inr fun _ => rfl)

/-- A change of a frame that is not the Unpacker's. -/
theorem WaitingSafe.setPage {s : State} (h : WaitingSafe s) {f : Nat} {o : Option Page}
    (hf : s.unpackerPage = some f → s.page f = none) : WaitingSafe (setPage f o s) := by
  refine h.of_pages rfl rfl rfl rfl rfl (.inr fun i p hi hp => ⟨p, ?_, rfl⟩) h.rows
  refine (page_setPage_ne o s fun e => ?_).trans hp
  subst e
  rw [hf hi] at hp
  cases hp

theorem WaitingSafe.modLane {s : State} (h : WaitingSafe s) (l : LaneId) {g : Lane → Lane}
    (hg : (s.lane l).rowsWithin → (g (s.lane l)).rowsWithin) : WaitingSafe (modLane l g s) := by
  refine h.of_pages rfl rfl rfl rfl rfl (.inr fun _ p _ hp => ⟨p, hp, rfl⟩) fun k => ?_
  by_cases hk : k = l
  · subst hk
    rw [lane_modLane]
    exact hg (h.rows k)
  · rw [lane_modLane_ne g s hk]
    exact h.rows k

/-- The Unpacker's work changed while no request of its waits. -/
theorem WaitingSafe.work {s : State} (h : WaitingSafe s) (hw : .unpacker ∉ s.waiting) (u : Unpacker) (o : Option Nat) :
    WaitingSafe { s with unpacker := u, unpackerPage := o } :=
  { h with unpacker := fun hm => absurd hm hw }

/-! ### Grants -/

/-- A request that is served waits no more (R156). -/
theorem not_mem_served (r : Requester) (s : State) : r ∉ (s.served r).waiting := by
  simp [State.served]

/-- Rows whose requests are granted ask for nothing (R156). -/
theorem rowsWithin_rowsRead {L : Lane} (h : L.rowsWithin) (s : State) : (L.rowsRead s).rowsWithin := by
  have ctx {c d : Latched} (hd : ∀ w ∈ d.row, w.read.asked ≤ 8) (e : rowGranted s d = c) :
      ∀ w ∈ c.row, w.read.asked ≤ 8 := by
    subst e
    unfold rowGranted
    split
    · intro w hw
      obtain ⟨i, hi, rfl⟩ := List.mem_mapIdx.1 hw
      exact Nat.zero_le 8
    · exact hd
  rintro c (hc | hc)
  · obtain ⟨d, hd, e⟩ := Option.map_eq_some_iff.1 hc
    exact ctx (h d (.inl hd)) e
  · obtain ⟨d, hd, e⟩ := Option.map_eq_some_iff.1 hc
    exact ctx (h d (.inr hd)) e

theorem WaitingSafe.grantLane {s : State} (h : WaitingSafe s) (l : LaneId) : WaitingSafe (grantLane l s) := by
  have hnoted : WaitingSafe (noteGrant l s) :=
    h.congr (by simp) (by simp) (by simp) (by simp) (by simp) (by simp) (by simp)
  have hserved : WaitingSafe ((noteGrant l s).served (.composer l)) := hnoted.fewer List.filter_sublist
  exact hserved.modLane l fun hr => rowsWithin_rowsRead hr s

theorem WaitingSafe.portGrant {s : State} (h : WaitingSafe s) : WaitingSafe (portGrant s) := by
  have hlanes (ls : List LaneId) : WaitingSafe (ls.foldl (fun t l => Machine.grantLane l t) s) := by
    induction ls generalizing s with
    | nil => exact h
    | cons l ls ih => exact ih (h.grantLane l)
  exact (hlanes (lanesFirst s)).fewer List.filter_sublist

theorem WaitingSafe.grantPayload {s : State} (h : WaitingSafe s) : WaitingSafe (grantPayload s) :=
  { h.fewer (w := (s.served .unpacker).waiting) List.filter_sublist with
    unpacker := fun hm => absurd hm (not_mem_served _ s)
    payload := Nat.zero_le 8 }

theorem WaitingSafe.loaderGranted {s : State} (h : WaitingSafe s) : WaitingSafe (loaderGranted s) := by
  have hserved : WaitingSafe (s.served .profileLoader) := h.fewer List.filter_sublist
  unfold Machine.loaderGranted
  split
  · exact hserved
  · split
    · split
      · exact h
      · exact { hserved with loader := fun hm => absurd hm (not_mem_served _ s) }
    · exact hserved

theorem WaitingSafe.grantNext {s : State} (h : WaitingSafe s) : WaitingSafe (grantNext s) := by
  rcases grantNext_cases s with e | ⟨l, -, e⟩ | ⟨-, e⟩ | ⟨-, e⟩
  · rwa [e]
  · exact e ▸ h.grantLane l
  · exact e ▸ h.grantPayload
  · exact e ▸ h.loaderGranted

/-! ### Arrivals -/

/-- A row that makes a request asks for 8 words at most (R156). -/
theorem rowAsks_within {s : State} {c : Latched} (n : Nat) (h : ∀ w ∈ c.row, w.read.asked ≤ 8) :
    ∀ w ∈ (rowAsks s n c).row, w.read.asked ≤ 8 := by
  have hwhole (p : Page) : ∀ w ∈ wholeRow s c p, w.read.asked ≤ 8 := fun w hw => by
    rcases List.mem_append.1 hw with hw | hw
    · exact h w hw
    · obtain ⟨tx, -, rfl⟩ := List.mem_map.1 hw
      exact Nat.zero_le 8
  unfold rowAsks
  split
  · next p hp =>
    intro w hw
    obtain ⟨i, hi, rfl⟩ := List.mem_iff_getElem.1 hw
    rw [List.getElem_modify]
    split
    · exact ask_asked_le _ _ _
    · exact hwhole p _ (List.mem_of_mem_take (List.getElem_mem _))
  · exact h

theorem WaitingSafe.noteAsked {s : State} (h : WaitingSafe s) (r : Requester) (n : Nat) :
    WaitingSafe (noteAsked r n s) := by
  unfold Machine.noteAsked
  split
  · next l =>
    split
    · next c hc =>
      have hctx : (s.lane l).frontCtx = some c := rowInHand_ctx hc
      refine h.modLane l fun hr => ?_
      rintro d (hd | hd)
      · obtain rfl := Option.some.inj hd
        exact rowAsks_within n (hr c (.inl hctx))
      · exact hr d (.inr hd)
    · next c hc =>
      have hctx : (s.lane l).backCtx = some c := rowInHand_ctx hc
      refine h.modLane l fun hr => ?_
      rintro d (hd | hd)
      · exact hr d (.inl hd)
      · obtain rfl := Option.some.inj hd
        exact rowAsks_within n (hr c (.inr hctx))
    · exact h
  · exact { h with
      unpacker := fun hm => unpackerReads_kept rfl rfl rfl (fun _ p _ hp => ⟨p, hp, rfl⟩) (h.unpacker hm)
      payload := ask_asked_le _ _ _ }
  · exact h

/-- A request of the Unpacker's or the profile loader's is made for words to read, and the Lander makes none so (R34,
R44, R156, R162). -/
theorem WaitingSafe.requestArrives {s : State} (h : WaitingSafe s) (r : Requester) (n : Nat) :
    WaitingSafe (requestArrives r n s) := by
  rcases requestArrives_cases r n s with e | ⟨hmay, hnot, e⟩
  · rwa [e]
  rw [e]
  have hasked := h.noteAsked r n
  have hmoves := noteAsked_moves r n s
  have hmem {q : Requester} (hm : q ∈ s.waiting ++ [r]) : q ∈ s.waiting ∨ r = q :=
    (List.mem_append.1 hm).imp_right fun hq => (List.mem_singleton.1 hq).symm
  exact { hasked with
    once := List.nodup_append.2 ⟨h.once, List.nodup_singleton r, fun a ha b hb hab =>
      hnot (List.mem_singleton.1 hb ▸ hab ▸ ha)⟩
    lander := fun hm => by
      rcases hmem hm with hm | rfl
      · exact h.lander hm
      · cases hmay
    unpacker := fun hm => by
      have hreads : unpackerReads s = true := by
        rcases hmem hm with hm | rfl
        · exact h.unpacker hm
        · exact hmay
      refine unpackerReads_kept ?_ (noteAsked_payload r n s).2 ?_ (fun f p _ hp => ⟨p, ?_, rfl⟩) hreads
      · exact (congrArg State.unpacker hmoves.state :)
      · exact (congrArg State.unpackerPage hmoves.state :)
      · exact (congrArg (fun t : State => t.page f) hmoves.state :).trans hp
    loader := fun hm => by
      obtain ⟨-, -, hloader, -⟩ := noteAsked_keeps r n s
      refine hloader.symm ▸ ?_
      rcases hmem hm with hm | rfl
      · exact h.loader hm
      · simpa [State.mayRequest, Option.getD_eq_iff] using hmay }

theorem WaitingSafe.portRuns {s : State} (h : WaitingSafe s) : WaitingSafe (portRuns s) :=
  portRuns_induction h (fun r n _ h => h.requestArrives r n) fun _ h => h.grantNext

/-! ### Every change -/

theorem waitingSafe_lanesKeep : LanesKeep WaitingSafe where
  same e h := h.congr (congrArg State.waiting e :) (congrArg State.loader e :) (congrArg State.unpacker e :)
    (congrArg State.unpackerPage e :) (congrArg State.payloadRead e :) (congrArg State.pages e :)
    (congrArg State.lanes e :)
  tells r h := h.congr (by simp) (by simp) (by simp) (by simp) (by simp) (by simp) (by simp)
  memory _ _ h := h.congr rfl rfl rfl rfl rfl rfl rfl
  lane l _ hg h := h.modLane l hg
  page f _ hg h := h.modPage f (.inr fun p => (hg p).photos)

theorem waitingSafe_changesKeep : ChangesKeep WaitingSafe where
  toLanesKeep := waitingSafe_lanesKeep
  reset := reset_waitingSafe
  warm {s} _ := by
    rw [warm_eq]
    exact { reset_waitingSafe with
      unpacker := nofun
      loader := nofun }
  shorter _ _ h := h.congr rfl rfl rfl rfl rfl rfl rfl
  record r hr h := by
    obtain ⟨m, b, -, e⟩ := writeRecord_changes r hr
    rw [e]
    exact h.congr rfl rfl rfl rfl rfl rfl rfl
  watched be d h := by
    rw [watchConsumed_eq]
    exact ite_prop (h.congr rfl rfl rfl rfl rfl rfl rfl) h
  orders _ _ h := h.congr rfl rfl rfl rfl rfl rfl rfl
  lander _ _ h := h.congr rfl rfl rfl rfl rfl rfl rfl
  admits _ _ _ h := h.congr rfl rfl rfl rfl rfl rfl rfl
  lands _ _ h := h.congr rfl rfl rfl rfl rfl rfl rfl
  unwinds _ h := by
    rw [unwindAdmission_eq]
    exact h.congr rfl rfl rfl rfl rfl rfl rfl
  entries _ _ h := h.congr rfl rfl rfl rfl rfl rfl rfl
  reclaims h := by
    rw [reclaim_eq]
    exact h.congr rfl rfl rfl rfl rfl rfl rfl
  flags f _ _ _ _ hg h := (h.modPage f (hg.imp_left h.not_mem_of_unread)).recount f _ _
  photos f _ _ hr h := h.modPage f (.inl (h.not_mem_of_unread hr))
  spoils {s} f tx ty n h :=
    (h.congr (t := { s with patches := spoilPatch f tx ty n s.patches }) rfl rfl rfl rfl rfl rfl rfl).recount f _ _
  creates _ _ hf _ h := h.setPage fun _ => hf
  purges f hu h := (h.setPage (f := f) (o := none) fun e => absurd e hu).congr rfl rfl rfl rfl rfl rfl rfl
  slot _ _ _ _ hr h := { h with unpacker := fun hm => absurd hm (h.not_mem_of_unread hr) }
  undecodes _ hw h := { h with unpacker := fun hm => absurd hm hw }
  remakes {s g f n} _ _ hw h := by
    have hfreed : WaitingSafe { freeOld f g.header.locator g.header.arg s with
        patches := putPatch f g.header.locator g.header.arg n s.patches } := by
      rw [freeOld_eq]
      exact h.congr rfl rfl rfl rfl rfl rfl rfl
    have hmade : WaitingSafe (s.remade f g.header.locator g.header.arg n) :=
      (hfreed.modPage f (g := fun p => { p with version := nextVersion p.version }) (.inr fun _ => rfl)).recount f _ _
    refine hmade.work ?_ .idle none
    simpa [State.remade, recount, freeOld_eq] using hw
  work u o _ hr _ _ h := h.work (h.not_mem_of_unread hr) u o
  reading _ hr hu h := { h with
    unpacker := fun hm => absurd hm (h.not_mem_of_unread hu)
    payload := hr }
  fewer _ hw h := h.fewer hw
  starts _ h := { h with loader := fun _ => ⟨_, rfl, rfl⟩ }
  readsOn h := loaderReadsOn_waitingSafe h
  judged hn h := { h with loader := fun hm => absurd hm hn }
  grant h := h.portGrant
  ticks h := h.portRuns.congr rfl rfl rfl rfl rfl rfl rfl

end Sys2Proof.Machine
end

section
/-! ## Every step keeps records, ring, tables and waiting requests safe -/

namespace Sys2Proof.Machine

/-- Settles O4: each of the four invariants is kept by the changes that commands and ticks are made of, and with them by
every step. -/
theorem stepKeepsRecordsSafe : Obligations.StepKeepsRecordsSafe :=
  ⟨fun _ _ h e => recordsSafe_changesKeep.step h e, fun _ _ h e => ringSafe_changesKeep.step h e,
    fun _ _ h e => tablesSafe_changesKeep.step h e, fun _ _ h e => waitingSafe_changesKeep.step h e⟩

end Sys2Proof.Machine
end
